-- ==== Sys2Proof/Word.lean ====
section
/-! DEFINITION. Word.lean: the word types of the ZN9840 and their plainest readings (R2, R4). -/

namespace Sys2Proof

/-- A byte of memory. -/
abbrev Byte := BitVec 8
/-- A 32-bit instruction word, an F32 bit pattern, a 32-bit lane. -/
abbrev W32 := BitVec 32
/-- A scalar register, a virtual address, a long instruction word. -/
abbrev W64 := BitVec 64
/-- A vector register (R54): lane i of width w is bits [(i+1)w-1 : iw] (R2). -/
abbrev Vec := BitVec 2048
/-- A predicate (R59): one bit for each byte lane. -/
abbrev Pred := BitVec 256

/-- A Bool as one bit. -/
def bit (b : Bool) : BitVec 1 := BitVec.ofBool b

end Sys2Proof
end

