-- ==== Sys2Proof/Config.lean ====
section
/-! DEFINITION. Config.lean: the free values of the model: constants with no body, so that no proof can see a
value of one. Each names the rule that leaves the value open and the log entry that declares it. -/

namespace Sys2Proof.Config

/-- Which member of a listed set of outcomes the part produces (R5). Applied to the counter State.free (log 5). -/
opaque choice : Nat → Nat

/-- A value that the manual leaves open, 2,048 bits at most. Applied to the counter State.free (log 5). -/
opaque bits : Nat → BitVec 2048

/-- The set of an L2 slice in which a line stands (R144 gives no index bits). Applied to the line (log 12). -/
opaque l2Set : Nat → Nat

/-- The special-function unit's result for an operation and an operand, before the bounds of R100 are imposed (log 7). -/
opaque sfu : Nat → BitVec 32 → BitVec 32

/-- Where an exact tie between the scale 0 and the smallest UE8M8 scale rounds: both codes are even (R111, log 7). -/
opaque scaleTieUp : Bool

/-- The public key whose SHA3-512 digest is fused into the part (R423, log 16). -/
opaque rootKey : List (BitVec 8)

/-- The ML-DSA-87 check of a signature, 4,627 bytes, over a digest under a public key (R423, log 16). -/
opaque verify : List (BitVec 8) → List (BitVec 8) → BitVec 512 → Bool

/-- The ML-DSA-87 signature of a digest under the device identity key, 4,627 bytes (R425, log 16). -/
opaque sign : BitVec 512 → BitVec 37016

/-- The module's draw in watts over the last microsecond (PWRSTAT.WATTS). Applied to State.free (log 16). -/
opaque watts : Nat → BitVec 16

end Sys2Proof.Config
end

