-- ==== Sys2Proof/Syntax.lean ====
section
/-! DEFINITION. Syntax.lean: the instructions of Thrumen, one constructor for each row of spec/opcode_table.json, with the
operand forms they share (R26-R34). A field is a bit vector of the width its rule gives; an operand code is the register
it names, so that the reserved codes of R26 cannot be written. -/

namespace Sys2Proof

/-- A scalar operand code (R26): s0-s31 or qs0-qs15. -/
inductive SCode where
  | s (n : BitVec 5)
  | qs (n : BitVec 4)
  deriving DecidableEq, Repr

/-- A vector operand code, long or short (R26): v0-v767, qv0-qv15, or the held value `=`. -/
inductive VCode where
  | v (n : BitVec 10)
  | qv (n : BitVec 4)
  | held
  deriving DecidableEq, Repr

/-- A cascade operation of OP2 or OP3 (R28). -/
inductive CascOp where
  | add | sub | rsub | mul | min | max | and
  deriving DecidableEq, Repr

/-- The cascade that follows OP1: no unit, the second, or the second and third (R28, R29). -/
inductive Chain where
  | none
  | one (o2 : CascOp) (x2 : VCode)
  | two (o2 : CascOp) (x2 : VCode) (o3 : CascOp) (x3 : VCode)
  deriving DecidableEq, Repr

/-- The fields every V word has (R28): STK, MODE, PRED, Z. -/
structure VHead where
  st   : Bool
  mode : BitVec 4
  pred : BitVec 4
  z    : Bool
  deriving DecidableEq, Repr

/-- The class and scope of an access (R31): none is D = 1, the class of CLSDEF. -/
structure MHead where
  cls   : Option (BitVec 4)
  scope : BitVec 3
  deriving DecidableEq, Repr

/-- The token fields of an engine instruction with T = 1 (R32): the token produced and the tokens consumed. -/
structure Tok where
  out : BitVec 5
  ins : List (BitVec 5)
  deriving DecidableEq, Repr

/-- An operand of FENCE.R (R170): a tensor identifier, or the register range [sN, sN + s(N+1)). -/
inductive FOpd where
  | ti (n : BitVec 6)
  | range (n : BitVec 5)
  deriving DecidableEq, Repr

/-- The instructions and the events of the machine: one constructor for each row of the opcode table. -/
inductive Instr where
  -- S slot (R48)
  /-- NOP.S, R11. -/
  | nopS
  /-- ADD register form, R70. -/
  | addReg (st : Bool) (d : BitVec 5) (a b : SCode)
  /-- ADD immediate form, R70. -/
  | addImm (st : Bool) (d : BitVec 5) (a : SCode) (i : BitVec 13)
  /-- SUB register form, R70. -/
  | subReg (st : Bool) (d : BitVec 5) (a b : SCode)
  /-- SUB immediate form, R70. -/
  | subImm (st : Bool) (d : BitVec 5) (a : SCode) (i : BitVec 13)
  /-- MUL register form, R70. -/
  | mulReg (st : Bool) (d : BitVec 5) (a b : SCode)
  /-- MUL immediate form, R70. -/
  | mulImm (st : Bool) (d : BitVec 5) (a : SCode) (i : BitVec 13)
  /-- MULH register form; u is `.u`, R70. -/
  | mulhReg (st : Bool) (d : BitVec 5) (a b : SCode) (u : Bool)
  /-- MULH immediate form, signed, R70. -/
  | mulhImm (st : Bool) (d : BitVec 5) (a : SCode) (i : BitVec 13)
  /-- DIV register form; u is `.u`, R71. -/
  | divReg (st : Bool) (d : BitVec 5) (a b : SCode) (u : Bool)
  /-- DIV immediate form, signed, R71. -/
  | divImm (st : Bool) (d : BitVec 5) (a : SCode) (i : BitVec 13)
  /-- REM register form; u is `.u`, R71. -/
  | remReg (st : Bool) (d : BitVec 5) (a b : SCode) (u : Bool)
  /-- REM immediate form, signed, R71. -/
  | remImm (st : Bool) (d : BitVec 5) (a : SCode) (i : BitVec 13)
  /-- MIN register form; u is `.u`, R70. -/
  | minReg (st : Bool) (d : BitVec 5) (a b : SCode) (u : Bool)
  /-- MIN immediate form, signed, R70. -/
  | minImm (st : Bool) (d : BitVec 5) (a : SCode) (i : BitVec 13)
  /-- MAX register form; u is `.u`, R70. -/
  | maxReg (st : Bool) (d : BitVec 5) (a b : SCode) (u : Bool)
  /-- MAX immediate form, signed, R70. -/
  | maxImm (st : Bool) (d : BitVec 5) (a : SCode) (i : BitVec 13)
  /-- AND register form, R70. -/
  | andReg (st : Bool) (d : BitVec 5) (a b : SCode)
  /-- AND immediate form, R70. -/
  | andImm (st : Bool) (d : BitVec 5) (a : SCode) (i : BitVec 13)
  /-- OR register form, R70. -/
  | orReg (st : Bool) (d : BitVec 5) (a b : SCode)
  /-- OR immediate form, R70. -/
  | orImm (st : Bool) (d : BitVec 5) (a : SCode) (i : BitVec 13)
  /-- XOR register form, R70. -/
  | xorReg (st : Bool) (d : BitVec 5) (a b : SCode)
  /-- XOR immediate form, R70. -/
  | xorImm (st : Bool) (d : BitVec 5) (a : SCode) (i : BitVec 13)
  /-- SHL register form, R70. -/
  | shlReg (st : Bool) (d : BitVec 5) (a b : SCode)
  /-- SHL immediate form, count 0-63, R70. -/
  | shlImm (st : Bool) (d : BitVec 5) (a : SCode) (i : BitVec 6)
  /-- SHR register form, R70. -/
  | shrReg (st : Bool) (d : BitVec 5) (a b : SCode)
  /-- SHR immediate form, count 0-63, R70. -/
  | shrImm (st : Bool) (d : BitVec 5) (a : SCode) (i : BitVec 6)
  /-- SRA register form, R70. -/
  | sraReg (st : Bool) (d : BitVec 5) (a b : SCode)
  /-- SRA immediate form, count 0-63, R70. -/
  | sraImm (st : Bool) (d : BitVec 5) (a : SCode) (i : BitVec 6)
  /-- LIH, R70. -/
  | lih (st : Bool) (d : BitVec 5) (a : SCode) (i : BitVec 13)
  /-- CMP register form, R72. -/
  | cmpReg (st : Bool) (d : BitVec 5) (a b : SCode) (c : BitVec 4)
  /-- CMP immediate form, R72. -/
  | cmpImm (st : Bool) (d : BitVec 5) (a : SCode) (i : BitVec 9) (c : BitVec 4)
  /-- SEL register form, R73. -/
  | selReg (st : Bool) (d : BitVec 5) (a b : SCode) (c : SCode)
  /-- SEL immediate form, R73. -/
  | selImm (st : Bool) (d : BitVec 5) (a : SCode) (i : BitVec 7) (c : SCode)
  /-- BFX register form, width w + 1, R74. -/
  | bfxReg (st : Bool) (d : BitVec 5) (a b : SCode) (g : Bool) (w : BitVec 6)
  /-- BFX immediate form, R74. -/
  | bfxImm (st : Bool) (d : BitVec 5) (a : SCode) (g : Bool) (p w : BitVec 6)
  /-- BFI, R74. -/
  | bfi (st : Bool) (d : BitVec 5) (a : SCode) (p w : BitVec 6)
  /-- CLZ, R70. -/
  | clz (st : Bool) (d : BitVec 5) (a : SCode)
  /-- POPC, R70. -/
  | popc (st : Bool) (d : BitVec 5) (a : SCode)
  /-- ADDS register form, R75. -/
  | addsReg (st : Bool) (d : BitVec 5) (a b : SCode) (h : BitVec 4)
  /-- ADDS immediate form, R75. -/
  | addsImm (st : Bool) (d : BitVec 5) (a : SCode) (i : BitVec 13)
  /-- WID, R76. -/
  | wid (st : Bool) (d : BitVec 5) (t : Bool) (f : BitVec 3)
  /-- BR on a scalar, R183. -/
  | brScalar (c : BitVec 2) (a : SCode) (o : BitVec 16)
  /-- BR on a predicate (c counts from `.any`; 3 is reserved), R183. -/
  | brPred (c : BitVec 2) (p : BitVec 4) (o : BitVec 16)
  /-- BRA, R183. -/
  | bra (o : BitVec 25)
  /-- CALL, R184. -/
  | call (d : BitVec 5) (o : BitVec 20)
  /-- RET, R184. -/
  | ret (a : SCode)
  /-- JMPR, R184. -/
  | jmpr (a : SCode) (o : BitVec 19)
  /-- LOOPN, R185. -/
  | loopn (l : BitVec 3) (a : SCode) (k : BitVec 16)
  /-- LEND, R185. -/
  | lend (l : BitVec 3)
  /-- TASKEND, R186. -/
  | taskend
  /-- LIFT, R344-R346. -/
  | lift (a : SCode) (o : BitVec 19)
  /-- LRET, R347. -/
  | lret
  /-- BRB on a scalar, R343. -/
  | brbScalar (c : BitVec 2) (a : SCode) (o : BitVec 16)
  /-- BRB on a predicate, R343. -/
  | brbPred (c : BitVec 2) (p : BitVec 4) (o : BitVec 16)
  /-- LJOIN, R343. -/
  | ljoin
  /-- CTLRD, R396. -/
  | ctlrd (d : BitVec 5) (c : BitVec 10)
  /-- CTLWR, R396. -/
  | ctlwr (a : SCode) (c : BitVec 10)
  /-- ERET, R393. -/
  | eret
  /-- TRAP, R396. -/
  | trap (i : BitVec 16)
  -- V slot (R49)
  /-- NOP.V, R11. -/
  | nopV
  /-- VADD, R83. -/
  | vadd (h : VHead) (d : BitVec 10) (a b : VCode) (ch : Chain)
  /-- VSUB, R83. -/
  | vsub (h : VHead) (d : BitVec 10) (a b : VCode) (ch : Chain)
  /-- VMUL, R83. -/
  | vmul (h : VHead) (d : BitVec 10) (a b : VCode) (ch : Chain)
  /-- VFMA, R83. -/
  | vfma (h : VHead) (d : BitVec 10) (a b c : VCode) (ch : Chain)
  /-- VMIN, R83, R78. -/
  | vmin (h : VHead) (d : BitVec 10) (a b : VCode) (ch : Chain)
  /-- VMAX, R83, R78. -/
  | vmax (h : VHead) (d : BitVec 10) (a b : VCode) (ch : Chain)
  /-- VABS, R83. -/
  | vabs (h : VHead) (d : BitVec 10) (a : VCode) (ch : Chain)
  /-- VNEG, R83. -/
  | vneg (h : VHead) (d : BitVec 10) (a : VCode) (ch : Chain)
  /-- VAND, R83. -/
  | vand (h : VHead) (d : BitVec 10) (a b : VCode) (ch : Chain)
  /-- VOR, R83. -/
  | vor (h : VHead) (d : BitVec 10) (a b : VCode) (ch : Chain)
  /-- VXOR, R83. -/
  | vxor (h : VHead) (d : BitVec 10) (a b : VCode) (ch : Chain)
  /-- VSHL, R83. -/
  | vshl (h : VHead) (d : BitVec 10) (a b : VCode) (ch : Chain)
  /-- VSHR, R83. -/
  | vshr (h : VHead) (d : BitVec 10) (a b : VCode) (ch : Chain)
  /-- VSRA, R83. -/
  | vsra (h : VHead) (d : BitVec 10) (a b : VCode) (ch : Chain)
  /-- VMOV, R83. -/
  | vmov (h : VHead) (d : BitVec 10) (a : VCode) (ch : Chain)
  /-- VCMP, R85. -/
  | vcmp (h : VHead) (pd : BitVec 4) (a b : VCode) (c : BitVec 6)
  /-- VSEL, R86. -/
  | vsel (h : VHead) (d : BitVec 10) (a b : VCode) (ps : BitVec 4)
  /-- VMAC16, R87. -/
  | vmac16 (h : VHead) (d : BitVec 10) (a b c : VCode) (sh : BitVec 4)
  /-- VDOT4, R88. -/
  | vdot4 (h : VHead) (d : BitVec 10) (a b c : VCode)
  /-- VRED, R89. -/
  | vred (h : VHead) (d : BitVec 10) (a : VCode) (op : BitVec 3)
  /-- VSCAN, R90. -/
  | vscan (h : VHead) (d : BitVec 10) (a : VCode) (op : BitVec 2) (x : Bool)
  /-- VPERM, R91. -/
  | vperm (h : VHead) (d : BitVec 10) (a b : VCode)
  /-- VSLIDE, R91. -/
  | vslide (h : VHead) (d : BitVec 10) (a b : VCode) (k : BitVec 8)
  /-- VBCAST from a scalar, R92. -/
  | vbcastScalar (h : VHead) (d : BitVec 10) (x : SCode)
  /-- VBCAST from a lane, R92. -/
  | vbcastLane (h : VHead) (d : BitVec 10) (a : VCode) (lane : BitVec 8)
  /-- VPOPC, R93. -/
  | vpopc (h : VHead) (d : BitVec 10) (a : VCode)
  /-- VCOMPRESS, R93. -/
  | vcompress (h : VHead) (d : BitVec 10) (a : VCode)
  /-- VEXPAND, R93. -/
  | vexpand (h : VHead) (d : BitVec 10) (a : VCode)
  /-- VIOTA, R93. -/
  | viota (h : VHead) (d : BitVec 10)
  /-- PAND, R94. -/
  | pand (h : VHead) (pd pa pb : BitVec 4)
  /-- POR, R94. -/
  | por (h : VHead) (pd pa pb : BitVec 4)
  /-- PXOR, R94. -/
  | pxor (h : VHead) (pd pa pb : BitVec 4)
  /-- PNOT, R94. -/
  | pnot (h : VHead) (pd pa : BitVec 4)
  /-- PCNT, R95. -/
  | pcnt (h : VHead) (sd : BitVec 5) (pa : BitVec 4)
  /-- PFIRST, R95. -/
  | pfirst (h : VHead) (sd : BitVec 5) (pa : BitVec 4)
  /-- VCVT, R117. -/
  | vcvt (h : VHead) (d : BitVec 10) (a : VCode) (part : BitVec 3) (src dst : BitVec 4) (sat sr : Bool)
  /-- VPACKB, R118. -/
  | vpackb (h : VHead) (d : BitVec 10) (a : VCode) (part : BitVec 3) (rec : BitVec 2) (sr : Bool)
  /-- VUNPACKB, R119. -/
  | vunpackb (h : VHead) (d : BitVec 10) (a : VCode) (part : BitVec 3) (rec : BitVec 2)
  /-- VBPACK pack, R120. -/
  | vbpackPack (h : VHead) (d : BitVec 10) (a : VCode) (part : BitVec 3) (k : SCode) (bp6 sr : Bool)
  /-- VBPACK.u unpack, R120. -/
  | vbpackUnpack (h : VHead) (d : BitVec 10) (a : VCode) (part : BitVec 3) (k : SCode) (bp6 : Bool)
  /-- VTR, R96. -/
  | vtr (h : VHead) (d : BitVec 10) (idx : BitVec 8) (mt : BitVec 3) (x : SCode)
  /-- VTW, R96. -/
  | vtw (h : VHead) (idx : BitVec 8) (mt : BitVec 3) (x : SCode) (a : VCode)
  /-- LREDUCE, R348. -/
  | lreduce (h : VHead) (d : BitVec 10) (a : VCode) (op : BitVec 3) (lvl : BitVec 2)
  -- F slot (R50)
  /-- NOP.F, R11. -/
  | nopF
  /-- FRCP, R98-R101. -/
  | frcp (st : Bool) (d : BitVec 10) (a : VCode) (p : BitVec 4) (z : Bool)
  /-- FRSQ, R98-R101. -/
  | frsq (st : Bool) (d : BitVec 10) (a : VCode) (p : BitVec 4) (z : Bool)
  /-- FSQRT, R98-R101. -/
  | fsqrt (st : Bool) (d : BitVec 10) (a : VCode) (p : BitVec 4) (z : Bool)
  /-- FEXP2, R98-R101. -/
  | fexp2 (st : Bool) (d : BitVec 10) (a : VCode) (p : BitVec 4) (z : Bool)
  /-- FLOG2, R98-R101. -/
  | flog2 (st : Bool) (d : BitVec 10) (a : VCode) (p : BitVec 4) (z : Bool)
  /-- FSIG, R98-R101. -/
  | fsig (st : Bool) (d : BitVec 10) (a : VCode) (p : BitVec 4) (z : Bool)
  /-- FTANH, R98-R101. -/
  | ftanh (st : Bool) (d : BitVec 10) (a : VCode) (p : BitVec 4) (z : Bool)
  /-- FSIN, R98-R101. -/
  | fsin (st : Bool) (d : BitVec 10) (a : VCode) (p : BitVec 4) (z : Bool)
  /-- FCOS, R98-R101. -/
  | fcos (st : Bool) (d : BitVec 10) (a : VCode) (p : BitVec 4) (z : Bool)
  -- M slot (R51)
  /-- NOP.M, R11. -/
  | nopM
  /-- LD, R150. -/
  | ld (st : Bool) (h : MHead) (d : BitVec 5) (base : SCode) (lur : Bool) (size : BitVec 2) (sx : Bool) (stride : BitVec 11) (ofs : BitVec 14)
  /-- ST, R150. -/
  | st (st : Bool) (h : MHead) (x : SCode) (base : SCode) (lur : Bool) (size : BitVec 2) (stride : BitVec 11) (ofs : BitVec 14)
  /-- VLD, R151. -/
  | vld (st : Bool) (h : MHead) (p : BitVec 4) (d : BitVec 10) (base : SCode) (lur : Bool) (stride ofs : BitVec 14)
  /-- VST, R151. -/
  | vst (st : Bool) (h : MHead) (p : BitVec 4) (x : VCode) (base : SCode) (lur : Bool) (stride ofs : BitVec 14)
  /-- VLDC, R152. -/
  | vldc (st : Bool) (h : MHead) (p : BitVec 4) (d : BitVec 10) (base : SCode) (stride ofs : BitVec 14)
  /-- LDA, R153. -/
  | lda (h : MHead) (d : BitVec 5) (base : SCode) (lur : Bool) (size : BitVec 2) (sx : Bool) (ofs : BitVec 14)
  /-- STREL, R153. -/
  | strel (h : MHead) (x : SCode) (base : SCode) (lur : Bool) (size : BitVec 2) (ofs : BitVec 14)
  /-- AMO, R154. -/
  | amo (h : MHead) (aop : BitVec 4) (src base cmp : SCode) (rd : BitVec 5) (size : BitVec 2) (ofs : BitVec 14)
  /-- CFLUSH, R155. -/
  | cflush (st : Bool) (h : MHead) (base : SCode) (stride ofs : BitVec 14)
  /-- CINV, R155. -/
  | cinv (st : Bool) (h : MHead) (base : SCode) (stride ofs : BitVec 14)
  /-- CPREF, R155. -/
  | cpref (st : Bool) (h : MHead) (base : SCode) (stride ofs : BitVec 14)
  /-- VSPILL, n1 is n - 1, R66-R69. -/
  | vspill (h : MHead) (v : BitVec 10) (base : SCode) (lur : Bool) (n1 : BitVec 10) (ofs : BitVec 14)
  /-- VFILL, n1 is n - 1, R66-R69. -/
  | vfill (h : MHead) (v : BitVec 10) (base : SCode) (lur : Bool) (n1 : BitVec 10) (ofs : BitVec 14)
  /-- FENCE.C, R168. -/
  | fenceC (scope : BitVec 3) (mask : BitVec 16)
  /-- FENCE.R with one to four operands, R170. -/
  | fenceR (scope : BitVec 3) (o : FOpd) (os : List FOpd)
  /-- TLA, R237. -/
  | tla (k : Tok) (p : BitVec 4) (lvl : BitVec 5) (node : SCode) (v : BitVec 10) (ti : BitVec 6)
  /-- TLD, R237. -/
  | tld (k : Tok) (p : BitVec 4) (lvl : BitVec 5) (node : SCode) (v : BitVec 10) (ti : BitVec 6) (band : BitVec 3)
  /-- TSA, R237. -/
  | tsa (k : Tok) (p : BitVec 4) (lvl : BitVec 5) (node : SCode) (x : VCode) (ti : BitVec 6)
  /-- TSD, R237. -/
  | tsd (k : Tok) (p : BitVec 4) (lvl : BitVec 5) (node : SCode) (x : VCode) (ti : BitVec 6) (band : BitVec 3)
  /-- TDSC, R237. -/
  | tdsc (k : Tok) (p : BitVec 4) (lvl : BitVec 5) (node : SCode) (pd : BitVec 4) (ti : BitVec 6) (te : Bool)
  /-- TCELL.c, R245. -/
  | tcellCommit (k : Tok) (lvl : BitVec 5) (node : SCode) (ti : BitVec 6)
  /-- TCELL.r, R245. -/
  | tcellRelease (k : Tok) (lvl : BitVec 5) (node : SCode) (ti : BitVec 6)
  /-- GATH; no index vector is `lane`, R309. -/
  | gath (h : MHead) (d : BitVec 10) (base : SCode) (lur : Bool) (sz : BitVec 2) (idx : Option VCode) (cnt : SCode)
  /-- SCAT, R309. -/
  | scat (h : MHead) (x : VCode) (base : SCode) (lur : Bool) (sz : BitVec 2) (idx : Option VCode) (cnt : SCode)
  /-- SCAT.ADD, R309. -/
  | scatAdd (h : MHead) (x : VCode) (base : SCode) (lur : Bool) (sz : BitVec 2) (idx : Option VCode) (cnt : SCode) (fadd : Bool)
  /-- QPUSH; core is `.core`, R305. -/
  | qpush (core : Bool) (x : VCode) (q : BitVec 2)
  /-- QPOP, R305. -/
  | qpop (st : Bool) (p : BitVec 4) (d : BitVec 10) (q : BitVec 2)
  /-- BARI, R280. -/
  | bari (h : MHead) (src base : SCode) (ofs : BitVec 14)
  /-- BARA, R280. -/
  | bara (h : MHead) (src base : SCode) (rd : BitVec 5) (ofs : BitVec 14)
  /-- BARW, R280. -/
  | barw (h : MHead) (src base : SCode) (ofs : BitVec 14)
  /-- BARX, R280. -/
  | barx (h : MHead) (base : SCode) (rd : BitVec 5) (ofs : BitVec 14)
  /-- COMMIT, R358. -/
  | commit (cls : Option (BitVec 4)) (cnt base : SCode)
  /-- DECOMMIT, R358. -/
  | decommit (cls : Option (BitVec 4)) (cnt base : SCode) (unmap : Bool)
  /-- ALLOC, R363. -/
  | alloc (h : MHead) (base : SCode) (rd : BitVec 5)
  /-- FREE, R363. -/
  | free (h : MHead) (src base : SCode)
  /-- TLBINV, R365. -/
  | tlbinv (scope : BitVec 3) (asid base : SCode) (size : BitVec 2)
  -- X slot (R52)
  /-- NOP.X, R52. -/
  | nopX
  /-- MMA, A from scratchpad, R219. -/
  | mmaScratchpad (k : Tok) (md : BitVec 3) (eb : BitVec 2) (tia : BitVec 6) (base : SCode) (kf : BitVec 8)
  /-- MMA, A from vectors, R219. -/
  | mmaVector (k : Tok) (md : BitVec 3) (eb : BitVec 2) (tia : BitVec 6) (v : BitVec 10) (kf : BitVec 8)
  /-- MMAS, R219, R222. -/
  | mmas (k : Tok) (md : BitVec 3) (eb : BitVec 2) (tia : BitVec 6) (base : SCode) (kf : BitVec 8)
  /-- LDE, R218. -/
  | lde (k : Tok) (eb : BitVec 2) (tib : BitVec 6) (cmask : BitVec 8) (base : SCode)
  /-- MZERO, T = 0, R224. -/
  | mzero (ks : List (BitVec 5)) (mt : BitVec 3)
  /-- MSAVE, R224. -/
  | msave (k : Tok) (mt : BitVec 3) (sp : Bool) (base : SCode) (ofs : BitVec 13)
  /-- MLOAD, R224. -/
  | mload (k : Tok) (mt : BitVec 3) (sp : Bool) (base : SCode) (ofs : BitVec 13)
  /-- COPY, R265. -/
  | copy (k : Tok) (desc soff doff : SCode)
  /-- RLAY, R271. -/
  | rlay (k : Tok) (tis tid : BitVec 6) (sb db prm : SCode) (rm : BitVec 2) (sat : Bool)
  /-- STAGE, R275. -/
  | stage (k : Tok) (n : BitVec 9) (soff doff : SCode)
  /-- MGSET, R315. -/
  | mgset (k : Tok) (desc tag : SCode)
  /-- MGPUSH, R315. -/
  | mgpush (k : Tok) (stream : BitVec 4) (v : BitVec 10) (cnt tag : SCode)
  /-- MGFIN, R315. -/
  | mgfin (k : Tok) (ti : BitVec 6) (tag tsk : SCode) (dec : Bool)
  /-- CONTRACT, R323. -/
  | contract (k : Tok) (blk : SCode)
  /-- ASTART, R300. -/
  | astart (k : Tok) (entry arg : SCode)
  /-- ASTART.post, R300, R301. -/
  | astartPost (k : Tok) (flag : BitVec 4) (n : BitVec 8)
  /-- SEND, R411. -/
  | send (k : Tok) (link : BitVec 5) (sp : Bool) (buf len : SCode) (tag : BitVec 8)
  /-- RECV, R411. -/
  | recv (k : Tok) (link : BitVec 5) (sp : Bool) (buf len : SCode) (tag : BitVec 8)
  /-- RAMO; d8 is `.d`, R415. -/
  | ramo (k : Tok) (aop : BitVec 4) (d8 : Bool) (base src cmp : SCode) (rd : BitVec 5)
  /-- LAUNCH, R384. -/
  | launch (k : Tok) (rec : SCode)
  /-- TASKSET, R384. -/
  | taskset (k : Tok) (ent slot : SCode)
  /-- TASKDEC, R384. -/
  | taskdec (k : Tok) (val : SCode)
  -- Y slot (R53)
  /-- NOP.Y, R53. -/
  | nopY
  /-- FWAIT, R291. -/
  | fwait (f : BitVec 4) (n : BitVec 8)
  /-- FPOST, R291. -/
  | fpost (f : BitVec 4) (self : Bool) (ctx : BitVec 2) (n : BitVec 5)
  /-- FPOSTR, R291. -/
  | fpostr (f : BitVec 4) (a : SCode)
  /-- KWAIT, R288. -/
  | kwait (nt : Bool) (k : BitVec 5)
  -- K word (R34)
  /-- KILL, FORM 0. -/
  | killScalar (blk : BitVec 4) (mask : SCode)
  /-- KILL, FORM 1. -/
  | killImmLo (blk : BitVec 4) (imm : BitVec 32)
  /-- KILL, FORM 2. -/
  | killImmHi (blk : BitVec 4) (imm : BitVec 32)
  -- Events: the steps of the machine that are no slot word (opcode_table.json). Each names the unit it happens at.
  /-- A bundle with no slot words, R24. -/
  | headerOnlyBundle
  /-- R179. -/
  | instructionFetch (agent : Nat)
  /-- R199. -/
  | resultLanding (agent : Nat)
  /-- R199. -/
  | lateDataArrival (agent : Nat)
  /-- R140. -/
  | translationAnswer (agent : Nat)
  /-- R193. -/
  | blockEnd (agent : Nat)
  /-- R196. -/
  | quantumBlock (agent : Nat)
  /-- R99. -/
  | sfuTake (core : Nat)
  /-- R139. -/
  | storePerform (agent id : Nat)
  /-- R145. -/
  | migrationWindow
  /-- R122. -/
  | calendarRotation
  /-- R128. -/
  | calendarSlot (channel : Nat)
  /-- R131. -/
  | budgetPeriod
  /-- R127. -/
  | calendarCommit
  /-- R136. -/
  | laneLendingHandshake (channel : Nat)
  /-- R206. -/
  | arrayCommandStart (core : Nat)
  /-- R205. -/
  | arrayCommandComplete (core : Nat)
  /-- R206. -/
  | latchCommandStart (core : Nat)
  /-- R218. -/
  | ldeComplete (core : Nat)
  /-- R239. -/
  | treeCommandStart (core : Nat)
  /-- R249. -/
  | treeAccessPerform (core : Nat)
  /-- R268. -/
  | copyCommandStart (core : Nat)
  /-- R270. -/
  | copyComplete (core id : Nat)
  /-- R275. -/
  | scheduleEntryStart (core : Nat)
  /-- The n-th arrival on its way, R279. -/
  | barrierArrival (n : Nat)
  /-- The n-th post on its way, R296. -/
  | flagPostArrival (n : Nat)
  /-- R316. -/
  | mgsetOpen (cluster : Nat)
  /-- R318. -/
  | mgpushArrival (cluster : Nat)
  /-- R319. -/
  | mgfinClose (cluster : Nat)
  /-- R300. -/
  | accessProgramStart (core : Nat)
  /-- R172. -/
  | rangeCounterRelease (core : Nat)
  /-- R363. -/
  | freeApply (agent : Nat)
  /-- R412. -/
  | messageArrival (core : Nat)
  /-- R412. -/
  | creditReturn (link flits : Nat)
  /-- R426. -/
  | mgmtcmdLoad (blk : Nat)
  /-- R426. -/
  | mgmtcmdAttest (blk : Nat)
  /-- R413. -/
  | recvComplete (core : Nat)
  /-- R415. -/
  | ramoRemoteOperation (core : Nat)
  /-- The n-th signal packet on its way, R416. -/
  | remoteSignalDelivery (n : Nat)
  /-- R412. -/
  | linkTrained (link : Nat)
  /-- R408. -/
  | linkDown (link : Nat)
  /-- R403. -/
  | singleStepStop (ctx : Nat)
  /-- R386. -/
  | tasksetArm (core : Nat)
  /-- R402. -/
  | debugStop (ctx : Nat)
  /-- R399. -/
  | preemptionRequest (ctx : Nat)
  /-- R399. -/
  | preemptionSaveComplete (ctx : Nat)
  /-- R226. -/
  | contextResume (ctx : Nat)
  /-- R410. -/
  | hostAccess (pa : Nat) (write : Bool) (data : List (BitVec 8))
  /-- R366. -/
  | launchAdmission
  /-- R373. -/
  | taskDispatch (ctx : Nat)
  /-- R374. -/
  | taskStart (ctx : Nat)
  /-- R378. -/
  | taskStaging (core : Nat)
  /-- R379. -/
  | budgetOverrun (ctx : Nat)
  /-- The n-th decrement on its way, R377. -/
  | slotDecrement (n : Nat)
  /-- R377. -/
  | slotEnqueue (slot : Nat)
  /-- R186. -/
  | taskendComplete (agent : Nat)
  /-- R376. -/
  | launchCompletion (launch : Nat)
  /-- R382. -/
  | lqtailWrite (v : BitVec 64)
  /-- R383. -/
  | ringEntryRead
  /-- A write of LQCTL, R407. -/
  | launchQueueReset (v : BitVec 64)
  /-- R380. -/
  | taskRerun (ctx : Nat)
  /-- R395. -/
  | machineCheck (ctx : Nat)
  /-- R417. -/
  | svcdoneResume (index : Nat) (arg : BitVec 32)
  /-- R417. -/
  | svcdoneEnd (index : Nat)
  /-- R417. -/
  | svcdoneRerun (index : Nat)
  /-- R400. -/
  | ctxcmdPreempt (ctx : Nat)
  /-- R400. -/
  | ctxcmdStop (ctx : Nat)
  /-- R400. -/
  | ctxcmdResume (ctx : Nat)
  /-- R400. -/
  | ctxcmdSetdbg (ctx : Nat) (dbg : BitVec 6)
  /-- R400. -/
  | ctxcmdArmdbg (ctx : Nat) (dbg : BitVec 6)
  /-- R405. -/
  | traceOpen (cluster : Nat)
  /-- R405. -/
  | traceClose (cluster : Nat)
  /-- R422. -/
  | clockStepChange (step : BitVec 4)
  /-- R419. -/
  | powerOnReset
  /-- R421. -/
  | fullServiceSwitch
  /-- R296. -/
  | coreLeavesReset (core : Nat)
  /-- R390. -/
  | registerWrite (csel : BitVec 10) (unit : Nat) (v : BitVec 64)
  /-- R297. -/
  | coreEntersReset (core : Nat)
  /-- R296. -/
  | corePowerGate (core : Nat)
  /-- R296. -/
  | corePowerUngate (core : Nat)
  /-- R409. -/
  | inboundFabricAccess (pa : Nat) (write : Bool) (data : List (BitVec 8))
  deriving DecidableEq, Repr

end Sys2Proof
end

