-- ==== Sys2Proof/WellFormed.lean ====
section
/-! DEFINITION. WellFormed.lean: the values that an instruction's fields may take (R26-R34 and the instruction
descriptions). What depends on a context (its window, its tiles, the kind of code) is checked at issue instead. -/

namespace Sys2Proof

/-- A long vector code of a register v0-v767 (R26). -/
def vreg (n : BitVec 10) : Bool := decide (n.toNat < 768)

/-- A source of a V or F word in a long field (R26). -/
def VCode.okLong : VCode → Bool
  | .v n => vreg n
  | .qv _ => true
  | .held => true

/-- A source in a short field (R26). -/
def VCode.okShort : VCode → Bool
  | .v n => decide (n.toNat < 32)
  | .qv _ => true
  | .held => true

/-- A source that may not be the held value (R237, R309). -/
def VCode.okUnheld : VCode → Bool
  | .v n => vreg n
  | .qv _ => true
  | .held => false

/-- MODE names an integer type (R28). -/
def intMode (m : BitVec 4) : Bool := decide (12 ≤ m.toNat)

/-- Element width in bits of a MODE (R77). -/
def modeWidth (m : BitVec 4) : Nat :=
  if m.toNat < 4 then 32 else if m.toNat < 12 then 16 else if m.toNat = 12 then 32 else if m.toNat = 13 then 16 else 8

/-- Lane count of a MODE (R77). -/
def modeLanes (m : BitVec 4) : Nat := 2048 / modeWidth m

/-- The fields of a chain after an OP1 of `n` sources (R29): the new operand of OP2 is field n, that of OP3 field n + 1;
fields A and B are long, C and D short. -/
def Chain.ok (n : Nat) : Chain → Bool
  | .none => true
  | .one _ x => if n = 1 then x.okLong else x.okShort
  | .two _ x _ y => if n = 1 then x.okLong && y.okShort else if n = 2 then x.okShort && y.okShort else false

/-- Class and scope of an access (R31). -/
def MHead.ok (h : MHead) : Bool := decide (h.scope.toNat ≤ 4)

/-- At most three consumed tokens (R32). -/
def Tok.ok (k : Tok) : Bool := decide (k.ins.length ≤ 3)

/-- An operand of FENCE.R (R170). -/
def FOpd.ok : FOpd → Bool
  | .ti _ => true
  | .range n => decide (1 ≤ n.toNat) && decide (n.toNat ≤ 30)

/-- A selector that R390 lists. -/
def cselOk (c : BitVec 10) : Bool :=
  let n := c.toNat
  decide (n ≤ 0x1B) || (decide (0x20 ≤ n) && decide (n ≤ 0x24)) || (decide (0x30 ≤ n) && decide (n ≤ 0x32)) ||
    (decide (0x40 ≤ n) && decide (n ≤ 0x4B))

/-- Element width in bits of a format code in a register (R102). -/
def fmtWidth (f : Nat) : Nat :=
  match f with
  | 0 => 32 | 1 => 16 | 2 => 16 | 3 => 8 | 4 => 8 | 5 => 4 | 6 => 8 | 7 => 8
  | 8 => 32 | 9 => 16 | 10 => 8 | 11 => 8 | 12 => 4 | 13 => 16 | _ => 8

/-- A VRED or LREDUCE operation under a MODE (R89, R348). -/
def redOk (m : BitVec 4) (op : BitVec 3) : Bool :=
  decide (op.toNat ≤ 2) || (decide (op.toNat ≤ 5) && intMode m)

/-- A VCMP condition under a MODE (R85). -/
def vcmpOk (m : BitVec 4) (c : BitVec 6) : Bool :=
  match c.toNat with
  | 0 | 1 | 2 | 3 | 6 | 7 => true
  | 4 | 5 | 8 | 9 => intMode m
  | 10 | 11 => !intMode m
  | _ => false

/-- VCVT: formats, part and rounding mode (R117). -/
def vcvtOk (m : BitVec 4) (part : BitVec 3) (src dst : BitVec 4) : Bool :=
  let ws := fmtWidth src.toNat
  let wd := fmtWidth dst.toNat
  decide (m.toNat ≤ 3) && decide (src.toNat ≤ 13) && decide (dst.toNat ≤ 13) && !(ws == 4 && wd == 4) &&
    decide (part.toNat < Nat.max ws wd / Nat.min ws wd)

/-- Part limit of the record instructions (R118). -/
def recPart (r : BitVec 2) : Nat := match r.toNat with | 0 => 6 | 1 => 3 | _ => 2

/-- The AMO and RAMO operations (R154): `.fadd` at 4 bytes only, a compare value only for `.cas`. -/
def amoOk (aop : BitVec 4) (d8 : Bool) (cmp : SCode) : Bool :=
  decide (aop.toNat ≤ 10) && !(aop == 1 && d8) && (aop == 10 || cmp == .s 0)

/-- A scalar code names a register, not a queue entry. -/
def SCode.named : SCode → Bool
  | .s _ => true
  | .qs _ => false

/-- The fields of an instruction lie within the values its rules allow. An event is well-formed. -/
def Instr.wf : Instr → Bool
  | .cmpReg _ _ _ _ c => decide (c.toNat ≤ 9)
  | .cmpImm _ _ _ _ c => decide (c.toNat ≤ 9)
  | .wid _ _ _ f => f != 6
  | .brPred c _ _ => c != 3
  | .brbPred c _ _ => c != 3
  | .loopn l _ _ => decide (l.toNat ≤ 5)
  | .lend l => decide (l.toNat ≤ 5)
  | .ctlrd _ c => cselOk c
  | .ctlwr _ c => cselOk c
  | .vadd _ d a b ch => vreg d && a.okLong && b.okLong && ch.ok 2
  | .vsub _ d a b ch => vreg d && a.okLong && b.okLong && ch.ok 2
  | .vmul _ d a b ch => vreg d && a.okLong && b.okLong && ch.ok 2
  | .vfma _ d a b c ch => vreg d && a.okLong && b.okLong && c.okShort && ch.ok 3
  | .vmin _ d a b ch => vreg d && a.okLong && b.okLong && ch.ok 2
  | .vmax _ d a b ch => vreg d && a.okLong && b.okLong && ch.ok 2
  | .vabs _ d a ch => vreg d && a.okLong && ch.ok 1
  | .vneg _ d a ch => vreg d && a.okLong && ch.ok 1
  | .vand _ d a b ch => vreg d && a.okLong && b.okLong && ch.ok 2
  | .vor _ d a b ch => vreg d && a.okLong && b.okLong && ch.ok 2
  | .vxor _ d a b ch => vreg d && a.okLong && b.okLong && ch.ok 2
  | .vshl h d a b ch => intMode h.mode && vreg d && a.okLong && b.okLong && ch.ok 2
  | .vshr h d a b ch => intMode h.mode && vreg d && a.okLong && b.okLong && ch.ok 2
  | .vsra h d a b ch => intMode h.mode && vreg d && a.okLong && b.okLong && ch.ok 2
  | .vmov _ d a ch => vreg d && a.okLong && ch.ok 1
  | .vcmp h _ a b c => a.okLong && b.okLong && vcmpOk h.mode c
  | .vsel _ d a b _ => vreg d && a.okLong && b.okLong
  | .vmac16 h d a b c _ => h.mode == 13 && vreg d && a.okLong && b.okLong && c.okShort
  | .vdot4 h d a b c => decide (14 ≤ h.mode.toNat) && vreg d && a.okLong && b.okLong && c.okShort
  | .vred h d a op => !h.z && vreg d && a.okLong && redOk h.mode op
  | .vscan _ d a op _ => vreg d && a.okLong && op != 3
  | .vperm _ d a b => vreg d && a.okLong && b.okLong
  | .vslide h d a b k => vreg d && a.okLong && b.okLong && decide (k.toNat < modeLanes h.mode)
  | .vbcastScalar _ d _ => vreg d
  | .vbcastLane h d a lane => vreg d && a.okLong && decide (lane.toNat < modeLanes h.mode)
  | .vpopc h d a => intMode h.mode && vreg d && a.okLong
  | .vcompress _ d a => vreg d && a.okLong
  | .vexpand _ d a => vreg d && a.okLong
  | .viota h d => intMode h.mode && vreg d
  | .pand h _ _ _ => h.mode == 0
  | .por h _ _ _ => h.mode == 0
  | .pxor h _ _ _ => h.mode == 0
  | .pnot h _ _ => h.mode == 0
  | .pcnt h _ _ => !h.z
  | .pfirst h _ _ => !h.z
  | .vcvt h d a part src dst _ _ => vreg d && a.okLong && vcvtOk h.mode part src dst
  | .vpackb h d a part rec _ => decide (h.mode.toNat ≤ 3) && !h.z && vreg d && a.okLong && decide (part.toNat ≤ recPart rec)
  | .vunpackb h d a part rec => decide (h.mode.toNat ≤ 3) && vreg d && a.okLong && decide (part.toNat ≤ recPart rec)
  | .vbpackPack h d a part _ bp6 _ =>
      decide (h.mode.toNat ≤ 3) && vreg d && a.okLong && decide (part.toNat ≤ if bp6 then 4 else 3)
  | .vbpackUnpack h d a part _ bp6 =>
      decide (h.mode.toNat ≤ 3) && vreg d && a.okLong && decide (part.toNat ≤ if bp6 then 4 else 3)
  | .vtr h d _ _ _ => h.mode == 0 && vreg d
  | .vtw h _ _ _ a => h.mode == 0 && !h.z && a.okLong
  | .lreduce h d a op lvl => vreg d && a.okLong && redOk h.mode op && lvl != 0
  | .frcp _ d a _ _ => vreg d && a.okLong
  | .frsq _ d a _ _ => vreg d && a.okLong
  | .fsqrt _ d a _ _ => vreg d && a.okLong
  | .fexp2 _ d a _ _ => vreg d && a.okLong
  | .flog2 _ d a _ _ => vreg d && a.okLong
  | .fsig _ d a _ _ => vreg d && a.okLong
  | .ftanh _ d a _ _ => vreg d && a.okLong
  | .fsin _ d a _ _ => vreg d && a.okLong
  | .fcos _ d a _ _ => vreg d && a.okLong
  | .ld _ h _ _ _ size sx _ _ => h.ok && !(size == 3 && sx)
  | .st _ h _ _ _ _ _ _ => h.ok
  | .vld _ h _ d _ _ _ _ => h.ok && vreg d
  | .vst _ h _ x _ _ _ _ => h.ok && x.okLong
  | .vldc _ h _ d _ _ _ => h.ok && vreg d
  | .lda h _ _ _ size sx _ => h.ok && decide (2 ≤ size.toNat) && !(size == 3 && sx)
  | .strel h _ _ _ size _ => h.ok && decide (2 ≤ size.toNat)
  | .amo h aop _ _ cmp _ size _ => h.ok && decide (2 ≤ size.toNat) && amoOk aop (size == 3) cmp
  | .cflush _ h _ _ _ => h.ok
  | .cinv _ h _ _ _ => h.ok
  | .cpref _ h _ _ _ => decide (h.scope.toNat ≤ 3)
  | .vspill h v _ _ n1 _ => h.ok && vreg v && decide (n1.toNat < 768)
  | .vfill h v _ _ n1 _ => h.ok && vreg v && decide (n1.toNat < 768)
  | .fenceC scope mask => decide (scope.toNat ≤ 4) && mask != 0
  | .fenceR scope o os => decide (scope.toNat ≤ 4) && o.ok && os.all FOpd.ok && decide (os.length ≤ 3)
  | .tla k _ _ _ v _ => k.ok && vreg v
  | .tld k _ _ _ v _ band => k.ok && vreg v && band != 0
  | .tsa k _ _ _ x _ => k.ok && x.okUnheld
  | .tsd k _ _ _ x _ band => k.ok && x.okUnheld && band != 0
  | .tdsc k _ _ _ _ _ _ => k.ok
  | .tcellCommit k _ _ _ => k.ok
  | .tcellRelease k _ _ _ => k.ok
  | .gath h d _ _ sz idx _ => h.ok && vreg d && decide (2 ≤ sz.toNat) && (idx.all VCode.okUnheld)
  | .scat h x _ _ sz idx _ => h.ok && x.okLong && decide (2 ≤ sz.toNat) && (idx.all VCode.okUnheld)
  | .scatAdd h x _ _ sz idx _ fadd =>
      h.ok && x.okLong && decide (2 ≤ sz.toNat) && (idx.all VCode.okUnheld) && !(fadd && sz == 3)
  | .qpush _ x _ => x.okLong
  | .qpop _ _ d _ => vreg d
  | .bari h _ _ _ => h.ok
  | .bara h _ _ _ _ => h.ok
  | .barw h _ _ _ => h.ok
  | .barx h _ _ _ => h.ok
  | .alloc h _ _ => h.scope == 3 || h.scope == 4
  | .free h _ _ => h.scope == 3 || h.scope == 4
  | .tlbinv scope _ _ _ => decide (1 ≤ scope.toNat) && decide (scope.toNat ≤ 4)
  | .mmaScratchpad k _ _ _ base kf => k.ok && base.named && decide (kf.toNat ≤ 128)
  | .mmaVector k _ _ _ v kf => k.ok && vreg v && kf != 0 && decide (kf.toNat ≤ 128)
  | .mmas k _ _ _ base kf => k.ok && base.named && decide (kf.toNat ≤ 128)
  | .lde k _ _ _ _ => k.ok
  | .mzero ks _ => decide (ks.length ≤ 3)
  | .msave k _ _ _ _ => k.ok
  | .mload k _ _ _ _ => k.ok
  | .copy k _ _ _ => k.ok
  | .rlay k _ _ _ _ _ _ _ => k.ok
  | .stage k n _ _ => k.ok && n != 0 && decide (n.toNat ≤ 256)
  | .mgset k _ _ => k.ok
  | .mgpush k _ v _ _ => k.ok && vreg v
  | .mgfin k _ _ tsk dec => k.ok && (dec || tsk == .s 0)
  | .contract k _ => k.ok
  | .astart k _ _ => k.ok
  | .astartPost k _ n => k.ok && n != 0
  | .send k link _ _ _ _ => k.ok && decide (link.toNat ≤ 17)
  | .recv k link _ _ _ _ => k.ok && decide (link.toNat ≤ 17)
  | .ramo k aop d8 _ _ cmp _ => k.ok && amoOk aop d8 cmp
  | .launch k _ => k.ok
  | .taskset k _ _ => k.ok
  | .taskdec k _ => k.ok
  | .fpost _ self ctx n => n != 0 && (!self || ctx == 0)
  | .killScalar blk _ => decide (blk.toNat ≤ 11)
  | .killImmLo blk _ => decide (blk.toNat ≤ 11)
  | .killImmHi blk _ => decide (blk.toNat ≤ 11)
  | .nopS => true
  | .addReg _ _ _ _ => true
  | .addImm _ _ _ _ => true
  | .subReg _ _ _ _ => true
  | .subImm _ _ _ _ => true
  | .mulReg _ _ _ _ => true
  | .mulImm _ _ _ _ => true
  | .mulhReg _ _ _ _ _ => true
  | .mulhImm _ _ _ _ => true
  | .divReg _ _ _ _ _ => true
  | .divImm _ _ _ _ => true
  | .remReg _ _ _ _ _ => true
  | .remImm _ _ _ _ => true
  | .minReg _ _ _ _ _ => true
  | .minImm _ _ _ _ => true
  | .maxReg _ _ _ _ _ => true
  | .maxImm _ _ _ _ => true
  | .andReg _ _ _ _ => true
  | .andImm _ _ _ _ => true
  | .orReg _ _ _ _ => true
  | .orImm _ _ _ _ => true
  | .xorReg _ _ _ _ => true
  | .xorImm _ _ _ _ => true
  | .shlReg _ _ _ _ => true
  | .shlImm _ _ _ _ => true
  | .shrReg _ _ _ _ => true
  | .shrImm _ _ _ _ => true
  | .sraReg _ _ _ _ => true
  | .sraImm _ _ _ _ => true
  | .lih _ _ _ _ => true
  | .selReg _ _ _ _ _ => true
  | .selImm _ _ _ _ _ => true
  | .bfxReg _ _ _ _ _ _ => true
  | .bfxImm _ _ _ _ _ _ => true
  | .bfi _ _ _ _ _ => true
  | .clz _ _ _ => true
  | .popc _ _ _ => true
  | .addsReg _ _ _ _ _ => true
  | .addsImm _ _ _ _ => true
  | .brScalar _ _ _ => true
  | .bra _ => true
  | .call _ _ => true
  | .ret _ => true
  | .jmpr _ _ => true
  | .taskend => true
  | .lift _ _ => true
  | .lret => true
  | .brbScalar _ _ _ => true
  | .ljoin => true
  | .eret => true
  | .trap _ => true
  | .nopV => true
  | .nopF => true
  | .nopM => true
  | .commit _ _ _ => true
  | .decommit _ _ _ _ => true
  | .nopX => true
  | .nopY => true
  | .fwait _ _ => true
  | .fpostr _ _ => true
  | .kwait _ _ => true
  | .headerOnlyBundle => true
  | .instructionFetch _ => true
  | .resultLanding _ => true
  | .lateDataArrival _ => true
  | .translationAnswer _ => true
  | .blockEnd _ => true
  | .quantumBlock _ => true
  | .sfuTake _ => true
  | .storePerform _ _ => true
  | .migrationWindow => true
  | .calendarRotation => true
  | .calendarSlot _ => true
  | .budgetPeriod => true
  | .calendarCommit => true
  | .laneLendingHandshake _ => true
  | .arrayCommandStart _ => true
  | .arrayCommandComplete _ => true
  | .latchCommandStart _ => true
  | .ldeComplete _ => true
  | .treeCommandStart _ => true
  | .treeAccessPerform _ => true
  | .copyCommandStart _ => true
  | .copyComplete _ _ => true
  | .scheduleEntryStart _ => true
  | .barrierArrival _ => true
  | .flagPostArrival _ => true
  | .mgsetOpen _ => true
  | .mgpushArrival _ => true
  | .mgfinClose _ => true
  | .accessProgramStart _ => true
  | .rangeCounterRelease _ => true
  | .freeApply _ => true
  | .messageArrival _ => true
  | .creditReturn _ _ => true
  | .recvComplete _ => true
  | .ramoRemoteOperation _ => true
  | .remoteSignalDelivery _ => true
  | .linkTrained _ => true
  | .linkDown _ => true
  | .hostAccess _ _ _ => true
  | .launchAdmission => true
  | .taskDispatch _ => true
  | .taskStart _ => true
  | .taskStaging _ => true
  | .budgetOverrun _ => true
  | .slotDecrement _ => true
  | .slotEnqueue _ => true
  | .taskendComplete _ => true
  | .launchCompletion _ => true
  | .lqtailWrite _ => true
  | .ringEntryRead => true
  | .launchQueueReset _ => true
  | .taskRerun _ => true
  | .machineCheck _ => true
  | .svcdoneResume _ _ => true
  | .svcdoneEnd _ => true
  | .svcdoneRerun _ => true
  | .preemptionRequest _ => true
  | .preemptionSaveComplete _ => true
  | .contextResume _ => true
  | .ctxcmdPreempt _ => true
  | .ctxcmdStop _ => true
  | .ctxcmdResume _ => true
  | .ctxcmdSetdbg _ _ => true
  | .ctxcmdArmdbg _ _ => true
  | .debugStop _ => true
  | .singleStepStop _ => true
  | .traceOpen _ => true
  | .traceClose _ => true
  | .mgmtcmdLoad _ => true
  | .mgmtcmdAttest _ => true
  | .clockStepChange _ => true
  | .powerOnReset => true
  | .fullServiceSwitch => true
  | .coreLeavesReset _ => true
  | .registerWrite _ _ _ => true
  | .coreEntersReset _ => true
  | .corePowerGate _ => true
  | .corePowerUngate _ => true
  | .inboundFabricAccess _ _ _ => true
  | .tasksetArm _ => true

end Sys2Proof
end

