-- ==== Sys2Proof/Decode.lean ====
section
/-! DEFINITION. Decode.lean: the instruction words (R25-R34, R48-R53): fields, the encoder and the decoder. A word is a
number; bit 0 is its least significant bit. A word decodes to an instruction exactly if it is that instruction's encoding
(every must-be-zero bit zero) and its fields are well-formed; otherwise the refusal has the subcode of R45. -/

namespace Sys2Proof

/-- The field of n bits whose lowest bit is lo. -/
def fld (w lo n : Nat) : Nat := w / 2 ^ lo % 2 ^ n

/-- The bit lo of a word. -/
def flag (w lo : Nat) : Bool := fld w lo 1 == 1

/-- A word from its fields (width, value), the lowest field first. -/
def pack : List (Nat × Nat) → Nat
  | [] => 0
  | (n, v) :: r => v % 2 ^ n + 2 ^ n * pack r

/-- The kinds of slot word. -/
inductive Kind where
  | s | v | f | m | x | y | k
  deriving DecidableEq, Repr

/-- Why a word is refused: the subcodes 0x01 and 0x02 of R45, the latter with the word's opcode, or bytes that end inside a bundle. -/
inductive DecodeError where
  | unassigned
  | reserved (opcode : Nat)
  | truncated
  deriving DecidableEq, Repr

/-- The scalar code of R26. -/
def SCode.code : SCode → Nat
  | .s n => n.toNat
  | .qs n => 32 + n.toNat

/-- The register of a scalar code; 0x30-0x3F are reserved (R26). -/
def SCode.ofCode (c : Nat) : Option SCode :=
  if c < 32 then some (.s (.ofNat 5 c)) else if c < 48 then some (.qs (.ofNat 4 c)) else none

/-- The long vector code of R26. -/
def VCode.long : VCode → Nat
  | .v n => n.toNat
  | .qv n => 0x300 + n.toNat
  | .held => 0x310

/-- The register of a long vector code (R26). -/
def VCode.ofLong (c : Nat) : Option VCode :=
  if c < 768 then some (.v (.ofNat 10 c)) else if c < 784 then some (.qv (.ofNat 4 c))
  else if c = 784 then some .held else none

/-- The short vector code of R26. -/
def VCode.short : VCode → Nat
  | .v n => n.toNat
  | .qv n => 0x30 + n.toNat
  | .held => 0x20

/-- The register of a short vector code (R26). -/
def VCode.ofShort (c : Nat) : Option VCode :=
  if c < 32 then some (.v (.ofNat 10 c)) else if c = 32 then some .held
  else if c < 48 then none else if c < 64 then some (.qv (.ofNat 4 c)) else none

/-- The code of a cascade operation (R28). -/
def CascOp.code : CascOp → Nat
  | .add => 1 | .sub => 2 | .rsub => 3 | .mul => 4 | .min => 5 | .max => 6 | .and => 7

/-- The cascade operation of a code; 0 is an unused unit (R28). -/
def CascOp.ofCode (c : Nat) : Option CascOp :=
  match c with
  | 1 => some .add | 2 => some .sub | 3 => some .rsub | 4 => some .mul | 5 => some .min | 6 => some .max | 7 => some .and
  | _ => none

/-- OP2 of a chain. -/
def Chain.o2 : Chain → Nat
  | .none => 0
  | .one o _ => o.code
  | .two o _ _ _ => o.code

/-- OP3 of a chain. -/
def Chain.o3 : Chain → Nat
  | .none => 0
  | .one _ _ => 0
  | .two _ _ o _ => o.code

/-- The new operand of OP2 in a short field. -/
def Chain.x2 : Chain → Nat
  | .none => 0
  | .one _ x => x.short
  | .two _ x _ _ => x.short

/-- The new operand of OP2 in the long field B, after an OP1 of one source. -/
def Chain.l2 : Chain → Nat
  | .none => 0
  | .one _ x => x.long
  | .two _ x _ _ => x.long

/-- The new operand of OP3, always in a short field (R29). After an OP1 of one source it is field C, else field D. -/
def Chain.x3 : Chain → Nat
  | .none => 0
  | .one _ _ => 0
  | .two _ _ _ y => y.short

/-- The cascade of a V word, from the positions of the two new operands (R29). -/
def Chain.ofWord (w : Nat) (x y : Option VCode) : Option Chain :=
  match CascOp.ofCode (fld w 54 3), CascOp.ofCode (fld w 51 3) with
  | some o, some p => do let x ← x; let y ← y; some (.two o x p y)
  | some o, Option.none => do let x ← x; some (.one o x)
  | Option.none, _ => some .none

/-- The cascade after an OP1 of one source: B, then C. -/
def Chain.ofWord1 (w : Nat) : Option Chain := Chain.ofWord w (VCode.ofLong (fld w 12 10)) (VCode.ofShort (fld w 6 6))
/-- The cascade after an OP1 of two sources: C, then D. -/
def Chain.ofWord2 (w : Nat) : Option Chain := Chain.ofWord w (VCode.ofShort (fld w 6 6)) (VCode.ofShort (fld w 0 6))
/-- The cascade after an OP1 of three sources: D, and no field for OP3. -/
def Chain.ofWord3 (w : Nat) : Option Chain := Chain.ofWord w (VCode.ofShort (fld w 0 6)) Option.none

/-- The common fields of a V word (R28). -/
def vhead (w : Nat) : VHead := ⟨flag w 63, .ofNat 4 (fld w 47 4), .ofNat 4 (fld w 43 4), flag w 42⟩

/-- The class of an access word: CLS when D is 0 (R31). -/
def clsAt (w : Nat) : Option (BitVec 4) := if flag w 52 then none else some (.ofNat 4 (fld w 53 4))
/-- The D bit of a class (R31). -/
def clsD (c : Option (BitVec 4)) : Nat := match c with | none => 1 | some _ => 0
/-- The CLS field of a class (R31). -/
def clsN (c : Option (BitVec 4)) : Nat := match c with | none => 0 | some n => n.toNat
/-- Class and scope of an access word (R31). -/
def mhead (w : Nat) : MHead := ⟨clsAt w, .ofNat 3 (fld w 49 3)⟩

/-- The n-th consumed token's field; zero beyond the count (R32). -/
def tokAt (ks : List (BitVec 5)) (n : Nat) : Nat := (ks.getD n 0).toNat
/-- The consumed tokens of an engine word (R32). -/
def toksOf (w : Nat) : List (BitVec 5) :=
  match fld w 50 2 with
  | 0 => []
  | 1 => [.ofNat 5 (fld w 45 5)]
  | 2 => [.ofNat 5 (fld w 45 5), .ofNat 5 (fld w 40 5)]
  | _ => [.ofNat 5 (fld w 45 5), .ofNat 5 (fld w 40 5), .ofNat 5 (fld w 35 5)]
/-- The token fields of an engine word (R32). -/
def tokOf (w : Nat) : Tok := ⟨.ofNat 5 (fld w 52 5), toksOf w⟩

/-- The operand field of FENCE.R (R170). -/
def FOpd.code : FOpd → Nat
  | .ti n => n.toNat
  | .range n => 512 + n.toNat
/-- The operand of a field of FENCE.R (R170). -/
def FOpd.ofCode (c : Nat) : Option FOpd :=
  if c < 64 then some (.ti (.ofNat 6 c)) else if 512 ≤ c ∧ c < 544 then some (.range (.ofNat 5 c)) else none
/-- The n-th further operand field; zero when unused (R170). -/
def opdAt (os : List FOpd) (n : Nat) : Nat := match os[n]? with | some o => o.code | none => 0
/-- The further operands of FENCE.R (R170). -/
def opdsOf (w : Nat) : Option (List FOpd) :=
  match fld w 43 2 with
  | 0 => some []
  | 1 => do let a ← FOpd.ofCode (fld w 23 10); some [a]
  | 2 => do let a ← FOpd.ofCode (fld w 23 10); let b ← FOpd.ofCode (fld w 13 10); some [a, b]
  | _ => do let a ← FOpd.ofCode (fld w 23 10); let b ← FOpd.ofCode (fld w 13 10); let c ← FOpd.ofCode (fld w 3 10)
            some [a, b, c]

/-- AFF of a gather or scatter (R309). -/
def affOf (i : Option VCode) : Nat := match i with | none => 1 | some _ => 0
/-- IDX of a gather or scatter (R309). -/
def idxOf (i : Option VCode) : Nat := match i with | none => 0 | some v => v.long
/-- The index operand of a gather or scatter (R309). -/
def idxAt (w : Nat) : Option (Option VCode) :=
  if flag w 15 then some none else do let v ← VCode.ofLong (fld w 16 10); some (some v)

/-- The kind of slot word that holds an instruction; none for an event. -/
def Instr.kind : Instr → Option Kind
  | .nopS => some .s
  | .addReg _ _ _ _ => some .s
  | .addImm _ _ _ _ => some .s
  | .subReg _ _ _ _ => some .s
  | .subImm _ _ _ _ => some .s
  | .mulReg _ _ _ _ => some .s
  | .mulImm _ _ _ _ => some .s
  | .mulhReg _ _ _ _ _ => some .s
  | .mulhImm _ _ _ _ => some .s
  | .divReg _ _ _ _ _ => some .s
  | .divImm _ _ _ _ => some .s
  | .remReg _ _ _ _ _ => some .s
  | .remImm _ _ _ _ => some .s
  | .minReg _ _ _ _ _ => some .s
  | .minImm _ _ _ _ => some .s
  | .maxReg _ _ _ _ _ => some .s
  | .maxImm _ _ _ _ => some .s
  | .andReg _ _ _ _ => some .s
  | .andImm _ _ _ _ => some .s
  | .orReg _ _ _ _ => some .s
  | .orImm _ _ _ _ => some .s
  | .xorReg _ _ _ _ => some .s
  | .xorImm _ _ _ _ => some .s
  | .shlReg _ _ _ _ => some .s
  | .shlImm _ _ _ _ => some .s
  | .shrReg _ _ _ _ => some .s
  | .shrImm _ _ _ _ => some .s
  | .sraReg _ _ _ _ => some .s
  | .sraImm _ _ _ _ => some .s
  | .lih _ _ _ _ => some .s
  | .cmpReg _ _ _ _ _ => some .s
  | .cmpImm _ _ _ _ _ => some .s
  | .selReg _ _ _ _ _ => some .s
  | .selImm _ _ _ _ _ => some .s
  | .bfxReg _ _ _ _ _ _ => some .s
  | .bfxImm _ _ _ _ _ _ => some .s
  | .bfi _ _ _ _ _ => some .s
  | .clz _ _ _ => some .s
  | .popc _ _ _ => some .s
  | .addsReg _ _ _ _ _ => some .s
  | .addsImm _ _ _ _ => some .s
  | .wid _ _ _ _ => some .s
  | .brScalar _ _ _ => some .s
  | .brPred _ _ _ => some .s
  | .bra _ => some .s
  | .call _ _ => some .s
  | .ret _ => some .s
  | .jmpr _ _ => some .s
  | .loopn _ _ _ => some .s
  | .lend _ => some .s
  | .taskend => some .s
  | .lift _ _ => some .s
  | .lret => some .s
  | .brbScalar _ _ _ => some .s
  | .brbPred _ _ _ => some .s
  | .ljoin => some .s
  | .ctlrd _ _ => some .s
  | .ctlwr _ _ => some .s
  | .eret => some .s
  | .trap _ => some .s
  | .nopV => some .v
  | .vadd _ _ _ _ _ => some .v
  | .vsub _ _ _ _ _ => some .v
  | .vmul _ _ _ _ _ => some .v
  | .vfma _ _ _ _ _ _ => some .v
  | .vmin _ _ _ _ _ => some .v
  | .vmax _ _ _ _ _ => some .v
  | .vabs _ _ _ _ => some .v
  | .vneg _ _ _ _ => some .v
  | .vand _ _ _ _ _ => some .v
  | .vor _ _ _ _ _ => some .v
  | .vxor _ _ _ _ _ => some .v
  | .vshl _ _ _ _ _ => some .v
  | .vshr _ _ _ _ _ => some .v
  | .vsra _ _ _ _ _ => some .v
  | .vmov _ _ _ _ => some .v
  | .vcmp _ _ _ _ _ => some .v
  | .vsel _ _ _ _ _ => some .v
  | .vmac16 _ _ _ _ _ _ => some .v
  | .vdot4 _ _ _ _ _ => some .v
  | .vred _ _ _ _ => some .v
  | .vscan _ _ _ _ _ => some .v
  | .vperm _ _ _ _ => some .v
  | .vslide _ _ _ _ _ => some .v
  | .vbcastScalar _ _ _ => some .v
  | .vbcastLane _ _ _ _ => some .v
  | .vpopc _ _ _ => some .v
  | .vcompress _ _ _ => some .v
  | .vexpand _ _ _ => some .v
  | .viota _ _ => some .v
  | .pand _ _ _ _ => some .v
  | .por _ _ _ _ => some .v
  | .pxor _ _ _ _ => some .v
  | .pnot _ _ _ => some .v
  | .pcnt _ _ _ => some .v
  | .pfirst _ _ _ => some .v
  | .vcvt _ _ _ _ _ _ _ _ => some .v
  | .vpackb _ _ _ _ _ _ => some .v
  | .vunpackb _ _ _ _ _ => some .v
  | .vbpackPack _ _ _ _ _ _ _ => some .v
  | .vbpackUnpack _ _ _ _ _ _ => some .v
  | .vtr _ _ _ _ _ => some .v
  | .vtw _ _ _ _ _ => some .v
  | .lreduce _ _ _ _ _ => some .v
  | .nopF => some .f
  | .frcp _ _ _ _ _ => some .f
  | .frsq _ _ _ _ _ => some .f
  | .fsqrt _ _ _ _ _ => some .f
  | .fexp2 _ _ _ _ _ => some .f
  | .flog2 _ _ _ _ _ => some .f
  | .fsig _ _ _ _ _ => some .f
  | .ftanh _ _ _ _ _ => some .f
  | .fsin _ _ _ _ _ => some .f
  | .fcos _ _ _ _ _ => some .f
  | .nopM => some .m
  | .ld _ _ _ _ _ _ _ _ _ => some .m
  | .st _ _ _ _ _ _ _ _ => some .m
  | .vld _ _ _ _ _ _ _ _ => some .m
  | .vst _ _ _ _ _ _ _ _ => some .m
  | .vldc _ _ _ _ _ _ _ => some .m
  | .lda _ _ _ _ _ _ _ => some .m
  | .strel _ _ _ _ _ _ => some .m
  | .amo _ _ _ _ _ _ _ _ => some .m
  | .cflush _ _ _ _ _ => some .m
  | .cinv _ _ _ _ _ => some .m
  | .cpref _ _ _ _ _ => some .m
  | .vspill _ _ _ _ _ _ => some .m
  | .vfill _ _ _ _ _ _ => some .m
  | .fenceC _ _ => some .m
  | .fenceR _ _ _ => some .m
  | .tla _ _ _ _ _ _ => some .m
  | .tld _ _ _ _ _ _ _ => some .m
  | .tsa _ _ _ _ _ _ => some .m
  | .tsd _ _ _ _ _ _ _ => some .m
  | .tdsc _ _ _ _ _ _ _ => some .m
  | .tcellCommit _ _ _ _ => some .m
  | .tcellRelease _ _ _ _ => some .m
  | .gath _ _ _ _ _ _ _ => some .m
  | .scat _ _ _ _ _ _ _ => some .m
  | .scatAdd _ _ _ _ _ _ _ _ => some .m
  | .qpush _ _ _ => some .m
  | .qpop _ _ _ _ => some .m
  | .bari _ _ _ _ => some .m
  | .bara _ _ _ _ _ => some .m
  | .barw _ _ _ _ => some .m
  | .barx _ _ _ _ => some .m
  | .commit _ _ _ => some .m
  | .decommit _ _ _ _ => some .m
  | .alloc _ _ _ => some .m
  | .free _ _ _ => some .m
  | .tlbinv _ _ _ _ => some .m
  | .nopX => some .x
  | .mmaScratchpad _ _ _ _ _ _ => some .x
  | .mmaVector _ _ _ _ _ _ => some .x
  | .mmas _ _ _ _ _ _ => some .x
  | .lde _ _ _ _ _ => some .x
  | .mzero _ _ => some .x
  | .msave _ _ _ _ _ => some .x
  | .mload _ _ _ _ _ => some .x
  | .copy _ _ _ _ => some .x
  | .rlay _ _ _ _ _ _ _ _ => some .x
  | .stage _ _ _ _ => some .x
  | .mgset _ _ _ => some .x
  | .mgpush _ _ _ _ _ => some .x
  | .mgfin _ _ _ _ _ => some .x
  | .contract _ _ => some .x
  | .astart _ _ _ => some .x
  | .astartPost _ _ _ => some .x
  | .send _ _ _ _ _ _ => some .x
  | .recv _ _ _ _ _ _ => some .x
  | .ramo _ _ _ _ _ _ _ => some .x
  | .launch _ _ => some .x
  | .taskset _ _ _ => some .x
  | .taskdec _ _ => some .x
  | .nopY => some .y
  | .fwait _ _ => some .y
  | .fpost _ _ _ _ => some .y
  | .fpostr _ _ => some .y
  | .kwait _ _ => some .y
  | .killScalar _ _ => some .k
  | .killImmLo _ _ => some .k
  | .killImmHi _ _ => some .k
  | .headerOnlyBundle => none
  | .instructionFetch _ => none
  | .resultLanding _ => none
  | .lateDataArrival _ => none
  | .translationAnswer _ => none
  | .blockEnd _ => none
  | .quantumBlock _ => none
  | .sfuTake _ => none
  | .storePerform _ _ => none
  | .migrationWindow => none
  | .calendarRotation => none
  | .calendarSlot _ => none
  | .budgetPeriod => none
  | .calendarCommit => none
  | .laneLendingHandshake _ => none
  | .arrayCommandStart _ => none
  | .arrayCommandComplete _ => none
  | .latchCommandStart _ => none
  | .ldeComplete _ => none
  | .treeCommandStart _ => none
  | .treeAccessPerform _ => none
  | .copyCommandStart _ => none
  | .copyComplete _ _ => none
  | .scheduleEntryStart _ => none
  | .barrierArrival _ => none
  | .flagPostArrival _ => none
  | .mgsetOpen _ => none
  | .mgpushArrival _ => none
  | .mgfinClose _ => none
  | .accessProgramStart _ => none
  | .rangeCounterRelease _ => none
  | .freeApply _ => none
  | .messageArrival _ => none
  | .creditReturn _ _ => none
  | .recvComplete _ => none
  | .ramoRemoteOperation _ => none
  | .remoteSignalDelivery _ => none
  | .linkTrained _ => none
  | .linkDown _ => none
  | .hostAccess _ _ _ => none
  | .launchAdmission => none
  | .taskDispatch _ => none
  | .taskStart _ => none
  | .taskStaging _ => none
  | .budgetOverrun _ => none
  | .slotDecrement _ => none
  | .slotEnqueue _ => none
  | .taskendComplete _ => none
  | .launchCompletion _ => none
  | .lqtailWrite _ => none
  | .ringEntryRead => none
  | .launchQueueReset _ => none
  | .taskRerun _ => none
  | .machineCheck _ => none
  | .svcdoneResume _ _ => none
  | .svcdoneEnd _ => none
  | .svcdoneRerun _ => none
  | .preemptionRequest _ => none
  | .preemptionSaveComplete _ => none
  | .contextResume _ => none
  | .ctxcmdPreempt _ => none
  | .ctxcmdStop _ => none
  | .ctxcmdResume _ => none
  | .ctxcmdSetdbg _ _ => none
  | .ctxcmdArmdbg _ _ => none
  | .debugStop _ => none
  | .singleStepStop _ => none
  | .traceOpen _ => none
  | .traceClose _ => none
  | .mgmtcmdLoad _ => none
  | .mgmtcmdAttest _ => none
  | .clockStepChange _ => none
  | .powerOnReset => none
  | .fullServiceSwitch => none
  | .coreLeavesReset _ => none
  | .registerWrite _ _ _ => none
  | .coreEntersReset _ => none
  | .corePowerGate _ => none
  | .corePowerUngate _ => none
  | .inboundFabricAccess _ _ _ => none
  | .tasksetArm _ => none

/-- The word of an instruction (R27-R34 and the operand areas of the instruction chapters); 0 for an event. -/
def encode : Instr → Nat
  | .nopS => pack [(26, 0), (6, 0)]
  | .addReg st d a b => pack [(7, 0), (6, b.code), (1, 0), (6, a.code), (5, d.toNat), (1, st.toNat), (6, 1)]
  | .addImm st d a i => pack [(13, i.toNat), (1, 1), (6, a.code), (5, d.toNat), (1, st.toNat), (6, 1)]
  | .subReg st d a b => pack [(7, 0), (6, b.code), (1, 0), (6, a.code), (5, d.toNat), (1, st.toNat), (6, 2)]
  | .subImm st d a i => pack [(13, i.toNat), (1, 1), (6, a.code), (5, d.toNat), (1, st.toNat), (6, 2)]
  | .mulReg st d a b => pack [(7, 0), (6, b.code), (1, 0), (6, a.code), (5, d.toNat), (1, st.toNat), (6, 3)]
  | .mulImm st d a i => pack [(13, i.toNat), (1, 1), (6, a.code), (5, d.toNat), (1, st.toNat), (6, 3)]
  | .mulhReg st d a b u => pack [(1, u.toNat), (6, 0), (6, b.code), (1, 0), (6, a.code), (5, d.toNat), (1, st.toNat), (6, 4)]
  | .mulhImm st d a i => pack [(13, i.toNat), (1, 1), (6, a.code), (5, d.toNat), (1, st.toNat), (6, 4)]
  | .divReg st d a b u => pack [(1, u.toNat), (6, 0), (6, b.code), (1, 0), (6, a.code), (5, d.toNat), (1, st.toNat), (6, 5)]
  | .divImm st d a i => pack [(13, i.toNat), (1, 1), (6, a.code), (5, d.toNat), (1, st.toNat), (6, 5)]
  | .remReg st d a b u => pack [(1, u.toNat), (6, 0), (6, b.code), (1, 0), (6, a.code), (5, d.toNat), (1, st.toNat), (6, 6)]
  | .remImm st d a i => pack [(13, i.toNat), (1, 1), (6, a.code), (5, d.toNat), (1, st.toNat), (6, 6)]
  | .minReg st d a b u => pack [(1, u.toNat), (6, 0), (6, b.code), (1, 0), (6, a.code), (5, d.toNat), (1, st.toNat), (6, 7)]
  | .minImm st d a i => pack [(13, i.toNat), (1, 1), (6, a.code), (5, d.toNat), (1, st.toNat), (6, 7)]
  | .maxReg st d a b u => pack [(1, u.toNat), (6, 0), (6, b.code), (1, 0), (6, a.code), (5, d.toNat), (1, st.toNat), (6, 8)]
  | .maxImm st d a i => pack [(13, i.toNat), (1, 1), (6, a.code), (5, d.toNat), (1, st.toNat), (6, 8)]
  | .andReg st d a b => pack [(7, 0), (6, b.code), (1, 0), (6, a.code), (5, d.toNat), (1, st.toNat), (6, 9)]
  | .andImm st d a i => pack [(13, i.toNat), (1, 1), (6, a.code), (5, d.toNat), (1, st.toNat), (6, 9)]
  | .orReg st d a b => pack [(7, 0), (6, b.code), (1, 0), (6, a.code), (5, d.toNat), (1, st.toNat), (6, 10)]
  | .orImm st d a i => pack [(13, i.toNat), (1, 1), (6, a.code), (5, d.toNat), (1, st.toNat), (6, 10)]
  | .xorReg st d a b => pack [(7, 0), (6, b.code), (1, 0), (6, a.code), (5, d.toNat), (1, st.toNat), (6, 11)]
  | .xorImm st d a i => pack [(13, i.toNat), (1, 1), (6, a.code), (5, d.toNat), (1, st.toNat), (6, 11)]
  | .shlReg st d a b => pack [(7, 0), (6, b.code), (1, 0), (6, a.code), (5, d.toNat), (1, st.toNat), (6, 12)]
  | .shlImm st d a i => pack [(6, i.toNat), (7, 0), (1, 1), (6, a.code), (5, d.toNat), (1, st.toNat), (6, 12)]
  | .shrReg st d a b => pack [(7, 0), (6, b.code), (1, 0), (6, a.code), (5, d.toNat), (1, st.toNat), (6, 13)]
  | .shrImm st d a i => pack [(6, i.toNat), (7, 0), (1, 1), (6, a.code), (5, d.toNat), (1, st.toNat), (6, 13)]
  | .sraReg st d a b => pack [(7, 0), (6, b.code), (1, 0), (6, a.code), (5, d.toNat), (1, st.toNat), (6, 14)]
  | .sraImm st d a i => pack [(6, i.toNat), (7, 0), (1, 1), (6, a.code), (5, d.toNat), (1, st.toNat), (6, 14)]
  | .lih st d a i => pack [(13, i.toNat), (1, 1), (6, a.code), (5, d.toNat), (1, st.toNat), (6, 15)]
  | .cmpReg st d a b c => pack [(4, c.toNat), (3, 0), (6, b.code), (1, 0), (6, a.code), (5, d.toNat), (1, st.toNat), (6, 16)]
  | .cmpImm st d a i c => pack [(4, c.toNat), (9, i.toNat), (1, 1), (6, a.code), (5, d.toNat), (1, st.toNat), (6, 16)]
  | .selReg st d a b c => pack [(6, c.code), (1, 0), (6, b.code), (1, 0), (6, a.code), (5, d.toNat), (1, st.toNat), (6, 17)]
  | .selImm st d a i c => pack [(6, c.code), (7, i.toNat), (1, 1), (6, a.code), (5, d.toNat), (1, st.toNat), (6, 17)]
  | .bfxReg st d a b g w => pack [(6, w.toNat), (1, g.toNat), (6, b.code), (1, 0), (6, a.code), (5, d.toNat), (1, st.toNat), (6, 18)]
  | .bfxImm st d a g p w => pack [(6, w.toNat), (6, p.toNat), (1, g.toNat), (1, 1), (6, a.code), (5, d.toNat), (1, st.toNat), (6, 18)]
  | .bfi st d a p w => pack [(6, w.toNat), (6, p.toNat), (1, 0), (1, 1), (6, a.code), (5, d.toNat), (1, st.toNat), (6, 19)]
  | .clz st d a => pack [(13, 0), (1, 0), (6, a.code), (5, d.toNat), (1, st.toNat), (6, 20)]
  | .popc st d a => pack [(13, 0), (1, 0), (6, a.code), (5, d.toNat), (1, st.toNat), (6, 21)]
  | .addsReg st d a b h => pack [(4, h.toNat), (3, 0), (6, b.code), (1, 0), (6, a.code), (5, d.toNat), (1, st.toNat), (6, 22)]
  | .addsImm st d a i => pack [(13, i.toNat), (1, 1), (6, a.code), (5, d.toNat), (1, st.toNat), (6, 22)]
  | .wid st d t f => pack [(3, f.toNat), (1, t.toNat), (9, 0), (1, 1), (6, 0), (5, d.toNat), (1, st.toNat), (6, 23)]
  | .brScalar c a o => pack [(16, o.toNat), (6, a.code), (2, c.toNat), (1, 0), (1, 0), (6, 32)]
  | .brPred c p o => pack [(16, o.toNat), (4, p.toNat), (2, 0), (2, c.toNat), (1, 1), (1, 0), (6, 32)]
  | .bra o => pack [(25, o.toNat), (1, 0), (6, 33)]
  | .call d o => pack [(20, o.toNat), (5, d.toNat), (1, 0), (6, 34)]
  | .ret a => pack [(19, 0), (6, a.code), (1, 0), (6, 35)]
  | .jmpr a o => pack [(19, o.toNat), (6, a.code), (1, 0), (6, 36)]
  | .loopn l a k => pack [(16, k.toNat), (6, a.code), (3, l.toNat), (1, 0), (6, 37)]
  | .lend l => pack [(22, 0), (3, l.toNat), (1, 0), (6, 38)]
  | .taskend => pack [(25, 0), (1, 0), (6, 39)]
  | .lift a o => pack [(19, o.toNat), (6, a.code), (1, 0), (6, 40)]
  | .lret => pack [(25, 0), (1, 0), (6, 41)]
  | .brbScalar c a o => pack [(16, o.toNat), (6, a.code), (2, c.toNat), (1, 0), (1, 0), (6, 42)]
  | .brbPred c p o => pack [(16, o.toNat), (4, p.toNat), (2, 0), (2, c.toNat), (1, 1), (1, 0), (6, 42)]
  | .ljoin => pack [(25, 0), (1, 0), (6, 43)]
  | .ctlrd d c => pack [(10, 0), (10, c.toNat), (5, d.toNat), (1, 0), (6, 44)]
  | .ctlwr a c => pack [(9, 0), (10, c.toNat), (6, a.code), (1, 0), (6, 45)]
  | .eret => pack [(25, 0), (1, 0), (6, 46)]
  | .trap i => pack [(16, i.toNat), (9, 0), (1, 0), (6, 47)]
  | .nopV => pack [(57, 0), (6, 0), (1, 0)]
  | .vadd h d a b ch => pack [(6, ch.x3), (6, ch.x2), (10, b.long), (10, a.long), (10, d.toNat), (1, h.z.toNat), (4, h.pred.toNat), (4, h.mode.toNat), (3, ch.o3), (3, ch.o2), (6, 1), (1, h.st.toNat)]
  | .vsub h d a b ch => pack [(6, ch.x3), (6, ch.x2), (10, b.long), (10, a.long), (10, d.toNat), (1, h.z.toNat), (4, h.pred.toNat), (4, h.mode.toNat), (3, ch.o3), (3, ch.o2), (6, 2), (1, h.st.toNat)]
  | .vmul h d a b ch => pack [(6, ch.x3), (6, ch.x2), (10, b.long), (10, a.long), (10, d.toNat), (1, h.z.toNat), (4, h.pred.toNat), (4, h.mode.toNat), (3, ch.o3), (3, ch.o2), (6, 3), (1, h.st.toNat)]
  | .vfma h d a b c ch => pack [(6, ch.x2), (6, c.short), (10, b.long), (10, a.long), (10, d.toNat), (1, h.z.toNat), (4, h.pred.toNat), (4, h.mode.toNat), (3, ch.o3), (3, ch.o2), (6, 4), (1, h.st.toNat)]
  | .vmin h d a b ch => pack [(6, ch.x3), (6, ch.x2), (10, b.long), (10, a.long), (10, d.toNat), (1, h.z.toNat), (4, h.pred.toNat), (4, h.mode.toNat), (3, ch.o3), (3, ch.o2), (6, 5), (1, h.st.toNat)]
  | .vmax h d a b ch => pack [(6, ch.x3), (6, ch.x2), (10, b.long), (10, a.long), (10, d.toNat), (1, h.z.toNat), (4, h.pred.toNat), (4, h.mode.toNat), (3, ch.o3), (3, ch.o2), (6, 6), (1, h.st.toNat)]
  | .vabs h d a ch => pack [(6, 0), (6, ch.x3), (10, ch.l2), (10, a.long), (10, d.toNat), (1, h.z.toNat), (4, h.pred.toNat), (4, h.mode.toNat), (3, ch.o3), (3, ch.o2), (6, 7), (1, h.st.toNat)]
  | .vneg h d a ch => pack [(6, 0), (6, ch.x3), (10, ch.l2), (10, a.long), (10, d.toNat), (1, h.z.toNat), (4, h.pred.toNat), (4, h.mode.toNat), (3, ch.o3), (3, ch.o2), (6, 8), (1, h.st.toNat)]
  | .vand h d a b ch => pack [(6, ch.x3), (6, ch.x2), (10, b.long), (10, a.long), (10, d.toNat), (1, h.z.toNat), (4, h.pred.toNat), (4, h.mode.toNat), (3, ch.o3), (3, ch.o2), (6, 9), (1, h.st.toNat)]
  | .vor h d a b ch => pack [(6, ch.x3), (6, ch.x2), (10, b.long), (10, a.long), (10, d.toNat), (1, h.z.toNat), (4, h.pred.toNat), (4, h.mode.toNat), (3, ch.o3), (3, ch.o2), (6, 10), (1, h.st.toNat)]
  | .vxor h d a b ch => pack [(6, ch.x3), (6, ch.x2), (10, b.long), (10, a.long), (10, d.toNat), (1, h.z.toNat), (4, h.pred.toNat), (4, h.mode.toNat), (3, ch.o3), (3, ch.o2), (6, 11), (1, h.st.toNat)]
  | .vshl h d a b ch => pack [(6, ch.x3), (6, ch.x2), (10, b.long), (10, a.long), (10, d.toNat), (1, h.z.toNat), (4, h.pred.toNat), (4, h.mode.toNat), (3, ch.o3), (3, ch.o2), (6, 12), (1, h.st.toNat)]
  | .vshr h d a b ch => pack [(6, ch.x3), (6, ch.x2), (10, b.long), (10, a.long), (10, d.toNat), (1, h.z.toNat), (4, h.pred.toNat), (4, h.mode.toNat), (3, ch.o3), (3, ch.o2), (6, 13), (1, h.st.toNat)]
  | .vsra h d a b ch => pack [(6, ch.x3), (6, ch.x2), (10, b.long), (10, a.long), (10, d.toNat), (1, h.z.toNat), (4, h.pred.toNat), (4, h.mode.toNat), (3, ch.o3), (3, ch.o2), (6, 14), (1, h.st.toNat)]
  | .vmov h d a ch => pack [(6, 0), (6, ch.x3), (10, ch.l2), (10, a.long), (10, d.toNat), (1, h.z.toNat), (4, h.pred.toNat), (4, h.mode.toNat), (3, ch.o3), (3, ch.o2), (6, 15), (1, h.st.toNat)]
  | .vcmp h pd a b c => pack [(6, 0), (6, c.toNat), (10, b.long), (10, a.long), (4, pd.toNat), (6, 0), (1, h.z.toNat), (4, h.pred.toNat), (4, h.mode.toNat), (3, 0), (3, 0), (6, 16), (1, h.st.toNat)]
  | .vsel h d a b ps => pack [(6, 0), (4, ps.toNat), (2, 0), (10, b.long), (10, a.long), (10, d.toNat), (1, h.z.toNat), (4, h.pred.toNat), (4, h.mode.toNat), (3, 0), (3, 0), (6, 17), (1, h.st.toNat)]
  | .vmac16 h d a b c sh => pack [(4, sh.toNat), (2, 0), (6, c.short), (10, b.long), (10, a.long), (10, d.toNat), (1, h.z.toNat), (4, h.pred.toNat), (4, h.mode.toNat), (3, 0), (3, 0), (6, 18), (1, h.st.toNat)]
  | .vdot4 h d a b c => pack [(6, 0), (6, c.short), (10, b.long), (10, a.long), (10, d.toNat), (1, h.z.toNat), (4, h.pred.toNat), (4, h.mode.toNat), (3, 0), (3, 0), (6, 19), (1, h.st.toNat)]
  | .vred h d a op => pack [(6, 0), (3, op.toNat), (3, 0), (10, 0), (10, a.long), (10, d.toNat), (1, h.z.toNat), (4, h.pred.toNat), (4, h.mode.toNat), (3, 0), (3, 0), (6, 20), (1, h.st.toNat)]
  | .vscan h d a op x => pack [(6, 0), (2, op.toNat), (1, 0), (1, x.toNat), (2, 0), (10, 0), (10, a.long), (10, d.toNat), (1, h.z.toNat), (4, h.pred.toNat), (4, h.mode.toNat), (3, 0), (3, 0), (6, 21), (1, h.st.toNat)]
  | .vperm h d a b => pack [(6, 0), (6, 0), (10, b.long), (10, a.long), (10, d.toNat), (1, h.z.toNat), (4, h.pred.toNat), (4, h.mode.toNat), (3, 0), (3, 0), (6, 22), (1, h.st.toNat)]
  | .vslide h d a b k => pack [(6, k.toNat % 64), (2, k.toNat / 64), (4, 0), (10, b.long), (10, a.long), (10, d.toNat), (1, h.z.toNat), (4, h.pred.toNat), (4, h.mode.toNat), (3, 0), (3, 0), (6, 23), (1, h.st.toNat)]
  | .vbcastScalar h d x => pack [(6, 0), (6, x.code), (10, 0), (10, 0), (10, d.toNat), (1, h.z.toNat), (4, h.pred.toNat), (4, h.mode.toNat), (3, 0), (3, 0), (6, 24), (1, h.st.toNat)]
  | .vbcastLane h d a lane => pack [(6, 1), (6, 0), (8, lane.toNat), (2, 0), (10, a.long), (10, d.toNat), (1, h.z.toNat), (4, h.pred.toNat), (4, h.mode.toNat), (3, 0), (3, 0), (6, 24), (1, h.st.toNat)]
  | .vpopc h d a => pack [(6, 0), (6, 0), (10, 0), (10, a.long), (10, d.toNat), (1, h.z.toNat), (4, h.pred.toNat), (4, h.mode.toNat), (3, 0), (3, 0), (6, 25), (1, h.st.toNat)]
  | .vcompress h d a => pack [(6, 0), (6, 0), (10, 0), (10, a.long), (10, d.toNat), (1, h.z.toNat), (4, h.pred.toNat), (4, h.mode.toNat), (3, 0), (3, 0), (6, 26), (1, h.st.toNat)]
  | .vexpand h d a => pack [(6, 0), (6, 0), (10, 0), (10, a.long), (10, d.toNat), (1, h.z.toNat), (4, h.pred.toNat), (4, h.mode.toNat), (3, 0), (3, 0), (6, 27), (1, h.st.toNat)]
  | .viota h d => pack [(6, 0), (6, 0), (10, 0), (10, 0), (10, d.toNat), (1, h.z.toNat), (4, h.pred.toNat), (4, h.mode.toNat), (3, 0), (3, 0), (6, 28), (1, h.st.toNat)]
  | .pand h pd pa pb => pack [(6, 0), (6, 0), (4, pb.toNat), (6, 0), (4, pa.toNat), (6, 0), (4, pd.toNat), (6, 0), (1, h.z.toNat), (4, h.pred.toNat), (4, h.mode.toNat), (3, 0), (3, 0), (6, 32), (1, h.st.toNat)]
  | .por h pd pa pb => pack [(6, 0), (6, 0), (4, pb.toNat), (6, 0), (4, pa.toNat), (6, 0), (4, pd.toNat), (6, 0), (1, h.z.toNat), (4, h.pred.toNat), (4, h.mode.toNat), (3, 0), (3, 0), (6, 33), (1, h.st.toNat)]
  | .pxor h pd pa pb => pack [(6, 0), (6, 0), (4, pb.toNat), (6, 0), (4, pa.toNat), (6, 0), (4, pd.toNat), (6, 0), (1, h.z.toNat), (4, h.pred.toNat), (4, h.mode.toNat), (3, 0), (3, 0), (6, 34), (1, h.st.toNat)]
  | .pnot h pd pa => pack [(6, 0), (6, 0), (10, 0), (4, pa.toNat), (6, 0), (4, pd.toNat), (6, 0), (1, h.z.toNat), (4, h.pred.toNat), (4, h.mode.toNat), (3, 0), (3, 0), (6, 35), (1, h.st.toNat)]
  | .pcnt h sd pa => pack [(6, 0), (6, 0), (10, 0), (4, pa.toNat), (6, 0), (5, sd.toNat), (5, 0), (1, h.z.toNat), (4, h.pred.toNat), (4, h.mode.toNat), (3, 0), (3, 0), (6, 36), (1, h.st.toNat)]
  | .pfirst h sd pa => pack [(6, 0), (6, 0), (10, 0), (4, pa.toNat), (6, 0), (5, sd.toNat), (5, 0), (1, h.z.toNat), (4, h.pred.toNat), (4, h.mode.toNat), (3, 0), (3, 0), (6, 37), (1, h.st.toNat)]
  | .vcvt h d a part src dst sat sr => pack [(4, dst.toNat), (1, sat.toNat), (1, sr.toNat), (4, src.toNat), (2, 0), (3, part.toNat), (7, 0), (10, a.long), (10, d.toNat), (1, h.z.toNat), (4, h.pred.toNat), (4, h.mode.toNat), (3, 0), (3, 0), (6, 40), (1, h.st.toNat)]
  | .vpackb h d a part rec sr => pack [(1, sr.toNat), (5, 0), (2, rec.toNat), (4, 0), (3, part.toNat), (7, 0), (10, a.long), (10, d.toNat), (1, h.z.toNat), (4, h.pred.toNat), (4, h.mode.toNat), (3, 0), (3, 0), (6, 41), (1, h.st.toNat)]
  | .vunpackb h d a part rec => pack [(6, 0), (2, rec.toNat), (4, 0), (3, part.toNat), (7, 0), (10, a.long), (10, d.toNat), (1, h.z.toNat), (4, h.pred.toNat), (4, h.mode.toNat), (3, 0), (3, 0), (6, 42), (1, h.st.toNat)]
  | .vbpackPack h d a part k bp6 sr => pack [(1, bp6.toNat), (1, 0), (1, sr.toNat), (3, 0), (6, k.code), (3, part.toNat), (7, 0), (10, a.long), (10, d.toNat), (1, h.z.toNat), (4, h.pred.toNat), (4, h.mode.toNat), (3, 0), (3, 0), (6, 43), (1, h.st.toNat)]
  | .vbpackUnpack h d a part k bp6 => pack [(1, bp6.toNat), (1, 1), (1, 0), (3, 0), (6, k.code), (3, part.toNat), (7, 0), (10, a.long), (10, d.toNat), (1, h.z.toNat), (4, h.pred.toNat), (4, h.mode.toNat), (3, 0), (3, 0), (6, 43), (1, h.st.toNat)]
  | .vtr h d idx mt x => pack [(6, x.code), (3, mt.toNat), (3, 0), (8, idx.toNat), (2, 0), (10, 0), (10, d.toNat), (1, h.z.toNat), (4, h.pred.toNat), (4, h.mode.toNat), (3, 0), (3, 0), (6, 44), (1, h.st.toNat)]
  | .vtw h idx mt x a => pack [(6, x.code), (3, mt.toNat), (3, 0), (8, idx.toNat), (2, 0), (10, a.long), (10, 0), (1, h.z.toNat), (4, h.pred.toNat), (4, h.mode.toNat), (3, 0), (3, 0), (6, 45), (1, h.st.toNat)]
  | .lreduce h d a op lvl => pack [(2, lvl.toNat), (4, 0), (3, op.toNat), (3, 0), (10, 0), (10, a.long), (10, d.toNat), (1, h.z.toNat), (4, h.pred.toNat), (4, h.mode.toNat), (3, 0), (3, 0), (6, 46), (1, h.st.toNat)]
  | .nopF => pack [(27, 0), (5, 0)]
  | .frcp st d a p z => pack [(1, 0), (1, z.toNat), (4, p.toNat), (10, a.long), (10, d.toNat), (1, st.toNat), (5, 1)]
  | .frsq st d a p z => pack [(1, 0), (1, z.toNat), (4, p.toNat), (10, a.long), (10, d.toNat), (1, st.toNat), (5, 2)]
  | .fsqrt st d a p z => pack [(1, 0), (1, z.toNat), (4, p.toNat), (10, a.long), (10, d.toNat), (1, st.toNat), (5, 3)]
  | .fexp2 st d a p z => pack [(1, 0), (1, z.toNat), (4, p.toNat), (10, a.long), (10, d.toNat), (1, st.toNat), (5, 4)]
  | .flog2 st d a p z => pack [(1, 0), (1, z.toNat), (4, p.toNat), (10, a.long), (10, d.toNat), (1, st.toNat), (5, 5)]
  | .fsig st d a p z => pack [(1, 0), (1, z.toNat), (4, p.toNat), (10, a.long), (10, d.toNat), (1, st.toNat), (5, 6)]
  | .ftanh st d a p z => pack [(1, 0), (1, z.toNat), (4, p.toNat), (10, a.long), (10, d.toNat), (1, st.toNat), (5, 7)]
  | .fsin st d a p z => pack [(1, 0), (1, z.toNat), (4, p.toNat), (10, a.long), (10, d.toNat), (1, st.toNat), (5, 8)]
  | .fcos st d a p z => pack [(1, 0), (1, z.toNat), (4, p.toNat), (10, a.long), (10, d.toNat), (1, st.toNat), (5, 9)]
  | .nopM => pack [(57, 0), (1, 0), (6, 0)]
  | .ld st h d base lur size sx stride ofs => pack [(14, ofs.toNat), (11, stride.toNat), (1, sx.toNat), (2, size.toNat), (1, lur.toNat), (6, base.code), (5, d.toNat), (5, 0), (4, 0), (3, h.scope.toNat), (1, clsD h.cls), (4, clsN h.cls), (1, st.toNat), (6, 1)]
  | .st st h x base lur size stride ofs => pack [(14, ofs.toNat), (11, stride.toNat), (1, 0), (2, size.toNat), (1, lur.toNat), (6, base.code), (6, x.code), (4, 0), (4, 0), (3, h.scope.toNat), (1, clsD h.cls), (4, clsN h.cls), (1, st.toNat), (6, 2)]
  | .vld st h p d base lur stride ofs => pack [(14, ofs.toNat), (14, stride.toNat), (1, lur.toNat), (6, base.code), (10, d.toNat), (4, p.toNat), (3, h.scope.toNat), (1, clsD h.cls), (4, clsN h.cls), (1, st.toNat), (6, 3)]
  | .vst st h p x base lur stride ofs => pack [(14, ofs.toNat), (14, stride.toNat), (1, lur.toNat), (6, base.code), (10, x.long), (4, p.toNat), (3, h.scope.toNat), (1, clsD h.cls), (4, clsN h.cls), (1, st.toNat), (6, 4)]
  | .vldc st h p d base stride ofs => pack [(14, ofs.toNat), (14, stride.toNat), (1, 0), (6, base.code), (10, d.toNat), (4, p.toNat), (3, h.scope.toNat), (1, clsD h.cls), (4, clsN h.cls), (1, st.toNat), (6, 5)]
  | .lda h d base lur size sx ofs => pack [(14, ofs.toNat), (11, 0), (1, sx.toNat), (2, size.toNat), (1, lur.toNat), (6, base.code), (5, d.toNat), (5, 0), (4, 0), (3, h.scope.toNat), (1, clsD h.cls), (4, clsN h.cls), (1, 0), (6, 6)]
  | .strel h x base lur size ofs => pack [(14, ofs.toNat), (11, 0), (1, 0), (2, size.toNat), (1, lur.toNat), (6, base.code), (6, x.code), (4, 0), (4, 0), (3, h.scope.toNat), (1, clsD h.cls), (4, clsN h.cls), (1, 0), (6, 7)]
  | .amo h aop src base cmp rd size ofs => pack [(14, ofs.toNat), (2, 0), (2, size.toNat), (5, rd.toNat), (6, cmp.code), (6, base.code), (6, src.code), (4, aop.toNat), (4, 0), (3, h.scope.toNat), (1, clsD h.cls), (4, clsN h.cls), (1, 0), (6, 8)]
  | .cflush st h base stride ofs => pack [(14, ofs.toNat), (14, stride.toNat), (1, 0), (6, base.code), (10, 0), (4, 0), (3, h.scope.toNat), (1, clsD h.cls), (4, clsN h.cls), (1, st.toNat), (6, 9)]
  | .cinv st h base stride ofs => pack [(14, ofs.toNat), (14, stride.toNat), (1, 0), (6, base.code), (10, 0), (4, 0), (3, h.scope.toNat), (1, clsD h.cls), (4, clsN h.cls), (1, st.toNat), (6, 10)]
  | .cpref st h base stride ofs => pack [(14, ofs.toNat), (14, stride.toNat), (1, 0), (6, base.code), (10, 0), (4, 0), (3, h.scope.toNat), (1, clsD h.cls), (4, clsN h.cls), (1, st.toNat), (6, 11)]
  | .vspill h v base lur n1 ofs => pack [(14, ofs.toNat), (10, n1.toNat), (4, 0), (1, lur.toNat), (6, base.code), (10, v.toNat), (4, 0), (3, h.scope.toNat), (1, clsD h.cls), (4, clsN h.cls), (1, 0), (6, 12)]
  | .vfill h v base lur n1 ofs => pack [(14, ofs.toNat), (10, n1.toNat), (4, 0), (1, lur.toNat), (6, base.code), (10, v.toNat), (4, 0), (3, h.scope.toNat), (1, clsD h.cls), (4, clsN h.cls), (1, 0), (6, 13)]
  | .fenceC scope mask => pack [(29, 0), (16, mask.toNat), (4, 0), (3, scope.toNat), (1, 0), (4, 0), (1, 0), (6, 14)]
  | .fenceR scope o os => pack [(3, 0), (10, opdAt os 2), (10, opdAt os 1), (10, opdAt os 0), (10, o.code), (2, os.length), (4, 0), (3, scope.toNat), (1, 0), (4, 0), (1, 0), (6, 15)]
  | .tla k p lvl node v ti => pack [(1, 0), (3, 0), (6, ti.toNat), (10, v.toNat), (6, node.code), (5, lvl.toNat), (4, p.toNat), (5, tokAt k.ins 2), (5, tokAt k.ins 1), (5, tokAt k.ins 0), (2, k.ins.length), (5, k.out.toNat), (1, 1), (6, 16)]
  | .tld k p lvl node v ti band => pack [(1, 0), (3, band.toNat), (6, ti.toNat), (10, v.toNat), (6, node.code), (5, lvl.toNat), (4, p.toNat), (5, tokAt k.ins 2), (5, tokAt k.ins 1), (5, tokAt k.ins 0), (2, k.ins.length), (5, k.out.toNat), (1, 1), (6, 17)]
  | .tsa k p lvl node x ti => pack [(1, 0), (3, 0), (6, ti.toNat), (10, x.long), (6, node.code), (5, lvl.toNat), (4, p.toNat), (5, tokAt k.ins 2), (5, tokAt k.ins 1), (5, tokAt k.ins 0), (2, k.ins.length), (5, k.out.toNat), (1, 1), (6, 18)]
  | .tsd k p lvl node x ti band => pack [(1, 0), (3, band.toNat), (6, ti.toNat), (10, x.long), (6, node.code), (5, lvl.toNat), (4, p.toNat), (5, tokAt k.ins 2), (5, tokAt k.ins 1), (5, tokAt k.ins 0), (2, k.ins.length), (5, k.out.toNat), (1, 1), (6, 19)]
  | .tdsc k p lvl node pd ti te => pack [(1, te.toNat), (3, 0), (6, ti.toNat), (4, pd.toNat), (6, 0), (6, node.code), (5, lvl.toNat), (4, p.toNat), (5, tokAt k.ins 2), (5, tokAt k.ins 1), (5, tokAt k.ins 0), (2, k.ins.length), (5, k.out.toNat), (1, 1), (6, 20)]
  | .tcellCommit k lvl node ti => pack [(1, 0), (3, 0), (6, ti.toNat), (10, 0), (6, node.code), (5, lvl.toNat), (4, 0), (5, tokAt k.ins 2), (5, tokAt k.ins 1), (5, tokAt k.ins 0), (2, k.ins.length), (5, k.out.toNat), (1, 1), (6, 21)]
  | .tcellRelease k lvl node ti => pack [(1, 1), (3, 0), (6, ti.toNat), (10, 0), (6, node.code), (5, lvl.toNat), (4, 0), (5, tokAt k.ins 2), (5, tokAt k.ins 1), (5, tokAt k.ins 0), (2, k.ins.length), (5, k.out.toNat), (1, 1), (6, 21)]
  | .gath h d base lur sz idx cnt => pack [(5, 0), (4, 0), (6, cnt.code), (1, affOf idx), (10, idxOf idx), (2, sz.toNat), (1, lur.toNat), (6, base.code), (10, d.toNat), (4, 0), (3, h.scope.toNat), (1, clsD h.cls), (4, clsN h.cls), (1, 0), (6, 24)]
  | .scat h x base lur sz idx cnt => pack [(5, 0), (4, 0), (6, cnt.code), (1, affOf idx), (10, idxOf idx), (2, sz.toNat), (1, lur.toNat), (6, base.code), (10, x.long), (4, 0), (3, h.scope.toNat), (1, clsD h.cls), (4, clsN h.cls), (1, 0), (6, 25)]
  | .scatAdd h x base lur sz idx cnt fadd => pack [(5, 0), (1, fadd.toNat), (3, 0), (6, cnt.code), (1, affOf idx), (10, idxOf idx), (2, sz.toNat), (1, lur.toNat), (6, base.code), (10, x.long), (4, 0), (3, h.scope.toNat), (1, clsD h.cls), (4, clsN h.cls), (1, 0), (6, 26)]
  | .qpush core x q => pack [(2, q.toNat), (33, 0), (10, x.long), (4, 0), (1, core.toNat), (2, 0), (5, 0), (1, 0), (6, 27)]
  | .qpop st p d q => pack [(2, q.toNat), (33, 0), (10, d.toNat), (4, p.toNat), (3, 0), (5, 0), (1, st.toNat), (6, 28)]
  | .bari h src base ofs => pack [(14, ofs.toNat), (4, 0), (5, 0), (6, 0), (6, base.code), (6, src.code), (4, 0), (4, 0), (3, h.scope.toNat), (1, clsD h.cls), (4, clsN h.cls), (1, 0), (6, 32)]
  | .bara h src base rd ofs => pack [(14, ofs.toNat), (4, 0), (5, rd.toNat), (6, 0), (6, base.code), (6, src.code), (4, 0), (4, 0), (3, h.scope.toNat), (1, clsD h.cls), (4, clsN h.cls), (1, 0), (6, 33)]
  | .barw h src base ofs => pack [(14, ofs.toNat), (4, 0), (5, 0), (6, 0), (6, base.code), (6, src.code), (4, 0), (4, 0), (3, h.scope.toNat), (1, clsD h.cls), (4, clsN h.cls), (1, 0), (6, 34)]
  | .barx h base rd ofs => pack [(14, ofs.toNat), (4, 0), (5, rd.toNat), (6, 0), (6, base.code), (6, 0), (4, 0), (4, 0), (3, h.scope.toNat), (1, clsD h.cls), (4, clsN h.cls), (1, 0), (6, 35)]
  | .commit cls cnt base => pack [(28, 0), (1, 0), (6, base.code), (6, cnt.code), (4, 0), (4, 0), (3, 0), (1, clsD cls), (4, clsN cls), (1, 0), (6, 40)]
  | .decommit cls cnt base unmap => pack [(28, 0), (1, unmap.toNat), (6, base.code), (6, cnt.code), (4, 0), (4, 0), (3, 0), (1, clsD cls), (4, clsN cls), (1, 0), (6, 41)]
  | .alloc h base rd => pack [(18, 0), (5, rd.toNat), (6, 0), (6, base.code), (6, 0), (4, 0), (4, 0), (3, h.scope.toNat), (1, clsD h.cls), (4, clsN h.cls), (1, 0), (6, 42)]
  | .free h src base => pack [(18, 0), (5, 0), (6, 0), (6, base.code), (6, src.code), (4, 0), (4, 0), (3, h.scope.toNat), (1, clsD h.cls), (4, clsN h.cls), (1, 0), (6, 43)]
  | .tlbinv scope asid base size => pack [(27, 0), (2, size.toNat), (6, base.code), (6, asid.code), (4, 0), (4, 0), (3, scope.toNat), (1, 0), (4, 0), (1, 0), (6, 44)]
  | .nopX => pack [(58, 0), (6, 0)]
  | .mmaScratchpad k md eb tia base kf => pack [(5, 0), (8, kf.toNat), (6, base.code), (4, 0), (1, 0), (6, tia.toNat), (2, eb.toNat), (3, md.toNat), (5, tokAt k.ins 2), (5, tokAt k.ins 1), (5, tokAt k.ins 0), (2, k.ins.length), (5, k.out.toNat), (1, 1), (6, 1)]
  | .mmaVector k md eb tia v kf => pack [(5, 0), (8, kf.toNat), (10, v.toNat), (1, 1), (6, tia.toNat), (2, eb.toNat), (3, md.toNat), (5, tokAt k.ins 2), (5, tokAt k.ins 1), (5, tokAt k.ins 0), (2, k.ins.length), (5, k.out.toNat), (1, 1), (6, 1)]
  | .mmas k md eb tia base kf => pack [(5, 0), (8, kf.toNat), (6, base.code), (4, 0), (1, 0), (6, tia.toNat), (2, eb.toNat), (3, md.toNat), (5, tokAt k.ins 2), (5, tokAt k.ins 1), (5, tokAt k.ins 0), (2, k.ins.length), (5, k.out.toNat), (1, 1), (6, 2)]
  | .lde k eb tib cmask base => pack [(13, 0), (6, base.code), (8, cmask.toNat), (6, tib.toNat), (2, eb.toNat), (5, tokAt k.ins 2), (5, tokAt k.ins 1), (5, tokAt k.ins 0), (2, k.ins.length), (5, k.out.toNat), (1, 1), (6, 3)]
  | .mzero ks mt => pack [(32, 0), (3, mt.toNat), (5, tokAt ks 2), (5, tokAt ks 1), (5, tokAt ks 0), (2, ks.length), (5, 0), (1, 0), (6, 4)]
  | .msave k mt sp base ofs => pack [(12, 0), (13, ofs.toNat), (6, base.code), (1, sp.toNat), (3, mt.toNat), (5, tokAt k.ins 2), (5, tokAt k.ins 1), (5, tokAt k.ins 0), (2, k.ins.length), (5, k.out.toNat), (1, 1), (6, 5)]
  | .mload k mt sp base ofs => pack [(12, 0), (13, ofs.toNat), (6, base.code), (1, sp.toNat), (3, mt.toNat), (5, tokAt k.ins 2), (5, tokAt k.ins 1), (5, tokAt k.ins 0), (2, k.ins.length), (5, k.out.toNat), (1, 1), (6, 6)]
  | .copy k desc soff doff => pack [(17, 0), (6, doff.code), (6, soff.code), (6, desc.code), (5, tokAt k.ins 2), (5, tokAt k.ins 1), (5, tokAt k.ins 0), (2, k.ins.length), (5, k.out.toNat), (1, 1), (6, 8)]
  | .rlay k tis tid sb db prm rm sat => pack [(2, 0), (1, sat.toNat), (2, rm.toNat), (6, prm.code), (6, db.code), (6, sb.code), (6, tid.toNat), (6, tis.toNat), (5, tokAt k.ins 2), (5, tokAt k.ins 1), (5, tokAt k.ins 0), (2, k.ins.length), (5, k.out.toNat), (1, 1), (6, 9)]
  | .stage k n soff doff => pack [(14, 0), (6, doff.code), (6, soff.code), (9, n.toNat), (5, tokAt k.ins 2), (5, tokAt k.ins 1), (5, tokAt k.ins 0), (2, k.ins.length), (5, k.out.toNat), (1, 1), (6, 10)]
  | .mgset k desc tag => pack [(23, 0), (6, tag.code), (6, desc.code), (5, tokAt k.ins 2), (5, tokAt k.ins 1), (5, tokAt k.ins 0), (2, k.ins.length), (5, k.out.toNat), (1, 1), (6, 16)]
  | .mgpush k stream v cnt tag => pack [(9, 0), (6, tag.code), (6, cnt.code), (10, v.toNat), (4, stream.toNat), (5, tokAt k.ins 2), (5, tokAt k.ins 1), (5, tokAt k.ins 0), (2, k.ins.length), (5, k.out.toNat), (1, 1), (6, 17)]
  | .mgfin k ti tag tsk dec => pack [(16, 0), (1, dec.toNat), (6, tsk.code), (6, tag.code), (6, ti.toNat), (5, tokAt k.ins 2), (5, tokAt k.ins 1), (5, tokAt k.ins 0), (2, k.ins.length), (5, k.out.toNat), (1, 1), (6, 18)]
  | .contract k blk => pack [(29, 0), (6, blk.code), (5, tokAt k.ins 2), (5, tokAt k.ins 1), (5, tokAt k.ins 0), (2, k.ins.length), (5, k.out.toNat), (1, 1), (6, 19)]
  | .astart k entry arg => pack [(10, 0), (8, 0), (4, 0), (1, 0), (6, arg.code), (6, entry.code), (5, tokAt k.ins 2), (5, tokAt k.ins 1), (5, tokAt k.ins 0), (2, k.ins.length), (5, k.out.toNat), (1, 1), (6, 20)]
  | .astartPost k flag n => pack [(10, 0), (8, n.toNat), (4, flag.toNat), (1, 1), (12, 0), (5, tokAt k.ins 2), (5, tokAt k.ins 1), (5, tokAt k.ins 0), (2, k.ins.length), (5, k.out.toNat), (1, 1), (6, 20)]
  | .send k link sp buf len tag => pack [(9, 0), (8, tag.toNat), (6, len.code), (6, buf.code), (1, sp.toNat), (5, link.toNat), (5, tokAt k.ins 2), (5, tokAt k.ins 1), (5, tokAt k.ins 0), (2, k.ins.length), (5, k.out.toNat), (1, 1), (6, 24)]
  | .recv k link sp buf len tag => pack [(9, 0), (8, tag.toNat), (6, len.code), (6, buf.code), (1, sp.toNat), (5, link.toNat), (5, tokAt k.ins 2), (5, tokAt k.ins 1), (5, tokAt k.ins 0), (2, k.ins.length), (5, k.out.toNat), (1, 1), (6, 25)]
  | .ramo k aop d8 base src cmp rd => pack [(7, 0), (5, rd.toNat), (6, cmp.code), (6, src.code), (6, base.code), (1, d8.toNat), (4, aop.toNat), (5, tokAt k.ins 2), (5, tokAt k.ins 1), (5, tokAt k.ins 0), (2, k.ins.length), (5, k.out.toNat), (1, 1), (6, 26)]
  | .launch k rec => pack [(29, 0), (6, rec.code), (5, tokAt k.ins 2), (5, tokAt k.ins 1), (5, tokAt k.ins 0), (2, k.ins.length), (5, k.out.toNat), (1, 1), (6, 32)]
  | .taskset k ent slot => pack [(23, 0), (6, slot.code), (6, ent.code), (5, tokAt k.ins 2), (5, tokAt k.ins 1), (5, tokAt k.ins 0), (2, k.ins.length), (5, k.out.toNat), (1, 1), (6, 33)]
  | .taskdec k val => pack [(29, 0), (6, val.code), (5, tokAt k.ins 2), (5, tokAt k.ins 1), (5, tokAt k.ins 0), (2, k.ins.length), (5, k.out.toNat), (1, 1), (6, 34)]
  | .nopY => pack [(12, 0), (4, 0), (16, 0)]
  | .fwait f n => pack [(8, n.toNat), (4, f.toNat), (4, 1), (16, 0)]
  | .fpost f self ctx n => pack [(5, n.toNat), (2, ctx.toNat), (1, self.toNat), (4, f.toNat), (4, 2), (16, 0)]
  | .fpostr f a => pack [(6, a.code), (2, 0), (4, f.toNat), (4, 3), (16, 0)]
  | .kwait nt k => pack [(5, k.toNat), (6, 0), (1, nt.toNat), (4, 4), (16, 0)]
  | .killScalar blk mask => pack [(32, 0), (20, 0), (6, mask.code), (2, 0), (4, blk.toNat)]
  | .killImmLo blk imm => pack [(32, imm.toNat), (20, 0), (6, 0), (2, 1), (4, blk.toNat)]
  | .killImmHi blk imm => pack [(32, imm.toNat), (20, 0), (6, 0), (2, 2), (4, blk.toNat)]
  | .headerOnlyBundle => 0
  | .instructionFetch _ => 0
  | .resultLanding _ => 0
  | .lateDataArrival _ => 0
  | .translationAnswer _ => 0
  | .blockEnd _ => 0
  | .quantumBlock _ => 0
  | .sfuTake _ => 0
  | .storePerform _ _ => 0
  | .migrationWindow => 0
  | .calendarRotation => 0
  | .calendarSlot _ => 0
  | .budgetPeriod => 0
  | .calendarCommit => 0
  | .laneLendingHandshake _ => 0
  | .arrayCommandStart _ => 0
  | .arrayCommandComplete _ => 0
  | .latchCommandStart _ => 0
  | .ldeComplete _ => 0
  | .treeCommandStart _ => 0
  | .treeAccessPerform _ => 0
  | .copyCommandStart _ => 0
  | .copyComplete _ _ => 0
  | .scheduleEntryStart _ => 0
  | .barrierArrival _ => 0
  | .flagPostArrival _ => 0
  | .mgsetOpen _ => 0
  | .mgpushArrival _ => 0
  | .mgfinClose _ => 0
  | .accessProgramStart _ => 0
  | .rangeCounterRelease _ => 0
  | .freeApply _ => 0
  | .messageArrival _ => 0
  | .creditReturn _ _ => 0
  | .recvComplete _ => 0
  | .ramoRemoteOperation _ => 0
  | .remoteSignalDelivery _ => 0
  | .linkTrained _ => 0
  | .linkDown _ => 0
  | .hostAccess _ _ _ => 0
  | .launchAdmission => 0
  | .taskDispatch _ => 0
  | .taskStart _ => 0
  | .taskStaging _ => 0
  | .budgetOverrun _ => 0
  | .slotDecrement _ => 0
  | .slotEnqueue _ => 0
  | .taskendComplete _ => 0
  | .launchCompletion _ => 0
  | .lqtailWrite _ => 0
  | .ringEntryRead => 0
  | .launchQueueReset _ => 0
  | .taskRerun _ => 0
  | .machineCheck _ => 0
  | .svcdoneResume _ _ => 0
  | .svcdoneEnd _ => 0
  | .svcdoneRerun _ => 0
  | .preemptionRequest _ => 0
  | .preemptionSaveComplete _ => 0
  | .contextResume _ => 0
  | .ctxcmdPreempt _ => 0
  | .ctxcmdStop _ => 0
  | .ctxcmdResume _ => 0
  | .ctxcmdSetdbg _ _ => 0
  | .ctxcmdArmdbg _ _ => 0
  | .debugStop _ => 0
  | .singleStepStop _ => 0
  | .traceOpen _ => 0
  | .traceClose _ => 0
  | .mgmtcmdLoad _ => 0
  | .mgmtcmdAttest _ => 0
  | .clockStepChange _ => 0
  | .powerOnReset => 0
  | .fullServiceSwitch => 0
  | .coreLeavesReset _ => 0
  | .registerWrite _ _ _ => 0
  | .coreEntersReset _ => 0
  | .corePowerGate _ => 0
  | .corePowerUngate _ => 0
  | .inboundFabricAccess _ _ _ => 0
  | .tasksetArm _ => 0

/-- The fields of an S word (R27, R48), by opcode. -/
def fieldsS (w : Nat) : Option Instr :=
  match fld w 26 6 with
  | 0 => some .nopS
  | 1 => if fld w 13 1 = 0 then do let b ← SCode.ofCode (fld w 7 6); let a ← SCode.ofCode (fld w 14 6); some (.addReg (flag w 25) (.ofNat 5 (fld w 20 5)) a b)
    else do let a ← SCode.ofCode (fld w 14 6); some (.addImm (flag w 25) (.ofNat 5 (fld w 20 5)) a (.ofNat 13 (fld w 0 13)))
  | 2 => if fld w 13 1 = 0 then do let b ← SCode.ofCode (fld w 7 6); let a ← SCode.ofCode (fld w 14 6); some (.subReg (flag w 25) (.ofNat 5 (fld w 20 5)) a b)
    else do let a ← SCode.ofCode (fld w 14 6); some (.subImm (flag w 25) (.ofNat 5 (fld w 20 5)) a (.ofNat 13 (fld w 0 13)))
  | 3 => if fld w 13 1 = 0 then do let b ← SCode.ofCode (fld w 7 6); let a ← SCode.ofCode (fld w 14 6); some (.mulReg (flag w 25) (.ofNat 5 (fld w 20 5)) a b)
    else do let a ← SCode.ofCode (fld w 14 6); some (.mulImm (flag w 25) (.ofNat 5 (fld w 20 5)) a (.ofNat 13 (fld w 0 13)))
  | 4 => if fld w 13 1 = 0 then do let b ← SCode.ofCode (fld w 7 6); let a ← SCode.ofCode (fld w 14 6); some (.mulhReg (flag w 25) (.ofNat 5 (fld w 20 5)) a b (flag w 0))
    else do let a ← SCode.ofCode (fld w 14 6); some (.mulhImm (flag w 25) (.ofNat 5 (fld w 20 5)) a (.ofNat 13 (fld w 0 13)))
  | 5 => if fld w 13 1 = 0 then do let b ← SCode.ofCode (fld w 7 6); let a ← SCode.ofCode (fld w 14 6); some (.divReg (flag w 25) (.ofNat 5 (fld w 20 5)) a b (flag w 0))
    else do let a ← SCode.ofCode (fld w 14 6); some (.divImm (flag w 25) (.ofNat 5 (fld w 20 5)) a (.ofNat 13 (fld w 0 13)))
  | 6 => if fld w 13 1 = 0 then do let b ← SCode.ofCode (fld w 7 6); let a ← SCode.ofCode (fld w 14 6); some (.remReg (flag w 25) (.ofNat 5 (fld w 20 5)) a b (flag w 0))
    else do let a ← SCode.ofCode (fld w 14 6); some (.remImm (flag w 25) (.ofNat 5 (fld w 20 5)) a (.ofNat 13 (fld w 0 13)))
  | 7 => if fld w 13 1 = 0 then do let b ← SCode.ofCode (fld w 7 6); let a ← SCode.ofCode (fld w 14 6); some (.minReg (flag w 25) (.ofNat 5 (fld w 20 5)) a b (flag w 0))
    else do let a ← SCode.ofCode (fld w 14 6); some (.minImm (flag w 25) (.ofNat 5 (fld w 20 5)) a (.ofNat 13 (fld w 0 13)))
  | 8 => if fld w 13 1 = 0 then do let b ← SCode.ofCode (fld w 7 6); let a ← SCode.ofCode (fld w 14 6); some (.maxReg (flag w 25) (.ofNat 5 (fld w 20 5)) a b (flag w 0))
    else do let a ← SCode.ofCode (fld w 14 6); some (.maxImm (flag w 25) (.ofNat 5 (fld w 20 5)) a (.ofNat 13 (fld w 0 13)))
  | 9 => if fld w 13 1 = 0 then do let b ← SCode.ofCode (fld w 7 6); let a ← SCode.ofCode (fld w 14 6); some (.andReg (flag w 25) (.ofNat 5 (fld w 20 5)) a b)
    else do let a ← SCode.ofCode (fld w 14 6); some (.andImm (flag w 25) (.ofNat 5 (fld w 20 5)) a (.ofNat 13 (fld w 0 13)))
  | 10 => if fld w 13 1 = 0 then do let b ← SCode.ofCode (fld w 7 6); let a ← SCode.ofCode (fld w 14 6); some (.orReg (flag w 25) (.ofNat 5 (fld w 20 5)) a b)
    else do let a ← SCode.ofCode (fld w 14 6); some (.orImm (flag w 25) (.ofNat 5 (fld w 20 5)) a (.ofNat 13 (fld w 0 13)))
  | 11 => if fld w 13 1 = 0 then do let b ← SCode.ofCode (fld w 7 6); let a ← SCode.ofCode (fld w 14 6); some (.xorReg (flag w 25) (.ofNat 5 (fld w 20 5)) a b)
    else do let a ← SCode.ofCode (fld w 14 6); some (.xorImm (flag w 25) (.ofNat 5 (fld w 20 5)) a (.ofNat 13 (fld w 0 13)))
  | 12 => if fld w 13 1 = 0 then do let b ← SCode.ofCode (fld w 7 6); let a ← SCode.ofCode (fld w 14 6); some (.shlReg (flag w 25) (.ofNat 5 (fld w 20 5)) a b)
    else do let a ← SCode.ofCode (fld w 14 6); some (.shlImm (flag w 25) (.ofNat 5 (fld w 20 5)) a (.ofNat 6 (fld w 0 6)))
  | 13 => if fld w 13 1 = 0 then do let b ← SCode.ofCode (fld w 7 6); let a ← SCode.ofCode (fld w 14 6); some (.shrReg (flag w 25) (.ofNat 5 (fld w 20 5)) a b)
    else do let a ← SCode.ofCode (fld w 14 6); some (.shrImm (flag w 25) (.ofNat 5 (fld w 20 5)) a (.ofNat 6 (fld w 0 6)))
  | 14 => if fld w 13 1 = 0 then do let b ← SCode.ofCode (fld w 7 6); let a ← SCode.ofCode (fld w 14 6); some (.sraReg (flag w 25) (.ofNat 5 (fld w 20 5)) a b)
    else do let a ← SCode.ofCode (fld w 14 6); some (.sraImm (flag w 25) (.ofNat 5 (fld w 20 5)) a (.ofNat 6 (fld w 0 6)))
  | 15 => do let a ← SCode.ofCode (fld w 14 6); some (.lih (flag w 25) (.ofNat 5 (fld w 20 5)) a (.ofNat 13 (fld w 0 13)))
  | 16 => if fld w 13 1 = 0 then do let b ← SCode.ofCode (fld w 7 6); let a ← SCode.ofCode (fld w 14 6); some (.cmpReg (flag w 25) (.ofNat 5 (fld w 20 5)) a b (.ofNat 4 (fld w 0 4)))
    else do let a ← SCode.ofCode (fld w 14 6); some (.cmpImm (flag w 25) (.ofNat 5 (fld w 20 5)) a (.ofNat 9 (fld w 4 9)) (.ofNat 4 (fld w 0 4)))
  | 17 => if fld w 13 1 = 0 then do let c ← SCode.ofCode (fld w 0 6); let b ← SCode.ofCode (fld w 7 6); let a ← SCode.ofCode (fld w 14 6); some (.selReg (flag w 25) (.ofNat 5 (fld w 20 5)) a b c)
    else do let c ← SCode.ofCode (fld w 0 6); let a ← SCode.ofCode (fld w 14 6); some (.selImm (flag w 25) (.ofNat 5 (fld w 20 5)) a (.ofNat 7 (fld w 6 7)) c)
  | 18 => if fld w 13 1 = 0 then do let b ← SCode.ofCode (fld w 7 6); let a ← SCode.ofCode (fld w 14 6); some (.bfxReg (flag w 25) (.ofNat 5 (fld w 20 5)) a b (flag w 6) (.ofNat 6 (fld w 0 6)))
    else do let a ← SCode.ofCode (fld w 14 6); some (.bfxImm (flag w 25) (.ofNat 5 (fld w 20 5)) a (flag w 12) (.ofNat 6 (fld w 6 6)) (.ofNat 6 (fld w 0 6)))
  | 19 => do let a ← SCode.ofCode (fld w 14 6); some (.bfi (flag w 25) (.ofNat 5 (fld w 20 5)) a (.ofNat 6 (fld w 6 6)) (.ofNat 6 (fld w 0 6)))
  | 20 => do let a ← SCode.ofCode (fld w 14 6); some (.clz (flag w 25) (.ofNat 5 (fld w 20 5)) a)
  | 21 => do let a ← SCode.ofCode (fld w 14 6); some (.popc (flag w 25) (.ofNat 5 (fld w 20 5)) a)
  | 22 => if fld w 13 1 = 0 then do let b ← SCode.ofCode (fld w 7 6); let a ← SCode.ofCode (fld w 14 6); some (.addsReg (flag w 25) (.ofNat 5 (fld w 20 5)) a b (.ofNat 4 (fld w 0 4)))
    else do let a ← SCode.ofCode (fld w 14 6); some (.addsImm (flag w 25) (.ofNat 5 (fld w 20 5)) a (.ofNat 13 (fld w 0 13)))
  | 23 => some (.wid (flag w 25) (.ofNat 5 (fld w 20 5)) (flag w 3) (.ofNat 3 (fld w 0 3)))
  | 32 => if fld w 24 1 = 0 then do let a ← SCode.ofCode (fld w 16 6); some (.brScalar (.ofNat 2 (fld w 22 2)) a (.ofNat 16 (fld w 0 16)))
    else some (.brPred (.ofNat 2 (fld w 22 2)) (.ofNat 4 (fld w 16 4)) (.ofNat 16 (fld w 0 16)))
  | 33 => some (.bra (.ofNat 25 (fld w 0 25)))
  | 34 => some (.call (.ofNat 5 (fld w 20 5)) (.ofNat 20 (fld w 0 20)))
  | 35 => do let a ← SCode.ofCode (fld w 19 6); some (.ret a)
  | 36 => do let a ← SCode.ofCode (fld w 19 6); some (.jmpr a (.ofNat 19 (fld w 0 19)))
  | 37 => do let a ← SCode.ofCode (fld w 16 6); some (.loopn (.ofNat 3 (fld w 22 3)) a (.ofNat 16 (fld w 0 16)))
  | 38 => some (.lend (.ofNat 3 (fld w 22 3)))
  | 39 => some .taskend
  | 40 => do let a ← SCode.ofCode (fld w 19 6); some (.lift a (.ofNat 19 (fld w 0 19)))
  | 41 => some .lret
  | 42 => if fld w 24 1 = 0 then do let a ← SCode.ofCode (fld w 16 6); some (.brbScalar (.ofNat 2 (fld w 22 2)) a (.ofNat 16 (fld w 0 16)))
    else some (.brbPred (.ofNat 2 (fld w 22 2)) (.ofNat 4 (fld w 16 4)) (.ofNat 16 (fld w 0 16)))
  | 43 => some .ljoin
  | 44 => some (.ctlrd (.ofNat 5 (fld w 20 5)) (.ofNat 10 (fld w 10 10)))
  | 45 => do let a ← SCode.ofCode (fld w 19 6); some (.ctlwr a (.ofNat 10 (fld w 9 10)))
  | 46 => some .eret
  | 47 => some (.trap (.ofNat 16 (fld w 0 16)))
  | _ => none

/-- The fields of a V word (R28, R29, R49), by opcode. -/
def fieldsV (w : Nat) : Option Instr :=
  match fld w 57 6 with
  | 0 => some .nopV
  | 1 => do let b ← VCode.ofLong (fld w 12 10); let a ← VCode.ofLong (fld w 22 10); let ch ← Chain.ofWord2 w; some (.vadd (vhead w) (.ofNat 10 (fld w 32 10)) a b ch)
  | 2 => do let b ← VCode.ofLong (fld w 12 10); let a ← VCode.ofLong (fld w 22 10); let ch ← Chain.ofWord2 w; some (.vsub (vhead w) (.ofNat 10 (fld w 32 10)) a b ch)
  | 3 => do let b ← VCode.ofLong (fld w 12 10); let a ← VCode.ofLong (fld w 22 10); let ch ← Chain.ofWord2 w; some (.vmul (vhead w) (.ofNat 10 (fld w 32 10)) a b ch)
  | 4 => do let c ← VCode.ofShort (fld w 6 6); let b ← VCode.ofLong (fld w 12 10); let a ← VCode.ofLong (fld w 22 10); let ch ← Chain.ofWord3 w; some (.vfma (vhead w) (.ofNat 10 (fld w 32 10)) a b c ch)
  | 5 => do let b ← VCode.ofLong (fld w 12 10); let a ← VCode.ofLong (fld w 22 10); let ch ← Chain.ofWord2 w; some (.vmin (vhead w) (.ofNat 10 (fld w 32 10)) a b ch)
  | 6 => do let b ← VCode.ofLong (fld w 12 10); let a ← VCode.ofLong (fld w 22 10); let ch ← Chain.ofWord2 w; some (.vmax (vhead w) (.ofNat 10 (fld w 32 10)) a b ch)
  | 7 => do let a ← VCode.ofLong (fld w 22 10); let ch ← Chain.ofWord1 w; some (.vabs (vhead w) (.ofNat 10 (fld w 32 10)) a ch)
  | 8 => do let a ← VCode.ofLong (fld w 22 10); let ch ← Chain.ofWord1 w; some (.vneg (vhead w) (.ofNat 10 (fld w 32 10)) a ch)
  | 9 => do let b ← VCode.ofLong (fld w 12 10); let a ← VCode.ofLong (fld w 22 10); let ch ← Chain.ofWord2 w; some (.vand (vhead w) (.ofNat 10 (fld w 32 10)) a b ch)
  | 10 => do let b ← VCode.ofLong (fld w 12 10); let a ← VCode.ofLong (fld w 22 10); let ch ← Chain.ofWord2 w; some (.vor (vhead w) (.ofNat 10 (fld w 32 10)) a b ch)
  | 11 => do let b ← VCode.ofLong (fld w 12 10); let a ← VCode.ofLong (fld w 22 10); let ch ← Chain.ofWord2 w; some (.vxor (vhead w) (.ofNat 10 (fld w 32 10)) a b ch)
  | 12 => do let b ← VCode.ofLong (fld w 12 10); let a ← VCode.ofLong (fld w 22 10); let ch ← Chain.ofWord2 w; some (.vshl (vhead w) (.ofNat 10 (fld w 32 10)) a b ch)
  | 13 => do let b ← VCode.ofLong (fld w 12 10); let a ← VCode.ofLong (fld w 22 10); let ch ← Chain.ofWord2 w; some (.vshr (vhead w) (.ofNat 10 (fld w 32 10)) a b ch)
  | 14 => do let b ← VCode.ofLong (fld w 12 10); let a ← VCode.ofLong (fld w 22 10); let ch ← Chain.ofWord2 w; some (.vsra (vhead w) (.ofNat 10 (fld w 32 10)) a b ch)
  | 15 => do let a ← VCode.ofLong (fld w 22 10); let ch ← Chain.ofWord1 w; some (.vmov (vhead w) (.ofNat 10 (fld w 32 10)) a ch)
  | 16 => do let b ← VCode.ofLong (fld w 12 10); let a ← VCode.ofLong (fld w 22 10); some (.vcmp (vhead w) (.ofNat 4 (fld w 32 4)) a b (.ofNat 6 (fld w 6 6)))
  | 17 => do let b ← VCode.ofLong (fld w 12 10); let a ← VCode.ofLong (fld w 22 10); some (.vsel (vhead w) (.ofNat 10 (fld w 32 10)) a b (.ofNat 4 (fld w 6 4)))
  | 18 => do let c ← VCode.ofShort (fld w 6 6); let b ← VCode.ofLong (fld w 12 10); let a ← VCode.ofLong (fld w 22 10); some (.vmac16 (vhead w) (.ofNat 10 (fld w 32 10)) a b c (.ofNat 4 (fld w 0 4)))
  | 19 => do let c ← VCode.ofShort (fld w 6 6); let b ← VCode.ofLong (fld w 12 10); let a ← VCode.ofLong (fld w 22 10); some (.vdot4 (vhead w) (.ofNat 10 (fld w 32 10)) a b c)
  | 20 => do let a ← VCode.ofLong (fld w 22 10); some (.vred (vhead w) (.ofNat 10 (fld w 32 10)) a (.ofNat 3 (fld w 6 3)))
  | 21 => do let a ← VCode.ofLong (fld w 22 10); some (.vscan (vhead w) (.ofNat 10 (fld w 32 10)) a (.ofNat 2 (fld w 6 2)) (flag w 9))
  | 22 => do let b ← VCode.ofLong (fld w 12 10); let a ← VCode.ofLong (fld w 22 10); some (.vperm (vhead w) (.ofNat 10 (fld w 32 10)) a b)
  | 23 => do let b ← VCode.ofLong (fld w 12 10); let a ← VCode.ofLong (fld w 22 10); some (.vslide (vhead w) (.ofNat 10 (fld w 32 10)) a b (.ofNat 8 (fld w 6 2 * 64 + fld w 0 6)))
  | 24 => if fld w 0 6 = 0 then do let x ← SCode.ofCode (fld w 6 6); some (.vbcastScalar (vhead w) (.ofNat 10 (fld w 32 10)) x)
    else do let a ← VCode.ofLong (fld w 22 10); some (.vbcastLane (vhead w) (.ofNat 10 (fld w 32 10)) a (.ofNat 8 (fld w 12 8)))
  | 25 => do let a ← VCode.ofLong (fld w 22 10); some (.vpopc (vhead w) (.ofNat 10 (fld w 32 10)) a)
  | 26 => do let a ← VCode.ofLong (fld w 22 10); some (.vcompress (vhead w) (.ofNat 10 (fld w 32 10)) a)
  | 27 => do let a ← VCode.ofLong (fld w 22 10); some (.vexpand (vhead w) (.ofNat 10 (fld w 32 10)) a)
  | 28 => some (.viota (vhead w) (.ofNat 10 (fld w 32 10)))
  | 32 => some (.pand (vhead w) (.ofNat 4 (fld w 32 4)) (.ofNat 4 (fld w 22 4)) (.ofNat 4 (fld w 12 4)))
  | 33 => some (.por (vhead w) (.ofNat 4 (fld w 32 4)) (.ofNat 4 (fld w 22 4)) (.ofNat 4 (fld w 12 4)))
  | 34 => some (.pxor (vhead w) (.ofNat 4 (fld w 32 4)) (.ofNat 4 (fld w 22 4)) (.ofNat 4 (fld w 12 4)))
  | 35 => some (.pnot (vhead w) (.ofNat 4 (fld w 32 4)) (.ofNat 4 (fld w 22 4)))
  | 36 => some (.pcnt (vhead w) (.ofNat 5 (fld w 32 5)) (.ofNat 4 (fld w 22 4)))
  | 37 => some (.pfirst (vhead w) (.ofNat 5 (fld w 32 5)) (.ofNat 4 (fld w 22 4)))
  | 40 => do let a ← VCode.ofLong (fld w 22 10); some (.vcvt (vhead w) (.ofNat 10 (fld w 32 10)) a (.ofNat 3 (fld w 12 3)) (.ofNat 4 (fld w 6 4)) (.ofNat 4 (fld w 0 4)) (flag w 4) (flag w 5))
  | 41 => do let a ← VCode.ofLong (fld w 22 10); some (.vpackb (vhead w) (.ofNat 10 (fld w 32 10)) a (.ofNat 3 (fld w 12 3)) (.ofNat 2 (fld w 6 2)) (flag w 0))
  | 42 => do let a ← VCode.ofLong (fld w 22 10); some (.vunpackb (vhead w) (.ofNat 10 (fld w 32 10)) a (.ofNat 3 (fld w 12 3)) (.ofNat 2 (fld w 6 2)))
  | 43 => if fld w 1 1 = 0 then do let k ← SCode.ofCode (fld w 6 6); let a ← VCode.ofLong (fld w 22 10); some (.vbpackPack (vhead w) (.ofNat 10 (fld w 32 10)) a (.ofNat 3 (fld w 12 3)) k (flag w 0) (flag w 2))
    else do let k ← SCode.ofCode (fld w 6 6); let a ← VCode.ofLong (fld w 22 10); some (.vbpackUnpack (vhead w) (.ofNat 10 (fld w 32 10)) a (.ofNat 3 (fld w 12 3)) k (flag w 0))
  | 44 => do let x ← SCode.ofCode (fld w 0 6); some (.vtr (vhead w) (.ofNat 10 (fld w 32 10)) (.ofNat 8 (fld w 12 8)) (.ofNat 3 (fld w 6 3)) x)
  | 45 => do let x ← SCode.ofCode (fld w 0 6); let a ← VCode.ofLong (fld w 22 10); some (.vtw (vhead w) (.ofNat 8 (fld w 12 8)) (.ofNat 3 (fld w 6 3)) x a)
  | 46 => do let a ← VCode.ofLong (fld w 22 10); some (.lreduce (vhead w) (.ofNat 10 (fld w 32 10)) a (.ofNat 3 (fld w 6 3)) (.ofNat 2 (fld w 0 2)))
  | _ => none

/-- The fields of an F word (R30, R50), by opcode. -/
def fieldsF (w : Nat) : Option Instr :=
  match fld w 27 5 with
  | 0 => some .nopF
  | 1 => do let a ← VCode.ofLong (fld w 6 10); some (.frcp (flag w 26) (.ofNat 10 (fld w 16 10)) a (.ofNat 4 (fld w 2 4)) (flag w 1))
  | 2 => do let a ← VCode.ofLong (fld w 6 10); some (.frsq (flag w 26) (.ofNat 10 (fld w 16 10)) a (.ofNat 4 (fld w 2 4)) (flag w 1))
  | 3 => do let a ← VCode.ofLong (fld w 6 10); some (.fsqrt (flag w 26) (.ofNat 10 (fld w 16 10)) a (.ofNat 4 (fld w 2 4)) (flag w 1))
  | 4 => do let a ← VCode.ofLong (fld w 6 10); some (.fexp2 (flag w 26) (.ofNat 10 (fld w 16 10)) a (.ofNat 4 (fld w 2 4)) (flag w 1))
  | 5 => do let a ← VCode.ofLong (fld w 6 10); some (.flog2 (flag w 26) (.ofNat 10 (fld w 16 10)) a (.ofNat 4 (fld w 2 4)) (flag w 1))
  | 6 => do let a ← VCode.ofLong (fld w 6 10); some (.fsig (flag w 26) (.ofNat 10 (fld w 16 10)) a (.ofNat 4 (fld w 2 4)) (flag w 1))
  | 7 => do let a ← VCode.ofLong (fld w 6 10); some (.ftanh (flag w 26) (.ofNat 10 (fld w 16 10)) a (.ofNat 4 (fld w 2 4)) (flag w 1))
  | 8 => do let a ← VCode.ofLong (fld w 6 10); some (.fsin (flag w 26) (.ofNat 10 (fld w 16 10)) a (.ofNat 4 (fld w 2 4)) (flag w 1))
  | 9 => do let a ← VCode.ofLong (fld w 6 10); some (.fcos (flag w 26) (.ofNat 10 (fld w 16 10)) a (.ofNat 4 (fld w 2 4)) (flag w 1))
  | _ => none

/-- The fields of an M word (R31, R51), by opcode. -/
def fieldsM (w : Nat) : Option Instr :=
  match fld w 58 6 with
  | 0 => some .nopM
  | 1 => do let base ← SCode.ofCode (fld w 29 6); some (.ld (flag w 57) (mhead w) (.ofNat 5 (fld w 35 5)) base (flag w 28) (.ofNat 2 (fld w 26 2)) (flag w 25) (.ofNat 11 (fld w 14 11)) (.ofNat 14 (fld w 0 14)))
  | 2 => do let base ← SCode.ofCode (fld w 29 6); let x ← SCode.ofCode (fld w 35 6); some (.st (flag w 57) (mhead w) x base (flag w 28) (.ofNat 2 (fld w 26 2)) (.ofNat 11 (fld w 14 11)) (.ofNat 14 (fld w 0 14)))
  | 3 => do let base ← SCode.ofCode (fld w 29 6); some (.vld (flag w 57) (mhead w) (.ofNat 4 (fld w 45 4)) (.ofNat 10 (fld w 35 10)) base (flag w 28) (.ofNat 14 (fld w 14 14)) (.ofNat 14 (fld w 0 14)))
  | 4 => do let base ← SCode.ofCode (fld w 29 6); let x ← VCode.ofLong (fld w 35 10); some (.vst (flag w 57) (mhead w) (.ofNat 4 (fld w 45 4)) x base (flag w 28) (.ofNat 14 (fld w 14 14)) (.ofNat 14 (fld w 0 14)))
  | 5 => do let base ← SCode.ofCode (fld w 29 6); some (.vldc (flag w 57) (mhead w) (.ofNat 4 (fld w 45 4)) (.ofNat 10 (fld w 35 10)) base (.ofNat 14 (fld w 14 14)) (.ofNat 14 (fld w 0 14)))
  | 6 => do let base ← SCode.ofCode (fld w 29 6); some (.lda (mhead w) (.ofNat 5 (fld w 35 5)) base (flag w 28) (.ofNat 2 (fld w 26 2)) (flag w 25) (.ofNat 14 (fld w 0 14)))
  | 7 => do let base ← SCode.ofCode (fld w 29 6); let x ← SCode.ofCode (fld w 35 6); some (.strel (mhead w) x base (flag w 28) (.ofNat 2 (fld w 26 2)) (.ofNat 14 (fld w 0 14)))
  | 8 => do let cmp ← SCode.ofCode (fld w 23 6); let base ← SCode.ofCode (fld w 29 6); let src ← SCode.ofCode (fld w 35 6); some (.amo (mhead w) (.ofNat 4 (fld w 41 4)) src base cmp (.ofNat 5 (fld w 18 5)) (.ofNat 2 (fld w 16 2)) (.ofNat 14 (fld w 0 14)))
  | 9 => do let base ← SCode.ofCode (fld w 29 6); some (.cflush (flag w 57) (mhead w) base (.ofNat 14 (fld w 14 14)) (.ofNat 14 (fld w 0 14)))
  | 10 => do let base ← SCode.ofCode (fld w 29 6); some (.cinv (flag w 57) (mhead w) base (.ofNat 14 (fld w 14 14)) (.ofNat 14 (fld w 0 14)))
  | 11 => do let base ← SCode.ofCode (fld w 29 6); some (.cpref (flag w 57) (mhead w) base (.ofNat 14 (fld w 14 14)) (.ofNat 14 (fld w 0 14)))
  | 12 => do let base ← SCode.ofCode (fld w 29 6); some (.vspill (mhead w) (.ofNat 10 (fld w 35 10)) base (flag w 28) (.ofNat 10 (fld w 14 10)) (.ofNat 14 (fld w 0 14)))
  | 13 => do let base ← SCode.ofCode (fld w 29 6); some (.vfill (mhead w) (.ofNat 10 (fld w 35 10)) base (flag w 28) (.ofNat 10 (fld w 14 10)) (.ofNat 14 (fld w 0 14)))
  | 14 => some (.fenceC (.ofNat 3 (fld w 49 3)) (.ofNat 16 (fld w 29 16)))
  | 15 => do let o ← FOpd.ofCode (fld w 33 10); let os ← opdsOf w; some (.fenceR (.ofNat 3 (fld w 49 3)) o os)
  | 16 => do let node ← SCode.ofCode (fld w 20 6); some (.tla (tokOf w) (.ofNat 4 (fld w 31 4)) (.ofNat 5 (fld w 26 5)) node (.ofNat 10 (fld w 10 10)) (.ofNat 6 (fld w 4 6)))
  | 17 => do let node ← SCode.ofCode (fld w 20 6); some (.tld (tokOf w) (.ofNat 4 (fld w 31 4)) (.ofNat 5 (fld w 26 5)) node (.ofNat 10 (fld w 10 10)) (.ofNat 6 (fld w 4 6)) (.ofNat 3 (fld w 1 3)))
  | 18 => do let x ← VCode.ofLong (fld w 10 10); let node ← SCode.ofCode (fld w 20 6); some (.tsa (tokOf w) (.ofNat 4 (fld w 31 4)) (.ofNat 5 (fld w 26 5)) node x (.ofNat 6 (fld w 4 6)))
  | 19 => do let x ← VCode.ofLong (fld w 10 10); let node ← SCode.ofCode (fld w 20 6); some (.tsd (tokOf w) (.ofNat 4 (fld w 31 4)) (.ofNat 5 (fld w 26 5)) node x (.ofNat 6 (fld w 4 6)) (.ofNat 3 (fld w 1 3)))
  | 20 => do let node ← SCode.ofCode (fld w 20 6); some (.tdsc (tokOf w) (.ofNat 4 (fld w 31 4)) (.ofNat 5 (fld w 26 5)) node (.ofNat 4 (fld w 10 4)) (.ofNat 6 (fld w 4 6)) (flag w 0))
  | 21 => if fld w 0 1 = 0 then do let node ← SCode.ofCode (fld w 20 6); some (.tcellCommit (tokOf w) (.ofNat 5 (fld w 26 5)) node (.ofNat 6 (fld w 4 6)))
    else do let node ← SCode.ofCode (fld w 20 6); some (.tcellRelease (tokOf w) (.ofNat 5 (fld w 26 5)) node (.ofNat 6 (fld w 4 6)))
  | 24 => do let cnt ← SCode.ofCode (fld w 9 6); let idx ← idxAt w; let base ← SCode.ofCode (fld w 29 6); some (.gath (mhead w) (.ofNat 10 (fld w 35 10)) base (flag w 28) (.ofNat 2 (fld w 26 2)) idx cnt)
  | 25 => do let cnt ← SCode.ofCode (fld w 9 6); let idx ← idxAt w; let base ← SCode.ofCode (fld w 29 6); let x ← VCode.ofLong (fld w 35 10); some (.scat (mhead w) x base (flag w 28) (.ofNat 2 (fld w 26 2)) idx cnt)
  | 26 => do let cnt ← SCode.ofCode (fld w 9 6); let idx ← idxAt w; let base ← SCode.ofCode (fld w 29 6); let x ← VCode.ofLong (fld w 35 10); some (.scatAdd (mhead w) x base (flag w 28) (.ofNat 2 (fld w 26 2)) idx cnt (flag w 5))
  | 27 => do let x ← VCode.ofLong (fld w 35 10); some (.qpush (flag w 49) x (.ofNat 2 (fld w 0 2)))
  | 28 => some (.qpop (flag w 57) (.ofNat 4 (fld w 45 4)) (.ofNat 10 (fld w 35 10)) (.ofNat 2 (fld w 0 2)))
  | 32 => do let base ← SCode.ofCode (fld w 29 6); let src ← SCode.ofCode (fld w 35 6); some (.bari (mhead w) src base (.ofNat 14 (fld w 0 14)))
  | 33 => do let base ← SCode.ofCode (fld w 29 6); let src ← SCode.ofCode (fld w 35 6); some (.bara (mhead w) src base (.ofNat 5 (fld w 18 5)) (.ofNat 14 (fld w 0 14)))
  | 34 => do let base ← SCode.ofCode (fld w 29 6); let src ← SCode.ofCode (fld w 35 6); some (.barw (mhead w) src base (.ofNat 14 (fld w 0 14)))
  | 35 => do let base ← SCode.ofCode (fld w 29 6); some (.barx (mhead w) base (.ofNat 5 (fld w 18 5)) (.ofNat 14 (fld w 0 14)))
  | 40 => do let base ← SCode.ofCode (fld w 29 6); let cnt ← SCode.ofCode (fld w 35 6); some (.commit (clsAt w) cnt base)
  | 41 => do let base ← SCode.ofCode (fld w 29 6); let cnt ← SCode.ofCode (fld w 35 6); some (.decommit (clsAt w) cnt base (flag w 28))
  | 42 => do let base ← SCode.ofCode (fld w 29 6); some (.alloc (mhead w) base (.ofNat 5 (fld w 18 5)))
  | 43 => do let base ← SCode.ofCode (fld w 29 6); let src ← SCode.ofCode (fld w 35 6); some (.free (mhead w) src base)
  | 44 => do let base ← SCode.ofCode (fld w 29 6); let asid ← SCode.ofCode (fld w 35 6); some (.tlbinv (.ofNat 3 (fld w 49 3)) asid base (.ofNat 2 (fld w 27 2)))
  | _ => none

/-- The fields of an X word (R32, R52), by opcode. -/
def fieldsX (w : Nat) : Option Instr :=
  match fld w 58 6 with
  | 0 => some .nopX
  | 1 => if fld w 23 1 = 0 then do let base ← SCode.ofCode (fld w 13 6); some (.mmaScratchpad (tokOf w) (.ofNat 3 (fld w 32 3)) (.ofNat 2 (fld w 30 2)) (.ofNat 6 (fld w 24 6)) base (.ofNat 8 (fld w 5 8)))
    else some (.mmaVector (tokOf w) (.ofNat 3 (fld w 32 3)) (.ofNat 2 (fld w 30 2)) (.ofNat 6 (fld w 24 6)) (.ofNat 10 (fld w 13 10)) (.ofNat 8 (fld w 5 8)))
  | 2 => do let base ← SCode.ofCode (fld w 13 6); some (.mmas (tokOf w) (.ofNat 3 (fld w 32 3)) (.ofNat 2 (fld w 30 2)) (.ofNat 6 (fld w 24 6)) base (.ofNat 8 (fld w 5 8)))
  | 3 => do let base ← SCode.ofCode (fld w 13 6); some (.lde (tokOf w) (.ofNat 2 (fld w 33 2)) (.ofNat 6 (fld w 27 6)) (.ofNat 8 (fld w 19 8)) base)
  | 4 => some (.mzero (toksOf w) (.ofNat 3 (fld w 32 3)))
  | 5 => do let base ← SCode.ofCode (fld w 25 6); some (.msave (tokOf w) (.ofNat 3 (fld w 32 3)) (flag w 31) base (.ofNat 13 (fld w 12 13)))
  | 6 => do let base ← SCode.ofCode (fld w 25 6); some (.mload (tokOf w) (.ofNat 3 (fld w 32 3)) (flag w 31) base (.ofNat 13 (fld w 12 13)))
  | 8 => do let doff ← SCode.ofCode (fld w 17 6); let soff ← SCode.ofCode (fld w 23 6); let desc ← SCode.ofCode (fld w 29 6); some (.copy (tokOf w) desc soff doff)
  | 9 => do let prm ← SCode.ofCode (fld w 5 6); let db ← SCode.ofCode (fld w 11 6); let sb ← SCode.ofCode (fld w 17 6); some (.rlay (tokOf w) (.ofNat 6 (fld w 29 6)) (.ofNat 6 (fld w 23 6)) sb db prm (.ofNat 2 (fld w 3 2)) (flag w 2))
  | 10 => do let doff ← SCode.ofCode (fld w 14 6); let soff ← SCode.ofCode (fld w 20 6); some (.stage (tokOf w) (.ofNat 9 (fld w 26 9)) soff doff)
  | 16 => do let tag ← SCode.ofCode (fld w 23 6); let desc ← SCode.ofCode (fld w 29 6); some (.mgset (tokOf w) desc tag)
  | 17 => do let tag ← SCode.ofCode (fld w 9 6); let cnt ← SCode.ofCode (fld w 15 6); some (.mgpush (tokOf w) (.ofNat 4 (fld w 31 4)) (.ofNat 10 (fld w 21 10)) cnt tag)
  | 18 => do let tsk ← SCode.ofCode (fld w 17 6); let tag ← SCode.ofCode (fld w 23 6); some (.mgfin (tokOf w) (.ofNat 6 (fld w 29 6)) tag tsk (flag w 16))
  | 19 => do let blk ← SCode.ofCode (fld w 29 6); some (.contract (tokOf w) blk)
  | 20 => if fld w 22 1 = 0 then do let arg ← SCode.ofCode (fld w 23 6); let entry ← SCode.ofCode (fld w 29 6); some (.astart (tokOf w) entry arg)
    else some (.astartPost (tokOf w) (.ofNat 4 (fld w 18 4)) (.ofNat 8 (fld w 10 8)))
  | 24 => do let len ← SCode.ofCode (fld w 17 6); let buf ← SCode.ofCode (fld w 23 6); some (.send (tokOf w) (.ofNat 5 (fld w 30 5)) (flag w 29) buf len (.ofNat 8 (fld w 9 8)))
  | 25 => do let len ← SCode.ofCode (fld w 17 6); let buf ← SCode.ofCode (fld w 23 6); some (.recv (tokOf w) (.ofNat 5 (fld w 30 5)) (flag w 29) buf len (.ofNat 8 (fld w 9 8)))
  | 26 => do let cmp ← SCode.ofCode (fld w 12 6); let src ← SCode.ofCode (fld w 18 6); let base ← SCode.ofCode (fld w 24 6); some (.ramo (tokOf w) (.ofNat 4 (fld w 31 4)) (flag w 30) base src cmp (.ofNat 5 (fld w 7 5)))
  | 32 => do let rec ← SCode.ofCode (fld w 29 6); some (.launch (tokOf w) rec)
  | 33 => do let slot ← SCode.ofCode (fld w 23 6); let ent ← SCode.ofCode (fld w 29 6); some (.taskset (tokOf w) ent slot)
  | 34 => do let val ← SCode.ofCode (fld w 29 6); some (.taskdec (tokOf w) val)
  | _ => none

/-- The fields of a Y word (R33, R53), by opcode. -/
def fieldsY (w : Nat) : Option Instr :=
  match fld w 12 4 with
  | 0 => some .nopY
  | 1 => some (.fwait (.ofNat 4 (fld w 8 4)) (.ofNat 8 (fld w 0 8)))
  | 2 => some (.fpost (.ofNat 4 (fld w 8 4)) (flag w 7) (.ofNat 2 (fld w 5 2)) (.ofNat 5 (fld w 0 5)))
  | 3 => do let a ← SCode.ofCode (fld w 0 6); some (.fpostr (.ofNat 4 (fld w 8 4)) a)
  | 4 => some (.kwait (flag w 11) (.ofNat 5 (fld w 0 5)))
  | _ => none

/-- The fields of a K word (R34), by opcode. -/
def fieldsK (w : Nat) : Option Instr :=
  match fld w 58 2 with
  | 0 => do let mask ← SCode.ofCode (fld w 52 6); some (.killScalar (.ofNat 4 (fld w 60 4)) mask)
  | 1 => some (.killImmLo (.ofNat 4 (fld w 60 4)) (.ofNat 32 (fld w 0 32)))
  | 2 => some (.killImmHi (.ofNat 4 (fld w 60 4)) (.ofNat 32 (fld w 0 32)))
  | _ => none

/-- The opcode of a word of a kind. -/
def opcodeOf (kd : Kind) (w : Nat) : Nat :=
  match kd with
  | .s => fld w 26 6 | .v => fld w 57 6 | .f => fld w 27 5 | .m => fld w 58 6 | .x => fld w 58 6 | .y => fld w 12 4
  | .k => fld w 58 2

/-- What a refusal as reserved names: the opcode, or, for a BR with a predicate's condition, which R181 makes an opcode of its own in access
code, 0x120. -/
def formOf (kd : Kind) (w : Nat) : Nat :=
  if kd == .s && fld w 26 6 == 0x20 && fld w 24 1 == 1 && fld w 22 2 != 3 then 0x120 else opcodeOf kd w

/-- The opcodes that the maps of R48-R53 assign. FORM 3 of a K word is a reserved value, not an opcode (R34). -/
def assigned (kd : Kind) (o : Nat) : Bool :=
  match kd with
  | .s => decide (o ≤ 0x17) || (decide (0x20 ≤ o) && decide (o ≤ 0x2F))
  | .v => decide (o ≤ 0x1C) || (decide (0x20 ≤ o) && decide (o ≤ 0x25)) || (decide (0x28 ≤ o) && decide (o ≤ 0x2E))
  | .f => decide (o ≤ 0x09)
  | .m => decide (o ≤ 0x15) || (decide (0x18 ≤ o) && decide (o ≤ 0x1C)) || (decide (0x20 ≤ o) && decide (o ≤ 0x23)) ||
      (decide (0x28 ≤ o) && decide (o ≤ 0x2C))
  | .x => decide (o ≤ 0x06) || (decide (0x08 ≤ o) && decide (o ≤ 0x0A)) || (decide (0x10 ≤ o) && decide (o ≤ 0x14)) ||
      (decide (0x18 ≤ o) && decide (o ≤ 0x1A)) || (decide (0x20 ≤ o) && decide (o ≤ 0x22))
  | .y => decide (o ≤ 4)
  | .k => true

/-- A nonzero OP2 after an OP1 that takes no cascade is an unassigned encoding (R29). -/
def badCascade (kd : Kind) (w : Nat) : Bool :=
  kd == .v && fld w 54 3 != 0 && !(decide (1 ≤ fld w 57 6) && decide (fld w 57 6 ≤ 15))

/-- The instruction whose fields a word of a kind holds, before the checks. -/
def fieldsOf (kd : Kind) (w : Nat) : Option Instr :=
  match kd with
  | .s => fieldsS w | .v => fieldsV w | .f => fieldsF w | .m => fieldsM w | .x => fieldsX w | .y => fieldsY w | .k => fieldsK w

/-- Decode a slot word of a kind: the instruction that it encodes, or the refusal of R45. -/
def decodeWord (kd : Kind) (w : Nat) : Except DecodeError Instr :=
  if assigned kd (opcodeOf kd w) && !badCascade kd w then
    match fieldsOf kd w with
    | some i => if i.wf && encode i == w then .ok i else .error (.reserved (formOf kd w))
    | none => .error (.reserved (formOf kd w))
  else .error .unassigned

/-! The bundle (R21, R22, R25). -/

/-- The slots of a bundle, in the order of their words (R21); K stands in a long-word position. -/
inductive Slot where
  | s0 | s1 | v0 | v1 | v2 | f | m0 | m1 | x | y | k
  deriving DecidableEq, Repr

/-- The kind of word a slot holds. -/
def Slot.kind : Slot → Kind
  | .s0 => .s | .s1 => .s | .v0 => .v | .v1 => .v | .v2 => .v | .f => .f | .m0 => .m | .m1 => .m | .x => .x | .y => .y | .k => .k

/-- The number of a slot in FINFO.SLOT (R391), which is also its order for R44 and R46. -/
def Slot.num : Slot → Nat
  | .s0 => 0 | .s1 => 1 | .v0 => 2 | .v1 => 3 | .v2 => 4 | .f => 5 | .m0 => 6 | .m1 => 7 | .x => 8 | .y => 9 | .k => 10

/-- The bundle header (R25). -/
structure Header where
  present : BitVec 10
  kpos    : BitVec 3
  stop    : Bool
  rep     : BitVec 6
  dbg     : Bool
  clsdef  : BitVec 4
  ports   : BitVec 7
  deriving DecidableEq, Repr

/-- The header of a 32-bit word (R25). -/
def headerOf (w : Nat) : Header :=
  ⟨.ofNat 10 (fld w 0 10), .ofNat 3 (fld w 10 3), flag w 13, .ofNat 6 (fld w 14 6), flag w 20, .ofNat 4 (fld w 21 4),
    .ofNat 7 (fld w 25 7)⟩

/-- The word of a header (R25). -/
def headerWord (h : Header) : Nat :=
  pack [(10, h.present.toNat), (3, h.kpos.toNat), (1, h.stop.toNat), (6, h.rep.toNat), (1, h.dbg.toNat),
    (4, h.clsdef.toNat), (7, h.ports.toNat)]

/-- The slots whose words follow a header, in their order in memory (R21). Where KPOS names a present slot, which is illegal, the slot's own
word stands first (log 28). -/
def slotsOf (h : Header) : List Slot :=
  let at' := fun (n : Nat) (s : Slot) => if h.present.getLsbD n then [s] else []
  let k := fun (n : Nat) => if h.kpos.toNat == n then [Slot.k] else []
  at' 0 .s0 ++ at' 1 .s1 ++ at' 2 .v0 ++ k 1 ++ at' 3 .v1 ++ k 2 ++ at' 4 .v2 ++ k 3 ++ at' 5 .f ++ at' 6 .m0 ++ k 4 ++ at' 7 .m1 ++ k 5 ++
    at' 8 .x ++ k 6 ++ at' 9 .y

/-- Bytes of a kind's word in memory (R22). -/
def Kind.bytes : Kind → Nat
  | .s => 4 | .f => 4 | .y => 4 | .v => 8 | .m => 8 | .x => 8 | .k => 8

/-- The length of a bundle in bytes, from its header (R22). -/
def bundleLength (h : Header) : Nat :=
  let on := fun (l : List Nat) => (l.filter fun n => h.present.getLsbD n).length
  4 + 4 * on [0, 1, 5, 9] + 8 * on [2, 3, 4, 6, 7, 8] + 8 * (if h.kpos.toNat ≠ 0 then 1 else 0)

/-- Little-endian value of bytes (R2). -/
def leNat : List Byte → Nat
  | [] => 0
  | b :: r => b.toNat + 256 * leNat r

/-- The n little-endian bytes of a value (R2). -/
def leBytes : Nat → Nat → List Byte
  | 0, _ => []
  | n + 1, v => BitVec.ofNat 8 v :: leBytes n (v / 256)

/-- A decoded bundle: its header and, for each present slot, the instruction or the refusal. -/
structure Bundle where
  hdr   : Header
  slots : List (Slot × Except DecodeError Instr)
  deriving DecidableEq, Repr

/-- The words of slots, read from the bytes after the header. -/
def wordsOf : List Slot → List Byte → List (Slot × Except DecodeError Instr)
  | [], _ => []
  | s :: r, bs =>
    let n := s.kind.bytes
    (s, if bs.length < n then .error .truncated else decodeWord s.kind (leNat (bs.take n))) :: wordsOf r (bs.drop n)

/-- Decode the bytes of a bundle: the bundle and the bytes that follow it, or truncated. -/
def decodeBundle (bs : List Byte) : Except DecodeError (Bundle × List Byte) :=
  if bs.length < 4 then .error .truncated else
  let h := headerOf (leNat (bs.take 4))
  if bs.length < bundleLength h then .error .truncated else
  .ok (⟨h, wordsOf (slotsOf h) (bs.drop 4)⟩, bs.drop (bundleLength h))

/-- An S opcode from 0x20 to 0x2F (R27). -/
def Instr.isControl (i : Instr) : Bool := i.kind == some .s && decide (0x20 ≤ fld (encode i) 26 6)

/-- The header that holds one instruction alone with a stop, and the number of vector-file ports it declares (R25, R35). -/
def soloHeader (kd : Kind) (ports : Nat) : Header :=
  let p : BitVec 10 := match kd with | .s => 1 | .v => 4 | .f => 32 | .m => 64 | .x => 256 | .y => 512 | .k => 0
  ⟨p, if kd = .k then 1 else 0, true, 0, false, 0, .ofNat 7 ports⟩

/-- The instruction of an opcode-table word (bit 0 the least significant bit of the word). A 64-bit word is tried as V, M,
X and K word, a 32-bit word as S, Y and F word, in this order, and the first that decodes is the answer (log 17). -/
def decodeTableWord (nbits w : Nat) : Option Instr :=
  let tryKinds := fun (ks : List Kind) => ks.findSome? fun kd => (decodeWord kd w).toOption
  if nbits ≤ 32 then tryKinds [.s, .y, .f] else tryKinds [.v, .m, .x, .k]

end Sys2Proof
end

