-- ==== Sys2Proof/Machine/Hash.lean ====
section
/-! DEFINITION. Machine/Hash.lean: SHA3-512 (R423, R425), as FIPS 202 gives it: the permutation Keccak-f[1600] over 25 lanes of 64 bits, lane
(x, y) at 5y + x, in a sponge of 72 bytes with the suffix 01. -/

namespace Sys2Proof.Machine

/-- Lane (x, y) of a state. -/
def keccakLane (a : List W64) (x y : Nat) : W64 := a.getD (5 * (y % 5) + x % 5) 0

/-- The rotation of lane (x, y), at 5y + x. -/
def keccakTurns : List Nat :=
  [0, 1, 62, 28, 27, 36, 44, 6, 55, 20, 3, 10, 43, 25, 39, 41, 45, 15, 21, 8, 18, 2, 61, 56, 14]

/-- The constants of the 24 rounds. -/
def keccakConsts : List W64 :=
  [0x0000000000000001, 0x0000000000008082, 0x800000000000808A, 0x8000000080008000, 0x000000000000808B, 0x0000000080000001,
   0x8000000080008081, 0x8000000000008009, 0x000000000000008A, 0x0000000000000088, 0x0000000080008009, 0x000000008000000A,
   0x000000008000808B, 0x800000000000008B, 0x8000000000008089, 0x8000000000008003, 0x8000000000008002, 0x8000000000000080,
   0x000000000000800A, 0x800000008000000A, 0x8000000080008081, 0x8000000000008080, 0x0000000080000001, 0x8000000080008008]

/-- Every lane takes the parities of two columns. -/
def keccakTheta (a : List W64) : List W64 :=
  let c := (List.range 5).map fun x => (List.range 5).foldl (fun v y => v ^^^ keccakLane a x y) 0
  a.zipIdx.map fun p => p.1 ^^^ c.getD ((p.2 + 4) % 5) 0 ^^^ (c.getD ((p.2 + 1) % 5) 0).rotateLeft 1

/-- The lanes turn, and lane (x, y) goes to (y, 2x + 3y). -/
def keccakPi (a : List W64) : List W64 :=
  (List.range 25).map fun i => let x := (i % 5 + 3 * (i / 5)) % 5; let y := i % 5
    (keccakLane a x y).rotateLeft (keccakTurns.getD (5 * y + x) 0)

/-- Every lane meets the next two of its row. -/
def keccakChi (a : List W64) : List W64 :=
  (List.range 25).map fun i => keccakLane a (i % 5) (i / 5) ^^^ (~~~keccakLane a (i % 5 + 1) (i / 5) &&& keccakLane a (i % 5 + 2) (i / 5))

/-- One round. -/
def keccakRound (a : List W64) (k : W64) : List W64 :=
  match keccakChi (keccakPi (keccakTheta a)) with
  | [] => []
  | x :: r => (x ^^^ k) :: r

/-- The permutation. -/
def keccak (a : List W64) : List W64 := keccakConsts.foldl keccakRound a

/-- Absorb blocks of 72 bytes, the first ones of a list. -/
def absorb : Nat → List Byte → List W64 → List W64
  | 0, _, a => a
  | n + 1, b, a => absorb n (b.drop 72) (keccak (a.zipIdx.map fun p => p.1 ^^^ .ofNat 64 (leNat (((b.take 72).drop (8 * p.2)).take 8))))

/-- The padding of a message of n bytes. -/
def padOf (n : Nat) : List Byte := if n % 72 = 71 then [0x86] else (6 : Byte) :: List.replicate (70 - n % 72) 0 ++ [0x80]

/-- The SHA3-512 digest of bytes, little-endian. -/
def sha3 (b : List Byte) : BitVec 512 :=
  let a := absorb (b.length / 72 + 1) (b ++ padOf b.length) (List.replicate 25 0)
  .ofNat 512 ((List.range 8).foldl (fun v j => v + (a.getD j 0).toNat * 2 ^ (64 * j)) 0)

end Sys2Proof.Machine
end

