-- ==== Sys2Proof/Machine/State.lean ====
section
/-! DEFINITION. Machine/State.lean: the state of the device as plain data, the reasons a step can stop, and the state
after reset. Every structure and field cites the rule that gives it; the fields that are the model's own say so. -/

namespace Sys2Proof.Machine

/-- A map from numbers to values. An unlisted number has the default that the map's readers name; a write keeps the keys rising, and lists no
entry equal to that default. -/
abbrev FMap (α : Type) := List (Nat × α)

/-- Memory: (key, byte) cells in canonical form. The keys cover device memory, the scratchpads, host memory and the memory
of peer devices (log 14); an unlisted byte reads as zero (log 4). -/
abbrev Memory := List Host.Cell

/-- A tile register: half-row idx (row idx[6:0], columns 64·idx[7] on, R96), each 2,048 bits. -/
abbrev Tile := FMap Vec

/-- A cause raised by an agent, with what the trap records (R391): the operands of takeTrap. -/
structure Trap where
  cause : Nat
  slot  : Nat := 15
  sub   : Nat := 0
  faddr : W64 := 0
  wr    : Bool := false
  tok   : Option (BitVec 5) := none
  imm   : BitVec 16 := 0
  /-- The pool of an empty-pool cause, for its service record (R417). -/
  pool  : Nat := 0
  deriving DecidableEq, Repr

/-- What an access needs of its page; `home` is a read that its L1 line does not complete (R153), `ahead` that of a CPREF, which never faults
(R155), `slot` that of a VLDC (R152). -/
inductive Need where
  | read | home | write | both | exec | ahead | slot
  deriving DecidableEq, Repr

/-- The blocking causes of R193. -/
inductive Blk where
  /-- An engine command queue is full. -/
  | queue (q : Nat)
  /-- SEND to a link with fewer free credits than its flits (R412). -/
  | credits (link n : Nat)
  /-- RECV on an empty receive queue. -/
  | recv (link : Nat)
  /-- QPOP on an empty access queue, or QPUSH to a full one. -/
  | aq (q : Nat) (push : Bool)
  /-- FWAIT. -/
  | flag (f : Nat) (n : Nat)
  /-- KWAIT. -/
  | token (k : Nat)
  /-- BARW in a slot: the granule's key and the generation captured at the block. -/
  | bar (slot key : Nat) (gen : BitVec 32)
  /-- Data late at its landing cycle. -/
  | late
  /-- An instruction that performs at its issue, and must follow accesses that other units have still to perform (log 35). -/
  | order (ids : List Nat)
  /-- An access of a slot awaiting translation. -/
  | trans (slot va : Nat) (need : Need)
  /-- An access program awaiting the service of its fault (R302). -/
  | walk
  /-- The special-function input queue is full. -/
  | sfu
  /-- The TASKEND wait. -/
  | taskend
  /-- A quantum block: over at once. -/
  | quantum
  /-- A KWAIT of CONTRACT's microcode (R324). -/
  | micro
  deriving DecidableEq, Repr

/-- How the attempt to issue a slot stands (the model's own, log 6). -/
inductive Status where
  | ok
  | trapped (t : Trap)
  | blocked (b : Blk)
  | stalled
  deriving DecidableEq, Repr

/-- The destination of an in-flight result (R199, R337). -/
inductive Dest where
  /-- A scalar: s0 takes the queue entry only (R8). -/
  | scalar (n : Nat)
  /-- A scalar instance: 64-bit lane l of vN (R333). -/
  | lane (n l : Nat)
  /-- A vector register; queue is false for a tagged result (R337). -/
  | vector (n : Nat) (queue : Bool)
  /-- A predicate (R59). -/
  | pred (n : Nat)
  /-- A predicate instance in the spill area, by its key (R334). -/
  | predAt (key : Nat)
  /-- Half-row idx of a tile (R96); the landing clears the busy bit (R97). -/
  | tile (n idx : Nat)
  /-- Half-row idx of a tile instance, by its key (R334). -/
  | tileAt (n key idx : Nat)
  deriving DecidableEq, Repr

/-- An in-flight result record (R199). A landing writes `val` under `mask` (R81, R151). -/
structure Rec where
  id    : Nat
  count : Nat
  dest  : Dest
  mask  : Vec := BitVec.allOnes 2048
  val   : Vec
  flags : BitVec 5 := 0
  /-- False while the data has not arrived (R149, R99, R129). -/
  ready : Bool := true
  deriving DecidableEq, Repr

/-- A hold latch: the value read and the tagged mark (R37, R337). -/
structure Hold where
  val    : Vec
  tagged : Bool
  deriving DecidableEq, Repr

/-- A live sticky operation: its word, the latched base and class, and the count i (R38, R39). -/
structure Sticky where
  instr : Instr
  base  : W64
  cls   : BitVec 4
  count : Nat
  deriving DecidableEq, Repr

/-- A loop level (R185). -/
structure Loop where
  live  : Bool
  count : W64
  start : W64
  deriving DecidableEq, Repr

/-- A lift level (R329): extent, register stride, return address, the mask in force at the LIFT. -/
structure LiftLevel where
  extent : Nat
  stride : Nat
  ret    : W64
  mask   : List Nat
  deriving DecidableEq, Repr

/-- A mask-stack entry (R343). -/
structure MaskEntry where
  level : Nat
  saved : List Nat
  pend  : List Nat
  tgt   : W64
  st    : Bool
  deriving DecidableEq, Repr

/-- The lift state (R329). Masks are lists of flat instance indexes, rising (log 32). -/
structure Lift where
  levels : List LiftLevel := []
  mask   : List Nat := [0]
  stack  : List MaskEntry := []
  tagS   : FMap (BitVec 3) := []
  tagV   : FMap (BitVec 3) := []
  tagP   : FMap (BitVec 3) := []
  tagM   : FMap (BitVec 3) := []
  /-- Predicate instances of the spill area, by register, tag and flat index over the tag (R334). -/
  predAt : FMap Pred := []
  /-- Tile instances of the spill area (R334). -/
  tileAt : FMap Tile := []
  deriving DecidableEq, Repr

/-- The microcode of a CONTRACT that a context runs (R324): its command, the block, the digest of the image that runs to its end (R424), the
bundles that remain, the token of its MGSET; and where the CONTRACT stands and the program goes on. -/
structure Micro where
  id    : Nat
  blk   : List Byte
  code  : Nat := 0
  left  : Nat
  mg    : Option Nat := none
  here  : W64
  next  : W64
  ridx  : Nat
  iflat : Nat
  deriving DecidableEq, Repr

/-- The trap part of the context image (R392). -/
structure Flow where
  records : List Rec := []
  /-- qs0 first (R56). -/
  qs      : List W64 := []
  /-- qv0 first (R56). -/
  qv      : List Vec := []
  holds   : FMap (Option Hold) := []
  sticky  : FMap (Option Sticky) := []
  loops   : FMap Loop := []
  lift    : Lift := {}
  /-- Progress counts of VSPILL and VFILL in M0 and M1 (R69). -/
  g0      : Nat := 0
  g1      : Nat := 0
  /-- Tag changes of the current bundle, applied after its last issue (R336): (kind, register, tag). -/
  retag   : List (Nat × Nat × BitVec 3) := []
  /-- Outcomes of a tagged control instruction's instances so far (R342): taken, target. -/
  votes   : List (Bool × W64) := []
  /-- A debug-bit break was taken: the bundle issues once without breaking (R393). -/
  brk     : Bool := false
  /-- A trap inside the microcode of a CONTRACT returns to it (R324). -/
  micro   : Option Micro := none
  /-- The registers that the VFILLs of the bundle in issue write, by number: what each held before, and what its fill brings (R68). -/
  prefill : FMap (Option (Vec × Vec)) := []
  /-- The tiles that a DECOMMIT with `.unmap` had done when it faulted, by slot, with its bundle: their replay has no effect (R359). -/
  unmapped : FMap (Option (W64 × Nat)) := []
  /-- The stop of a step whose cycle has entered a handler comes at the return: 1 at once, 2 once drained (R403). -/
  step    : Nat := 0
  deriving DecidableEq, Repr

/-- The named registers of a context (R54). -/
structure Regs where
  s  : FMap W64 := []
  v  : FMap Vec := []
  p  : FMap Pred := []
  th : W32 := 0
  /-- Kill marks: 0 live, 1 killed, 2 killed and restored since (R60-R62). -/
  killed : FMap Nat := []
  /-- The stochastic rounding generator (R113). -/
  gen : W32 := 0
  deriving DecidableEq, Repr

/-- The control registers of a context (R390, R391). -/
structure Ctl where
  fflags   : BitVec 5 := 0
  priv     : Bool := false
  poisoned : Bool := false
  ridx     : BitVec 6 := 0
  cause    : BitVec 8 := 0
  epc      : W64 := 0
  faddr    : W64 := 0
  fslot    : BitVec 4 := 0
  fsub     : BitVec 4 := 0
  ftok     : Bool := false
  ftokn    : BitVec 5 := 0
  fwr      : Bool := false
  fnest    : Bool := false
  fimm     : BitVec 16 := 0
  asid     : BitVec 16 := 0
  prio     : BitVec 3 := 0
  dbgctl   : BitVec 6 := 0
  dbgstop  : W64 := 0
  ccyc     : W64 := 0
  scratch0 : W64 := 0
  scratch1 : W64 := 0
  lsbase   : BitVec 22 := 0
  lssize   : BitVec 12 := 0
  sib      : BitVec 10 := 0
  iidx     : BitVec 16 := 0
  /-- TOKLOG: errors counted, the last cause, register-write mark and token (R286). -/
  ecnt     : BitVec 16 := 0
  lastc    : BitVec 8 := 0
  lastr    : Bool := false
  lastk    : BitVec 5 := 0
  /-- FENCESTAT.FALLBACK (R173). -/
  fallback : BitVec 32 := 0
  /-- MSPIDLE (R223). -/
  msteps   : BitVec 32 := 0
  midle    : BitVec 32 := 0
  /-- TASKARG0-TASKARG5 (R375). -/
  args     : FMap W64 := []
  /-- TASKINFO (R375). -/
  runs     : BitVec 16 := 0
  stg      : BitVec 3 := 0
  deriving DecidableEq, Repr

/-- A token's instance (R281): commands outstanding, error status, the number of the instance. -/
structure Token where
  pend  : Nat := 0
  err   : Bool := false
  cause : BitVec 8 := 0
  eaddr : W64 := 0
  inst  : Nat := 0
  /-- Issue order of the first erroneous command (R340). -/
  errAt : Nat := 0
  deriving DecidableEq, Repr

/-- How the bytes of a load make its result: one number of n bytes, extended with its sign or not (R150), or bytes at the offsets of a
vector (R151, R310). -/
inductive Shape where
  | scalar (sx : Bool) (n : Nat)
  | vector (offs : List Nat)
  deriving DecidableEq, Repr

/-- What an access other than a plain store does when it performs. Keys are (virtual address, key), where no key is a byte of an
uncommitted tile. -/
inductive Act where
  /-- It performs at another unit: a VLDC at its slot, an arrival at a barrier bank, a post, a free. -/
  | away
  /-- A load into a record, at the home or not, with its last-use-of-row bit (R132); `step` is the stride in bytes of a sticky one, `starts`
  where the elements of a GATH begin (R141). -/
  | load (rec : Nat) (sync lur : Bool) (shape : Shape) (step : Option Int) (starts : List Nat) (keys : List (Nat × Option Nat))
  /-- An atomic operation of n bytes, whose old value a record takes (R154). -/
  | amo (rec aop n x c : Nat) (keys : List (Nat × Option Nat))
  /-- An element of SCAT.ADD (R311). -/
  | add (fadd : Bool) (n v : Nat) (keys : List (Nat × Option Nat))
  /-- CFLUSH or CINV (R155); `sys` at scope `.sys`. -/
  | line (sys : Bool) (va key : Nat)
  /-- CPREF (R155). -/
  | fetch (va key : Nat)
  deriving DecidableEq, Repr

/-- A plain store, another access, or a fence of an agent that has not performed (R158, R169, R171), in program order. Cells are
(virtual address, key, byte). A post has no class (R157); `load` marks a load or a read-modify-write, for R161. -/
inductive Pend where
  | store (id : Nat) (cls : BitVec 4) (scope : Nat) (rel : Bool) (asid : BitVec 16) (cells : List (Nat × Nat × Byte))
  | access (id : Nat) (cls : Option (BitVec 4)) (scope : Nat) (load : Bool) (asid : BitVec 16) (cells : List (Nat × Nat × Byte)) (act : Act)
  | fenceC (scope : Nat) (mask : BitVec 16)
  | fenceR (scope : Nat) (ranges : List (Nat × Nat)) (counter : Bool)
  deriving DecidableEq, Repr

/-- The order state of an agent (R161-R172). -/
structure Order where
  pend : List Pend := []
  /-- The stores of which a part has performed (R165, R177). -/
  split : List Nat := []
  deriving DecidableEq, Repr

/-- The state a context is in (R192), with the waits of the scheduler (R374). -/
inductive Mode where
  | empty
  /-- A task has been dispatched and its image is not filled yet (R374). -/
  | starting
  | ready
  | active
  | blocked (b : Blk)
  | stopped
  | saving
  | saved
  deriving DecidableEq, Repr

/-- A queue entry (R372): its eight words, the place in the order of enqueuing, how often it has been rerun, the task that made
it (R380), and, for a task that an overrun saved, its image (R379). -/
structure QEntry where
  words : List W64 := []
  order : Nat := 0
  runs  : Nat := 0
  maker : Option Nat := none
  image : Option Nat := none
  /-- Where the entry stands in the storage of its queue (R370, log 41). -/
  place : Nat := 0
  deriving DecidableEq, Repr

/-- The task of a context (R188, R375, R379). -/
structure Task where
  /-- The number of the task (the model's own), by which R380 tells what it produced. -/
  tid    : Nat := 0
  wid    : W64 := 0
  launch : Nat := 0
  stage  : Nat := 0
  /-- The queue entry, kept for a rerun (R380). -/
  entry  : QEntry := {}
  /-- The fills of its start that remain (R374, R438): 4 for the register image, 2 for the table, 1 for the scratchpad image. -/
  fills  : Nat := 0
  /-- Core cycles since the start, counted against the budget (R379). -/
  used   : Nat := 0
  /-- TASKEND has been issued (R186). -/
  ending : Bool := false
  /-- TASKCTL.RERUN has been written (R380). -/
  rerun  : Bool := false
  deriving DecidableEq, Repr

/-- What a launch allots to a context, and its stage's tables (R368, R304, R212, R274). -/
structure Allot where
  window : Nat := 0
  tiles  : BitVec 8 := 0
  latches : BitVec 4 := 0
  queues : BitVec 4 := 0
  stages : BitVec 16 := 0
  launch : Option Nat := none
  deriving DecidableEq, Repr

/-- The copy schedule of a task (R274, R275). -/
structure Sched where
  base  : W64 := 0
  slen  : Nat := 0
  scnt  : Nat := 0
  tbv   : Bool := false
  /-- The staging bank held, 0-15 of the cluster. -/
  tbank : Nat := 0
  deriving DecidableEq, Repr

/-- A hardware context, or an access processor (agent 2,048 + core). -/
structure Ctx where
  mode   : Mode := .empty
  pc     : W64 := 0
  regs   : Regs := {}
  flow   : Flow := {}
  /-- The trap part saved by a trap that went to the handler (R392). -/
  saved  : Flow := {}
  ctl    : Ctl := {}
  toks   : FMap Token := []
  /-- Instances that a later production has replaced and whose commands still run, by number (R282). -/
  past   : FMap Token := []
  flags  : FMap W32 := []
  /-- Tensor-identifier entries, 128 bytes each (R212). -/
  tis    : FMap (BitVec 1024) := []
  order  : Order := {}
  task   : Task := {}
  allot  : Allot := {}
  sched  : Sched := {}
  /-- The repeat index and the flat instance index of the next issue (R46, R331). -/
  ridx     : Nat := 0
  iflat    : Nat := 0
  /-- Registers named as destinations by earlier issues of the group (R43); the current bundle's own are in groupNew. -/
  group    : List Nat := []
  groupNew : List Nat := []
  /-- Context cycles since the context last became active (R196). -/
  quantum : Nat := 0
  /-- Core cycles ready without issuing (R195). -/
  waiting : Nat := 0
  /-- The granules and values that the BARWs of the bundle captured when it first met their blocks, by slot (R280). -/
  barw   : FMap (Option (Nat × BitVec 32)) := []
  /-- The bundle in issue is past the first cycle of its VSPILL or VFILL moves (R67, R69). -/
  moving : Bool := false
  /-- The addresses from which the bundle's VSPILLs and VFILLs move, formed before their first moves, by slot (R68). -/
  moveAt : FMap (Option W64) := []
  /-- A cause decided when a wait ended, which the next evaluation takes (R23); the fault of an access program that waits for service
  (R302), or that the preload of a scratchpad image met (R438). -/
  answer : Option Trap := none
  /-- The bundle whose further issues are to come: one fetch serves them all (R179). -/
  whole  : Option Bundle := none
  /-- Fetch lines read ahead, 512 bits each, by line number (R174, R177). -/
  lines  : List (Nat × BitVec 512) := []
  /-- What waits for the records to land: 1 ERET (R393), 2 a step to drain (R403), 3 the end of the task (R186, R380). Of an access program
  that waits for service: 4 its starter's handler runs, 5 the host has a record (R302, log 22). -/
  hold   : Nat := 0
  /-- The directory state is saved by PREEMPT and not resumed (R400). -/
  parked : Bool := false
  /-- DBGCTL that an ARMDBG left for the next task start (R400). -/
  armed  : Option (BitVec 6) := none
  /-- The directory state (R397): 0 empty, 1 live, 2 saving, 3 saved, 4 stopped. -/
  dir    : BitVec 3 := 0
  /-- The image area went with a saved task; the next task takes a fresh one (R398). -/
  noArea : Bool := false
  /-- The pre-emption asked of the context, 0x31 or 0x32 (R389, R399), or the cause it was saved for. -/
  saver  : Nat := 0
  /-- The host's answer to the context's service record, which waits for the save to complete (R399, R417). -/
  answered : Option Nat := none
  /-- CCYC at the last stop for DBGSTOP: the count reaches a value once (R402). -/
  stopAt : Option W64 := none
  deriving DecidableEq, Repr

/-- How a consumed token's instance stands for a command (R283, R284). -/
inductive Dep where
  | wait (inst : Nat)
  | done
  | err (cause : BitVec 8) (eaddr : W64)
  deriving DecidableEq, Repr

/-- An edge latch (R209). -/
structure Latch where
  fmt    : Nat := 0
  recf   : Option Nat := none
  kl     : Nat := 0
  scx    : Int := 0
  /-- Row k of B, 128 elements of 32 bits at most (the bits of the element's format). -/
  rows   : FMap (BitVec 4096) := []
  /-- UE8M8 scale of column j and row group g, at 128·g + j. -/
  scales : FMap (BitVec 16) := []
  deriving DecidableEq, Repr

/-- A queued or started engine command with its captured operands (R206, R239, R269, R300, R384). -/
structure Cmd where
  id    : Nat
  agent : Nat
  op    : Instr
  /-- Captured scalar values, in the order of the instruction's operands. -/
  caps  : List W64 := []
  /-- Captured vector values. -/
  vecs  : List Vec := []
  /-- Captured governing predicate. -/
  pred  : Pred := BitVec.allOnes 256
  /-- The physical destination register of a result (R332). -/
  dst   : Nat := 0
  /-- The captured tensor-identifier entry, or the threshold. -/
  ti    : BitVec 1024 := 0
  aux   : Nat := 0
  asid  : BitVec 16 := 0
  out   : Option (Nat × Nat) := none
  deps  : List Dep := []
  started : Bool := false
  /-- Accesses that a fence orders before the command (R165). -/
  waits : List Nat := []
  /-- Bundle address, for trace records (R406). -/
  pc    : W64 := 0
  /-- Of a product: the latch as it was read at the start (R210), or as a pre-emption saved it, and the next k-group (R225). -/
  latch : Option Latch := none
  group : Nat := 0
  /-- Array cycles charged to the command, by class (R228). -/
  cycles : FMap Nat := []
  /-- A tree command whose access has been performed and whose token has still to complete (R240, R256). -/
  performed : Bool := false
  /-- Of a tree command: its place in the order of starts; once it stands in the arrival queues of its homes, its place in the order of
  arrivals, and the keys of the directories of its root blocks (R239, R254). -/
  sent    : Nat := 0
  arrived : Option Nat := none
  roots   : List Nat := []
  deriving DecidableEq, Repr

/-- A held translation (R354): ASID, page base and size, the leaf. -/
structure Tr where
  asid : BitVec 16
  base : Nat
  bits : Nat
  leaf : W64
  deriving DecidableEq, Repr

/-- A staged task (R378): its launch, stage and entry, the staging bank filled for it, and the fault of the fill, raised when it starts
(R438). -/
structure Staged where
  launch : Nat
  stage  : Nat
  entry  : QEntry
  bank   : Option Nat
  fault  : Option (Nat × W64)
  deriving DecidableEq, Repr

/-- A line of the instruction cache (R174): its tag, the physical line that its fill registered, and when (R176). -/
structure CodeLine where
  asid   : BitVec 16
  line   : Nat
  key    : Nat
  newest : Nat
  deriving DecidableEq, Repr

/-- A loop body in the loop buffer (R178): its context, where it stands, its bytes and bundles, and the physical lines that it was taken from
(R176). -/
structure Body where
  agent : Nat
  start : W64
  size  : Nat
  count : Nat
  keys  : List Nat
  deriving DecidableEq, Repr

/-- A core (R14, R192). -/
structure Core where
  active  : Option Nat := none
  /-- The context that was active last (R195). -/
  last    : Nat := 0
  cycle   : Nat := 0
  tiles   : FMap Tile := []
  busy    : BitVec 8 := 0
  latches : FMap Latch := []
  cmds    : List Cmd := []
  /-- Access queues (R304), the head first. -/
  aq      : FMap (List Vec) := []
  /-- The special-function unit: record ids with their agents waiting, and the cycle of the last take (R99). -/
  sfuq    : List (Nat × Nat) := []
  sfuLast : Option Nat := none
  /-- Late results under way: agent, record, the cycle at which the result is ready (R99). -/
  sfuPipe : List (Nat × Nat × Nat) := []
  tlb     : List Tr := []
  /-- Range counters taken (R172). -/
  counters : Nat := 0
  /-- The access program: the context and the id of its ASTART command (R299, R300). -/
  access  : Option (Nat × Nat) := none
  inReset : Bool := false
  gated   : Bool := false
  /-- ACYCC, ACYCD, ACYCW, ACYCA, ACYCN (R228). -/
  acyc    : FMap W64 := []
  /-- The staged task (R378). -/
  staged  : Option Staged := none
  /-- The instruction cache, the most recently used line first (R174). -/
  icache  : List CodeLine := []
  /-- The loop buffer, the most recently used body first (R178). -/
  bodies  : List Body := []
  deriving DecidableEq, Repr

/-- An L1 line (R137, R138, R141): the copy of one line, its permissions, the registered bytes, the range entries that its registrations
hold at the home slice, and when the newest was made. -/
structure L1Line where
  asid  : BitVec 16
  vline : Nat
  key   : Nat
  r     : Bool
  w     : Bool
  mask  : BitVec 128
  data  : BitVec 1024
  entries : Nat
  newest  : Nat
  deriving DecidableEq, Repr

/-- A Madder session (R314-R321). -/
structure Session where
  opened : Bool := false
  tag    : BitVec 16 := 0
  owner  : Nat := 0
  /-- The ASID under which its memory is accessed: that of the MGSET. -/
  asid   : BitVec 16 := 0
  desc   : List Byte := []
  /-- The held entries: row, column, stream, value. -/
  buffer : List (Nat × Nat × Nat × Nat) := []
  /-- Where the runs start in the spill area, in run order. -/
  runs   : List Nat := []
  /-- End of the last run that the Madder wrote, and the runs that it wrote (R321). -/
  ends   : Nat := 0
  wrote  : Nat := 0
  drop   : Nat := 0
  failed : Option (BitVec 8) := none
  faddr  : W64 := 0
  /-- The MGFIN that waits for the host: its core and command (R320). -/
  fin    : Option (Nat × Nat) := none
  deriving DecidableEq, Repr

/-- A cluster's trace unit (R405). -/
structure Trace where
  base : BitVec 34 := 0
  log2 : BitVec 5 := 12
  drop : BitVec 32 := 0
  mask : BitVec 16 := 0
  wrap : Bool := false
  opened : Bool := false
  ptr  : W64 := 0
  /-- Records that the unit has still to write (R407), the oldest first: type, sub, context, address, data, time. -/
  pend : List (Nat × Nat × Nat × W64 × W64 × Nat) := []
  deriving DecidableEq, Repr

/-- A cluster (R13-R17). -/
structure Cluster where
  /-- L1 lines, the most recently used first (R139). -/
  l1    : List L1Line := []
  merge : Session := {}
  /-- Group entries (R191): (launch, key). -/
  groups : List (Nat × W64) := []
  /-- Scratchpad banks 0-15 (2·core + bank): mode + 4·launch; 0 is unused (R261). -/
  banks  : FMap Nat := []
  /-- Agents that hold a staging bank, by bank (R262). -/
  holders : FMap (Option Nat) := []
  trace : Trace := {}
  /-- The scratchpad banks accessed in this core cycle (R260). -/
  met   : List Nat := []
  deriving DecidableEq, Repr

/-- A request of open traffic that waits in a channel (R130, R131): its activity, when it was made, the 256-byte block, whether its row is
precharged after it (R132), and, for a write-back, the line that L2 writes (R144). One that L2 makes only where it does not hold the line names
the free value that says so (log 12). -/
structure Open where
  act  : Nat
  born : Nat
  pa   : Nat
  lur  : Bool := false
  line : Option Nat := none
  pick : Option Nat := none
  deriving DecidableEq, Repr

/-- A memory channel's calendar (R124-R136). -/
structure Channel where
  dormant : Bool := false
  lend    : Bool := false
  /-- Lanes lent to the neighbour once the handshake is complete (R136). -/
  lent    : Bool := false
  shaking : Bool := false
  /-- The time by which the handshake is complete (R136). -/
  shakeBy : Nat := 0
  /-- Budgets by activity; one that is not listed is 1,000, no limit (R131, log 3). -/
  budgets : FMap Nat := []
  /-- Slot entries of a committed map: 0 as in the default map, 1 open, owner + 2. -/
  slots   : FMap Nat := []
  next    : Option (Bool × Bool × FMap Nat × FMap Nat) := none
  /-- Postponement counts by bank (R133). -/
  counts  : FMap Nat := []
  /-- Slots used in this period by activity (R131). -/
  used    : FMap Nat := []
  /-- Bank reserved for refresh in this rotation, and the first slot (R133, R134). -/
  refresh : Option (Nat × Nat) := some (0, 0)
  /-- Banks that hold a row open for open traffic (R132). -/
  rows    : List Nat := []
  /-- VLDC requests, the oldest first: time of issue, agent, record, address (R129). -/
  reqs    : List (Nat × Nat × Nat × Nat) := []
  /-- What the slots have read and that has not arrived: when it does, the record, the value (R128). -/
  due     : List (Nat × Nat × Vec) := []
  /-- Open traffic that waits. -/
  opens   : List Open := []
  deriving DecidableEq, Repr

/-- What the slice that holds a line counts of its use, and where it has moved (R145): the plain accesses of this window by cluster, the cluster
that has had the majority (number + 1) and in how many windows, the slice to which the line has moved. -/
structure Use where
  by'   : FMap Nat := []
  major : Nat := 0
  run   : Nat := 0
  away  : Option Nat := none
  deriving DecidableEq, Repr

/-- A stage of a launch: its descriptor and its queues (R370, R372, R376). -/
structure Stage where
  desc    : List Byte := []
  queue   : List QEntry := []
  reruns  : List QEntry := []
  /-- Throttled by its NEXT stage (R373). -/
  throttled : Bool := false
  /-- The lines of the queue's storage that L2 holds (R370). -/
  held : List Nat := []
  deriving DecidableEq, Repr

/-- A launch (R366-R376). -/
structure Launch where
  id      : Nat := 0
  /-- The record's address and the ASID under which it was submitted (R383, R385). -/
  recAddr : W64 := 0
  asid    : BitVec 16 := 0
  hdr     : List Byte := []
  /-- The words of the context map that are not zero, by context (R368). -/
  cmap    : FMap Nat := []
  admitted : Bool := false
  stages  : List Stage := []
  /-- Who submitted it: none for the ring, else the LAUNCH command (core, id); the DONE address of a ring entry. -/
  cmd     : Option (Nat × Nat) := none
  done    : W64 := 0
  /-- A ring entry whose trailing bytes are not zero (R383). -/
  bad     : Bool := false
  deriving DecidableEq, Repr

/-- A task slot (R377): FREE when neither armed nor ready. -/
structure TSlot where
  armed   : Bool := false
  ready   : Bool := false
  counter : BitVec 32 := 0
  entry   : List W64 := []
  launch  : Nat := 0
  /-- The order in which slots reached 0, and the task whose command brought it there. -/
  order   : Nat := 0
  maker   : Option Nat := none
  deriving DecidableEq, Repr

/-- A fabric link (R408, R412). -/
structure Link where
  up      : Bool := true
  credits : Nat := 2048
  /-- Arrived messages, the oldest first: tag, the mark of an error, bytes. -/
  rx      : List (BitVec 8 × Bool × List Byte) := []
  /-- Messages in the peer's receive queue. -/
  sent    : List (BitVec 8 × Bool × List Byte) := []
  deriving DecidableEq, Repr

/-- Signals on their way to another unit (R279, R296, R377, R416). The pending accesses named come first (R164); `own` is the signal's own
entry among those of the agent that issued it, by which its refusal is logged too (R294). -/
inductive Signal where
  /-- A post: whether a refusal is logged, the target agent, the flag, the count. -/
  | flag (waits : List Nat) (own : Option Nat) (log : Bool) (target f n : Nat)
  /-- An arrival of a BARA: the granule, 0 once it has been retired under way (R280), the units, the record that takes the old generation. -/
  | barrier (waits : List Nat) (own : Option Nat) (key units : Nat) (rec : Nat)
  /-- A decrement by a TASKDEC command. -/
  | slot (waits : List Nat) (core cmd : Nat) (slot n : Nat)
  /-- A packet to another device: its number, the value and the flag, of an FPOSTR or of a TASKDEC command. -/
  | remote (waits : List Nat) (own : Option Nat) (dev : Nat) (value : W64) (f : Nat) (cmd : Option (Nat × Nat))
  /-- A TLBINV at `.sys` on its way to another device (R365, R416). -/
  | inval (own : Option Nat) (dev : Nat)
  deriving DecidableEq, Repr

/-- A free of a heap block on its way (R363). -/
structure FreeReq where
  waits : List Nat
  /-- The free's own entry among the pending accesses of its agent. -/
  own   : Nat
  agent : Nat
  asid  : BitVec 16
  /-- The descriptor and the block: virtual address and the keys of the bytes that the free writes. -/
  descVA : W64
  desc  : List Nat
  blockVA : W64
  block : List Nat
  deriving DecidableEq, Repr

/-- A service record (R417): its mailbox index, the agent that waits for its answer, and its contents. An access program's has `program` set;
one that has still to be written has `waits` set, and follows the accesses of its agent that had not performed when it was posted. -/
structure Service where
  index   : Nat
  agent   : Nat
  program : Bool
  waits   : Bool
  cause   : Nat
  faddr   : W64
  finfo   : W64
  arg     : W64
  follows : List Nat
  deriving DecidableEq, Repr

/-- The device part (R121, R352-R357, R382, R397, R408-R426). -/
structure Device where
  ptbase  : BitVec 34 := 0
  svcmode : BitVec 4 := 0
  /-- TVEC, bits [63:2] in place: one for the device (R391, R392; log 21). -/
  tvec    : W64 := 0
  poolbase : BitVec 41 := 0
  imgpool : BitVec 41 := 0
  cdir    : BitVec 32 := 0
  caltbase : BitVec 39 := 0
  calerr  : Bool := false
  calhost : Bool := false
  calbusy : Bool := false
  /-- The commit in progress has read its table (R127). -/
  calread : Bool := false
  rot     : Nat := 0
  phase   : Nat := 0
  /-- What the core cycles have run past PHASE, in units of 1/(1000 + 50·STEP) ns (R19, R123). -/
  frac    : Nat := 0
  /-- The nanoseconds of the budget period that have passed (R131). -/
  period  : Nat := 0
  channels : FMap Channel := []
  /-- When the commit in progress was written (R136). -/
  calat   : Nat := 0
  /-- The use of lines in L2 (R145). -/
  uses    : FMap Use := []
  lqbase  : BitVec 34 := 0
  lqlog2  : BitVec 3 := 0
  lqhead  : BitVec 7 := 0
  lqtail  : BitVec 7 := 0
  launches : List Launch := []
  nextLaunch : Nat := 1
  slots   : FMap TSlot := []
  links   : FMap Link := []
  routes  : FMap Nat := []
  devno   : BitVec 18 := 0
  mbox    : W64 := 0
  /-- Mailbox records that are not answered, or have still to be written (R417). -/
  services : List Service := []
  seq     : BitVec 32 := 0
  ctxbusy : Bool := false
  /-- The context whose STOP by CTXCMD has not been raised (R400). -/
  ctxstop : Option Nat := none
  ctxres  : BitVec 3 := 0
  /-- The management command in progress (R426): whether it is LOAD, and its block. -/
  mgmt    : Option (Bool × Nat) := none
  /-- Interrupt messages that the part has sent to the host (R417, R426). -/
  irqs    : Nat := 0
  /-- The steps of bring-up before reduced service that are still to come (R419): 2 with the check of the boot firmware, 1 the loads. -/
  boot    : Nat := 0
  /-- Full service waits for the launches that run (R421). -/
  switching : Bool := false
  watts   : BitVec 16 := 0
  reduced : Bool := true
  clock   : BitVec 4 := 0
  /-- Firmware images: running, and minimum version by kind (R423). -/
  firmware : FMap Nat := []
  microcode : Bool := false
  signals : List Signal := []
  frees   : List FreeReq := []
  deriving DecidableEq, Repr

/-- What a saved context has beside its record (R397-R399): its core's allotted tiles and latches, its commands, its queues and its access
program (R303). -/
structure Image where
  core    : Nat := 0
  tiles   : FMap Tile := []
  latches : FMap Latch := []
  cmds    : List Cmd := []
  aq      : FMap (List Vec) := []
  /-- The ASTART command's identifier and the number under which its suspended program is kept (R303). -/
  prog    : Option (Nat × Nat) := none
  /-- The busy bits of the tiles. -/
  busy    : BitVec 8 := 0
  /-- The image area that the task keeps (R398). -/
  area    : Nat := 0
  deriving DecidableEq, Repr

/-- The issue in progress (the model's own, log 6): the agent and slot whose word is given its meaning. -/
structure Issue where
  agent  : Nat := 0
  slot   : Nat := 0
  here   : W64 := 0
  length : Nat := 4
  clsdef : BitVec 4 := 0
  /-- The word is new in this bundle, not a sticky re-issue. -/
  fresh  : Bool := true
  /-- The sticky count, base and class of a re-issue (R39). -/
  count  : Nat := 0
  base   : W64 := 0
  cls    : BitVec 4 := 0
  /-- The busy bits of the core's tiles before the issue (R97, R208). -/
  busy   : BitVec 8 := 0
  /-- The instance of this issue: the bundle's tag and the flat index over it (R336). -/
  tag    : BitVec 3 := 0
  flat   : Nat := 0
  /-- This is the bundle's first, and its last, instance issue. -/
  first  : Bool := true
  last   : Bool := true
  next   : W64 := 0
  /-- The bundle made a taken transfer (R177). -/
  taken  : Bool := false
  status : Status := .ok
  deriving DecidableEq, Repr

/-- What a peer device sends to this one (R416): the value and the flag of an FPOSTR, the value of a TASKDEC, the ASID value, base and size of a
TLBINV; or the news that a peer enters or leaves reset (R409). -/
inductive Packet where
  | post (value : W64) (f : Nat)
  | dec (value : W64)
  | inval (asid base : W64) (size : BitVec 2)
  | reset (dev : Nat) (on : Bool)
  deriving DecidableEq, Repr

/-- What bring-up reads (R419): the bytes of the boot firmware, the device number, the bytes of the route table by device number, the mailbox
base. -/
structure Boot where
  image  : List Byte := []
  devno  : BitVec 18 := 0
  routes : FMap Nat := []
  mbox   : W64 := 0
  deriving DecidableEq, Repr

/-- Inputs from outside that fix what the part leaves to its timing (the model's own, log 9): whether the next loads are
late, whether the next translations make their bundle wait, and what peer devices send; an empty list means that none is. With them, what
bring-up reads, and what the part answers. -/
structure Env where
  late  : List Bool := []
  walks : List Bool := []
  packets : List Packet := []
  /-- The peer devices in reset. -/
  resets : List Nat := []
  boot  : Boot := {}
  /-- What the last read from outside has returned (R409, R410, R419). -/
  answer : List Byte := []
  /-- Messages of peer devices that are still to arrive: link, tag, the mark of an error, bytes (R412). -/
  msgs  : List (Nat × BitVec 8 × Bool × List Byte) := []
  deriving DecidableEq, Repr

/-- What L2 holds beside the bytes (R144, R147). -/
structure L2 where
  /-- The lines that are dirty, the most recently used first. -/
  dirty   : List Nat := []
  /-- The lines that it has evicted, and for whose write-back it has still to ask their channels (R130). -/
  evicted : List Nat := []
  deriving DecidableEq, Repr

/-- The machine. -/
structure State where
  /-- The counter of free values and of identifiers (the model's own, log 5). -/
  free  : Nat := 0
  mem   : Memory := []
  /-- Bytes that memory still holds for lines dirty in L2 (R144, R152). -/
  stale : FMap (Option Byte) := []
  l2    : L2 := {}
  /-- Barrier tags by granule (R278): key / 16. -/
  bars  : List Nat := []
  ctxs  : FMap Ctx := []
  images : FMap (Option Image) := []
  cores : FMap Core := []
  clusters : FMap Cluster := []
  dev   : Device := {}
  issue : Issue := {}
  env   : Env := {}
  /-- Events that come next (the model's own, log 1). -/
  agenda : List Instr := []
  /-- The core whose cycle comes next, and whether a background event comes next (the model's own, log 1). -/
  cur   : Nat := 0
  bg    : Bool := false
  deriving DecidableEq, Repr

/-- The machine right after reset: nothing launched, every context empty, the boot firmware still to be checked (R391, R419). -/
def State.reset : State := { dev := { boot := 2 } }

/-- Why the machine stops: no reason. Every access that finds no memory raises a cause (log 46). -/
inductive Fault : Type
  deriving DecidableEq, Repr

/-- Why an instruction has no meaning. -/
inductive Refusal where
  /-- Raised by the arm of an instruction that is not modelled. Safe. -/
  | notModelled (mnemonic : String)
  deriving DecidableEq, Repr

end Sys2Proof.Machine
end

