-- ==== Sys2Proof/Machine/Map.lean ====
section
/-! DEFINITION. Machine/Map.lean: reading and writing the sparse maps of State, and the accessors of its parts. -/

namespace Sys2Proof.Machine

/-- The entry of a key, or the default. -/
def mget {α : Type} (d : α) : FMap α → Nat → α
  | [], _ => d
  | (k, v) :: r, n => if k = n then v else mget d r n

/-- Put an entry at its place among rising keys. -/
def mput {α : Type} : FMap α → Nat → α → FMap α
  | [], n, v => [(n, v)]
  | (k, w) :: r, n, v => if n < k then (n, v) :: (k, w) :: r else if k = n then (n, v) :: r else (k, w) :: mput r n v

/-- Write the entry of a key; an entry equal to the default is removed. The keys stay rising. -/
def mset {α : Type} [DecidableEq α] (d : α) (m : FMap α) (n : Nat) (v : α) : FMap α :=
  if v = d then m.filter fun e => e.1 != n else mput m n v

/-- Change every entry. -/
def mmap {α : Type} (f : Nat → α → α) (m : FMap α) : FMap α := m.map fun e => (e.1, f e.1 e.2)

/-- The keys are above a bound and rising, and no entry equals the default. -/
def above {α : Type} [DecidableEq α] (d : α) : Option Nat → FMap α → Bool
  | _, [] => true
  | lo, (k, v) :: r => (match lo with | none => true | some l => decide (l < k)) && decide (v ≠ d) && above d (some k) r

/-- The canonical form of a map. -/
def mapWf {α : Type} [DecidableEq α] (d : α) (m : FMap α) : Bool := above d none m

/-- The canonical form of memory: keys rising, no byte listed that is zero (log 4). -/
def Memory.wf (m : Memory) : Bool := mapWf (0 : Byte) m

/-- A context or access processor (agent 2,048 + core). -/
def State.ctx (s : State) (a : Nat) : Ctx := mget {} s.ctxs a
/-- Write a context. -/
def State.setCtx (s : State) (a : Nat) (c : Ctx) : State := { s with ctxs := mset {} s.ctxs a c }
/-- Change a context. -/
def State.modCtx (s : State) (a : Nat) (f : Ctx → Ctx) : State := s.setCtx a (f (s.ctx a))
/-- A core. -/
def State.core (s : State) (n : Nat) : Core := mget {} s.cores n
/-- Write a core. -/
def State.setCore (s : State) (n : Nat) (c : Core) : State := { s with cores := mset {} s.cores n c }
/-- Change a core. -/
def State.modCore (s : State) (n : Nat) (f : Core → Core) : State := s.setCore n (f (s.core n))
/-- A cluster. -/
def State.cluster (s : State) (n : Nat) : Cluster := mget {} s.clusters n
/-- Write a cluster. -/
def State.setCluster (s : State) (n : Nat) (c : Cluster) : State := { s with clusters := mset {} s.clusters n c }
/-- Change a cluster. -/
def State.modCluster (s : State) (n : Nat) (f : Cluster → Cluster) : State := s.setCluster n (f (s.cluster n))
/-- Change the device part. -/
def State.modDev (s : State) (f : Device → Device) : State := { s with dev := f s.dev }

/-- The core of an agent: contexts are 4·core + context (R14), access processors 2,048 + core; what has left its context is kept
under a number from 4,096 on, which keeps the context's own modulo 2,048 (log 19). -/
def coreOf (a : Nat) : Nat := if a < 2048 then a / 4 else if a < 4096 then a - 2048 else a % 2048 / 4
/-- A number for what leaves an agent of a core, a context or its program (log 19). -/
def awayFrom (a free : Nat) : Nat := 4096 + 2048 * free + (if a < 2048 then a else if a < 4096 then 4 * (a - 2048) % 2048 else a % 2048)
/-- The cluster of an agent: eight cores each. -/
def clusterOf (a : Nat) : Nat := coreOf a / 8
/-- The agent runs access code (R299). -/
def isAccess (a : Nat) : Bool := decide (2048 ≤ a) && decide (a < 4096)
/-- The agent of the part's own writes: it belongs to no cluster. -/
def homeAgent : Nat := 4095
/-- The context number that a trace record of an agent holds (R14, R406): for access code, that of its core's context 0 (log 20); for what has left
its context, that of the context. -/
def ctxNumber (a : Nat) : Nat := if isAccess a then 4 * coreOf a else a % 2048

/-- The agent whose bundle is in issue. -/
def State.me (s : State) : Ctx := s.ctx s.issue.agent
/-- Change the agent whose bundle is in issue. -/
def State.modMe (s : State) (f : Ctx → Ctx) : State := s.modCtx s.issue.agent f
/-- Change the issue record. -/
def State.modIssue (s : State) (f : Issue → Issue) : State := { s with issue := f s.issue }
/-- A fresh identifier; the counter of free values advances. -/
def State.tick (s : State) : State := { s with free := s.free + 1 }

/-- Replace the element at a position of a list. -/
def setAt {α : Type} : List α → Nat → α → List α
  | [], _, _ => []
  | _ :: r, 0, v => v :: r
  | a :: r, n + 1, v => a :: setAt r n v

end Sys2Proof.Machine
end

