-- ==== Sys2Proof/Machine/Mem.lean ====
section
/-! DEFINITION. Machine/Mem.lean: memory by key (log 14), the translation of virtual addresses (R351-R355), the scratchpad
window (R258), the L1 copies (R137-R143) and the tile pools (R357). -/

namespace Sys2Proof.Machine

/-- A byte of memory. -/
def State.byte (s : State) (k : Nat) : Byte := mget 0 s.mem k
/-- Write a byte of memory. -/
def State.setByte (s : State) (k : Nat) (b : Byte) : State := { s with mem := mset 0 s.mem k b }

/-- The n bytes from a key on. -/
def State.bytes (s : State) (k : Nat) : Nat → List Byte
  | 0 => []
  | n + 1 => s.byte k :: s.bytes (k + 1) n

/-- Write bytes from a key on. -/
def State.setBytes (s : State) (k : Nat) : List Byte → State
  | [] => s
  | b :: r => (s.setByte k b).setBytes (k + 1) r

/-- Little-endian value of n bytes at a key (R2). -/
def State.readLE (s : State) (k n : Nat) : Nat := leNat (s.bytes k n)
/-- Write n little-endian bytes at a key (R2). -/
def State.writeLE (s : State) (k n v : Nat) : State := s.setBytes k (leBytes n v)

/-- Key of a byte of a cluster's scratchpad, by cluster scratchpad address (R211, R258). -/
def padKey (cluster a : Nat) : Nat := 2 ^ 64 + cluster * 2 ^ 22 + a % 2 ^ 22
/-- Key of a byte of host memory (TGT 1, R409). -/
def hostKey (pa : Nat) : Nat := 2 ^ 65 + pa
/-- Key of a byte of a peer device's memory (TGT 2, R409). -/
def peerKey (dev pa : Nat) : Nat := 2 ^ 66 + dev * 2 ^ 46 + pa
/-- The key lies in this device's channel memory (R121). -/
def isLocal (k : Nat) : Bool := decide (k < 2 ^ 64)
/-- The key lies in a scratchpad. -/
def isPad (k : Nat) : Bool := decide (2 ^ 64 ≤ k) && decide (k < 2 ^ 65)
/-- The physical address belongs to a channel (R121). -/
def paOk (pa : Nat) : Bool := decide (pa / 2 ^ 40 = 0) && decide (pa % 2 ^ 37 < 80 * 2 ^ 30)
/-- The channel of a physical address (R121). -/
def channelOf (pa : Nat) : Nat := 32 * (pa / 2 ^ 37 % 8) + pa / 2 ^ 8 % 32
/-- The bank of a physical address (R121). -/
def bankOf (pa : Nat) : Nat := pa / 2 ^ 13 % 32
/-- A channel. -/
def State.channel (s : State) (n : Nat) : Channel := mget {} s.dev.channels n
/-- Change a channel. -/
def State.modChannel (s : State) (n : Nat) (f : Channel → Channel) : State :=
  s.modDev fun d => { d with channels := mset {} d.channels n (f (mget {} d.channels n)) }
/-- The channel of an address is dormant, or a handshake has not returned its lanes (R135, R136). -/
def State.dormantAt (s : State) (pa : Nat) : Bool :=
  let c := s.channel (channelOf pa); c.dormant || c.lent || c.shaking

/-- No access reaches an address: its channel is dormant, or its stack is not trained yet (R135, R420). -/
def State.closedAt (s : State) (pa : Nat) : Bool := s.dormantAt pa || (s.dev.reduced && decide (2 ≤ pa / 2 ^ 37 % 8))

/-- Time in nanoseconds: ROT · 512 + PHASE (R123). -/
def State.time (s : State) : Nat := s.dev.rot * 512 + s.dev.phase

/-! Open traffic (R130). -/

/-- The 256-byte blocks of channel memory in which keys lie. -/
def blocksOf (ks : List Nat) : List Nat :=
  ks.foldl (fun acc k => if isLocal k && paOk k && !acc.contains (k / 256) then acc ++ [k / 256] else acc) []

/-- A request of open traffic joins those of its channel. -/
def askChannel (r : Open) (s : State) : State := s.modChannel (channelOf r.pa) fun c => { c with opens := c.opens ++ [r] }

/-- The requests of an activity for blocks (R130): each is made where L2 has to move its block, for the spec does not say which lines L2 holds
(log 12). -/
def askBlocks (act : Nat) (lur : Bool) (bs : List Nat) (s : State) : State :=
  bs.foldl (fun s b => askChannel { act := act, born := s.time, pa := 256 * b, lur := lur, pick := some (2 ^ 100 + s.free * 2 ^ 40 + b) } s) s

/-- The open traffic that an access of an activity makes (R130). -/
def traffic (act : Nat) (lur : Bool) (ks : List Nat) (s : State) : State := askBlocks act lur (blocksOf ks) s

/-- The base of the scratchpad window (R258). -/
def spw : Nat := 0x00FFFFFFFFC00000
/-- The address lies in the scratchpad window (R258). -/
def inWindow (va : Nat) : Bool := decide (spw ≤ va) && decide (va < spw + 2 ^ 22)
/-- The address is canonical (R351). -/
def canonical (va : Nat) : Bool := va / 2 ^ 56 == 0 || va / 2 ^ 56 == 255

/-! The walk (R352, R353). -/

/-- A field of a 64-bit entry. -/
def entryField (w lo n : Nat) : Nat := w / 2 ^ lo % 2 ^ n
/-- V of an entry. -/
def leafV (w : Nat) : Bool := entryField w 0 1 == 1
/-- LEAF of an entry. -/
def leafL (w : Nat) : Bool := entryField w 1 1 == 1
/-- Read permission. -/
def leafR (w : Nat) : Bool := entryField w 2 1 == 1
/-- Write permission. -/
def leafW (w : Nat) : Bool := entryField w 3 1 == 1
/-- Execute permission. -/
def leafX (w : Nat) : Bool := entryField w 4 1 == 1
/-- SPARSE of a leaf. -/
def leafSparse (w : Nat) : Bool := entryField w 5 1 == 1
/-- AC of a leaf. -/
def leafAC (w : Nat) : Bool := entryField w 6 1 == 1
/-- RDUP of a leaf. -/
def leafRdup (w : Nat) : Bool := entryField w 7 1 == 1
/-- TGT of a leaf. -/
def leafTgt (w : Nat) : Nat := entryField w 8 2
/-- POOL of a leaf. -/
def leafPool (w : Nat) : Nat := entryField w 12 4
/-- PA of a leaf, bits [45:16] in place. -/
def leafPA (w : Nat) : Nat := entryField w 16 30 * 2 ^ 16
/-- DEV of a leaf. -/
def leafDev (w : Nat) : Nat := entryField w 46 18

/-- How a walk ends: a leaf of a page of 2^bits bytes at an entry's address, no mapping, at a leaf of level 0 or not, or a
bad entry (R353). -/
inductive Walk where
  | leaf (w bits entry : Nat)
  | unmapped (leaf : Bool)
  | bad
  /-- An entry lies where no access reaches (R135, R152, R420). -/
  | shut
  deriving DecidableEq, Repr

/-- A leaf's must-be-zero bits and reserved values (R353). -/
def leafOk (w bits : Nat) : Bool :=
  entryField w 10 2 == 0 && leafTgt w != 3 && leafPA w % 2 ^ bits == 0 && (leafTgt w == 2 || leafDev w == 0) &&
    (bits == 16 || !leafSparse w)

/-- No access of the part reaches an address of device memory: it lies outside the channels, in a dormant one, or in a stack that reduced
service does not train (R135, R152, R420). -/
def State.shut (s : State) (pa : Nat) : Bool := !paOk pa || s.closedAt pa

/-- Read an entry by physical address. -/
def State.entryAt (s : State) (pa : Nat) : Nat := s.readLE pa 8

/-- The walk from a level down; `n` is the level of the entry at `entry` (4 for the root table's). SPARSE is a bit of level 0 alone; there
an entry with V 0 and SPARSE 1 is an uncommitted tile, whatever LEAF says (R353, log 33). -/
def State.walkFrom (s : State) (va : Nat) : Nat → Nat → Walk
  | 0, entry =>
    let w := s.entryAt entry
    if s.shut entry then .shut
    else if leafV w then (if leafL w && leafOk w 16 then .leaf w 16 entry else .bad)
    else if leafSparse w then (if leafOk w 16 then .leaf w 16 entry else .bad)
    else .unmapped (leafL w)
  | n + 1, entry =>
    let w := s.entryAt entry
    let bits := 21 + 9 * n
    if s.shut entry then .shut
    else if !leafV w then (if leafSparse w then .bad else .unmapped false)
    else if leafL w then
      (if n < 2 && leafOk w bits then .leaf w bits entry else .bad)
    else if entryField w 2 6 != 0 || entryField w 46 18 != 0 then .bad
    else
      let table := entryField w 8 38 * 2 ^ 8
      let idx := if n = 0 then va / 2 ^ 16 % 32 else va / 2 ^ (12 + 9 * n) % 512
      s.walkFrom va n (table + 8 * idx)

/-- The five-level walk of an address under an ASID (R352). The root table's entry is an upper entry for level 4. -/
def State.walk (s : State) (asid va : Nat) : Walk :=
  let root := s.dev.ptbase.toNat * 2 ^ 12 + 8 * asid
  let w := s.entryAt root
  if s.shut root then .shut
  else if !leafV w then (if leafSparse w then .bad else .unmapped false)
  else if entryField w 1 7 != 0 || entryField w 46 18 != 0 then .bad
  else s.walkFrom va 4 (entryField w 8 38 * 2 ^ 8 + 8 * (va / 2 ^ 48 % 512))

/-- A held translation of an address, if a core holds one (R354). -/
def heldTr (l : List Tr) (asid : BitVec 16) (va : Nat) : Option Tr :=
  l.find? fun t => t.asid == asid && decide (va / 2 ^ t.bits * 2 ^ t.bits = t.base)

/-- The translation of an address for a core: the walk's, or, where software has changed the entry since, one of the held
translation and the walk's (R354, log 13). -/
def State.lookup (s : State) (core : Nat) (asid : BitVec 16) (va : Nat) : Walk :=
  let now := s.walk asid.toNat (va % 2 ^ 57)
  match heldTr (s.core core).tlb asid va with
  | none => now
  | some t =>
    if (match now with | .leaf w b _ => w == t.leaf.toNat && b == t.bits | .unmapped _ => false | .bad => false | .shut => false) then now
    else if Config.choice (s.free * 1024 + 1000) % 2 = 0 then .leaf t.leaf.toNat t.bits 0 else now

/-- A core holds the translations that its walks found for mapped pages (R354). -/
def State.holdTr (s : State) (core : Nat) (asid : BitVec 16) (va : Nat) : State :=
  match heldTr (s.core core).tlb asid va with
  | some _ => s
  | none =>
    match s.walk asid.toNat (va % 2 ^ 57) with
    | .leaf w bits _ =>
      if leafV w then
        s.modCore core fun c => { c with tlb := ⟨asid, va / 2 ^ bits * 2 ^ bits, bits, .ofNat 64 w⟩ :: c.tlb }
      else s
    | _ => s

/-- The addresses of the entries that the walk of an address reads, from a level down (R352). -/
def State.entriesFrom (s : State) (va : Nat) : Nat → Nat → List Nat
  | 0, entry => [entry]
  | n + 1, entry =>
    let w := s.entryAt entry
    if leafV w && !leafL w then
      entry :: s.entriesFrom va n (entryField w 8 38 * 2 ^ 8 + 8 * (if n = 0 then va / 2 ^ 16 % 32 else va / 2 ^ (12 + 9 * n) % 512))
    else [entry]

/-- An address without a held translation is walked: the entries are read through L2, as traffic of activity 2 (R130, R352). -/
def State.walked (s : State) (core : Nat) (asid : BitVec 16) (va : Nat) : State :=
  if !canonical va || inWindow va || (heldTr (s.core core).tlb asid va).isSome then s
  else
    let root := s.dev.ptbase.toNat * 2 ^ 12 + 8 * asid.toNat
    let w := s.entryAt root
    traffic 2 false (root :: (if leafV w then s.entriesFrom (va % 2 ^ 57) 4 (entryField w 8 38 * 2 ^ 8 + 8 * (va / 2 ^ 48 % 512)) else [])) s

/-- Where the bytes of one access lie, or the cause that its translation raises (R353-R355, R361, R409). -/
inductive Place where
  /-- The key of the first byte. -/
  | at (key : Nat)
  /-- An uncommitted tile, read: zeros (R355). -/
  | zero
  /-- A write that commits its tile first: the entry's address and the leaf (R355). -/
  | commit (entry leaf : Nat)
  | cause (c : Nat) (wr : Bool)
  deriving DecidableEq, Repr

/-- Key of a translated address (R409, R421). -/
def keyOf (devno : Nat) (w bits va : Nat) : Nat :=
  let pa := leafPA w + va % 2 ^ bits
  match leafTgt w with
  | 0 => pa
  | 1 => hostKey pa
  | _ => if leafDev w == devno then pa else peerKey (leafDev w) pa

/-- A device is reached: its route names a link that is up, and it is not in reset (R408, R409). -/
def State.reachable (s : State) (d : Nat) : Bool :=
  match mget 0 s.dev.routes d with
  | 0 => false
  | l + 1 => decide (l < 18) && (mget {} s.dev.links l).up && !s.env.resets.contains d

/-- The place of an access at an address (translated under the ASID, or in the scratchpad window of the cluster). The bank
of a window address must not be of mode 0 (R261): `bankOk` decides that. An address outside the channels raises 0x0A (R152), for every
access (log 46). An unreachable peer raises 0x24 (R409), but for the accesses that take no peer's page at all (R152, R154). -/
def State.place (s : State) (agent : Nat) (asid : BitVec 16) (bankOk : Nat → Bool) (va : Nat) (need : Need) : Place :=
  let wr := need == .write || need == .both
  if !canonical va then .cause (if need == .exec then 0x08 else 0x09) wr
  else if inWindow va then
    if need == .exec then .cause 0x08 false
    else if need == .both || !bankOk ((va - spw) / 2 ^ 18) then .cause 0x0A wr
    else .at (padKey (clusterOf agent) (va - spw))
  else
    match s.lookup (coreOf agent) asid va with
    | .bad => .cause 0x09 wr
    | .shut => .cause 0x0A wr
    | .unmapped _ => .cause (if need == .exec then 0x08 else 0x09) wr
    | .leaf w bits entry =>
      let perm := match need with | .read => leafR w | .home => leafR w | .ahead => leafR w | .slot => leafR w | .write => leafW w | .both => leafR w && leafW w | .exec => leafX w
      if leafV w then
        if need == .exec && !perm then .cause 0x08 false
        else if wr && leafRdup w then .cause 0x0B true
        else if !perm then .cause 0x0A (wr || need == .both)
        else
          let k := keyOf s.dev.devno.toNat w bits va
          if isLocal k then
            if s.shut k then .cause 0x0A wr else .at k
          else if need != .both && need != .slot && decide (2 ^ 66 ≤ k) && !s.reachable (leafDev w) then .cause 0x24 wr
          else .at k
      else if need == .exec then .cause 0x08 false
      else if !perm then .cause 0x0A wr
      else if wr then (if leafAC w then .commit entry w else .cause 0x0C true)
      else .zero

/-! L1 copies (R137-R143). -/

/-- Bits of a line's mask for n bytes at an offset. -/
def lineMask (ofs n : Nat) : BitVec 128 := BitVec.ofNat 128 ((2 ^ n - 1) * 2 ^ ofs)

/-- The key of a line of zeros: that of an uncommitted tile, which has no physical line (R140). -/
def zeroLine : Nat := 2 ^ 80

/-- The slice and set of a line, by its virtual address (R137): VA[10:8], and VA[16:11] · 2 + VA[7]. -/
def l1Set (vline : Nat) : Nat := vline / 2 % 8 * 128 + vline / 16 % 64 * 2 + vline % 2

/-- The home slice of a physical line: PA[14:7] XOR PA[22:15] (R144). -/
def homeSlice (line : Nat) : Nat := (line % 256) ^^^ (line / 256 % 256)

/-- The copy of a line in a cluster, by ASID and virtual line (R138). -/
def findL1 (c : Cluster) (asid : BitVec 16) (vline : Nat) : Option L1Line :=
  c.l1.find? fun l => l.asid == asid && l.vline == vline

/-- A performing store invalidates the copies of other clusters whose registered bytes it meets, and updates the storing
cluster's copy of its own virtual line (R139, R142); it drops the fetch lines of no agent (R176 acts on the caches of R174;
the lines that a context has read ahead stay until its next taken transfer, R177). -/
def l1Store (cl home : Nat) (c : Cluster) (asid : BitVec 16) (va key : Nat) (b : Byte) : Cluster :=
  let ofs := key % 128
  { c with l1 :=
      if cl = home then
        c.l1.map fun l =>
          if l.asid == asid && l.vline == va / 128 && l.key == key / 128 then
            { l with data := BitVec.ofNat 1024 (l.data.toNat - (l.data.toNat / 2 ^ (8 * ofs) % 256) * 2 ^ (8 * ofs)
              + b.toNat * 2 ^ (8 * ofs)) }
          else l
      else c.l1.filter fun l => !(l.key == key / 128 && l.mask.getLsbD ofs) }

/-- A store to a physical line drops the instruction-cache lines that it filled, and the loop bodies taken from it (R176). -/
def dropCode (line : Nat) (c : Core) : Core :=
  { c with icache := c.icache.filter fun x => x.key != line, bodies := c.bodies.filter fun x => !x.keys.contains line }

/-- The home L2 writes a line back to memory: VLDC sees its bytes (R155, R152). -/
def State.writeBack (s : State) (line : Nat) : State :=
  { s with stale := s.stale.filter (fun c => c.1 / 128 != line), l2 := { s.l2 with dirty := s.l2.dirty.erase line } }

/-- Two lines stand in one set of one slice: the home's, or that to which a line has moved (R17, R145). -/
def State.sameSet (s : State) (x y : Nat) : Bool :=
  let slice := fun (l : Nat) => (mget ({} : Use) s.dev.uses l).away.getD (homeSlice l)
  slice x == slice y && Config.l2Set x == Config.l2Set y

/-- A line of the queue storage of a launch: L2 holds it for the life of the launch (R370). -/
def State.pinned (s : State) (line : Nat) : Bool := s.dev.launches.any fun l => l.stages.any fun q => q.held.contains line

/-- A line becomes dirty in L2: where the 16 ways of its set are full of dirty lines, the least recently used of those that are not held for a
queue is evicted, and written back at once (R17, R144, R147, R370, log 12). -/
def State.makeDirty (s : State) (line : Nat) : State :=
  let rest := s.l2.dirty.filter (· != line)
  let same := rest.filter (s.sameSet line)
  match (if rest.length < 16 || same.length < 16 then none else (same.filter fun x => !s.pinned x).getLast?) with
  | none => { s with l2 := { s.l2 with dirty := line :: rest } }
  | some x => State.writeBack { s with l2 := { dirty := line :: rest, evicted := s.l2.evicted ++ [x] } } x

/-- One byte of a store performs: at the home, and at the copies (R139, R176). Device memory keeps the old byte for VLDC (R152). -/
def State.performByte (s : State) (agent : Nat) (asid : BitVec 16) (c : Nat × Nat × Byte) : State :=
  let old := s.byte c.2.1
  let s := if isLocal c.2.1 && (mget none s.stale c.2.1).isNone && old != c.2.2 then
      { s with stale := mset none s.stale c.2.1 (some old) } else s
  let s := (if isLocal c.2.1 then s.makeDirty (c.2.1 / 128) else s).setByte c.2.1 c.2.2
  { s with
    clusters := mmap (fun n k => l1Store n (clusterOf agent) k asid c.1 c.2.1 c.2.2) s.clusters
    cores := mmap (fun _ k => dropCode (c.2.1 / 128) k) s.cores }

/-- The bytes of a store perform. -/
def State.performBytes (s : State) (agent : Nat) (asid : BitVec 16) : List (Nat × Nat × Byte) → State
  | [] => s
  | c :: r => (s.performByte agent asid c).performBytes agent asid r

/-- Little-endian bytes are written at the home by the part itself: no cluster's copy is spared (R142). -/
def State.homeLE (s : State) (k n v : Nat) : State :=
  s.performBytes homeAgent 0 ((leBytes n v).zipIdx.map fun x => (0, k + x.2, x.1))

/-- Drop the copy of a virtual line in a cluster (R155). -/
def State.dropL1 (s : State) (cl : Nat) (asid : BitVec 16) (vline : Nat) : State :=
  s.modCluster cl fun c => { c with l1 := c.l1.filter fun l => !(l.asid == asid && l.vline == vline) }

/-- The byte that memory holds, behind both cache levels (R152). -/
def State.channelByte (s : State) (key : Nat) : Byte := (mget none s.stale key).getD (s.byte key)

/-- The granule of a key is a live barrier word (R278). -/
def State.live (s : State) (key : Nat) : Bool := s.bars.contains (key / 16)

/-- A line's bytes at the home. -/
def State.lineAt (s : State) (line : Nat) : BitVec 1024 := BitVec.ofNat 1024 (s.readLE (line * 128) 128)

/-! Tile pools (R357) and committing (R359). -/

/-- Address of pool descriptor n (R357). -/
def State.poolAt (s : State) (n : Nat) : Nat := s.dev.poolbase.toNat * 32 + 32 * n
/-- COUNT of a pool descriptor. -/
def State.poolCount (s : State) (d : Nat) : Nat := s.readLE (d + 12) 4
/-- A pool's descriptor, its last entry, or what that names lies where no access reaches. -/
def State.poolShut (s : State) (d : Nat) : Bool :=
  let e := s.readLE d 8 + 8 * (s.poolCount d - 1)
  s.shut d || (s.poolCount d != 0 && (s.shut e || s.shut (s.readLE e 8)))

/-- Take entry COUNT - 1 of a pool (R357); none when it is empty, or not reached. -/
def State.poolPop (s : State) (d : Nat) : Option (Nat × State) :=
  let n := s.poolCount d
  if n = 0 || s.poolShut d then none else some (s.readLE (s.readLE d 8 + 8 * (n - 1)) 8, s.homeLE (d + 12) 4 (n - 1))
/-- Store at entry COUNT of a pool (R357); none when it is full, or not reached. -/
def State.poolPush (s : State) (d a : Nat) : Option State :=
  let n := s.poolCount d
  if s.readLE (d + 8) 4 ≤ n ∨ s.shut d ∨ s.shut (s.readLE d 8 + 8 * n) then none else some ((s.homeLE (s.readLE d 8 + 8 * n) 8 a).homeLE (d + 12) 4 (n + 1))

/-- Cells whose key is not in a range. -/
def dropRange (m : Memory) (lo hi : Nat) : Memory := m.filter fun c => c.1 < lo || hi ≤ c.1

/-- The bytes of a range become zero at the home, and the copies that registered a byte of it go (R142); memory keeps the old bytes for
VLDC (R152). -/
def State.zeroRange (s : State) (lo hi : Nat) : State :=
  let old := s.mem.filter fun c => decide (lo ≤ c.1) && decide (c.1 < hi)
  let lines := old.foldl (fun (acc : List Nat) c => if acc.contains (c.1 / 128) then acc else acc ++ [c.1 / 128]) []
  lines.foldl State.makeDirty { s with
    mem := dropRange s.mem lo hi
    stale := old.foldl (fun m c => if (mget none m c.1).isNone then mset none m c.1 (some c.2) else m) s.stale
    clusters := mmap (fun _ c => { c with l1 := c.l1.filter fun l => l.mask == 0 || decide (l.key < lo / 128) || decide (hi ≤ l.key * 128) }) s.clusters
    cores := mmap (fun _ c => { c with
      icache := c.icache.filter fun x => decide (x.key < lo / 128) || decide (hi ≤ x.key * 128)
      bodies := c.bodies.filter fun x => x.keys.all fun k => decide (k < lo / 128) || decide (hi ≤ k * 128) }) s.cores }

/-- Drop the L1 lines, translations and fetch lines of a virtual range, in the agents a predicate names (R365, R359). -/
def State.dropVA (s : State) (inScope : Nat → Bool) (asidOk : BitVec 16 → Bool) (lo hi : Nat) : State :=
  let meets := fun (b n : Nat) => decide (b < hi) && decide (lo < b + n)
  { s with
    clusters := mmap (fun n c =>
      if (List.range 8).any (fun j => inScope (8 * n + j)) then { c with l1 := c.l1.filter fun l => !(asidOk l.asid && meets (l.vline * 128) 128) } else c) s.clusters
    cores := mmap (fun n c =>
      if inScope n then { c with
        tlb := c.tlb.filter fun t => !(asidOk t.asid && meets t.base (2 ^ t.bits))
        icache := c.icache.filter fun x => !(asidOk x.asid && meets (x.line * 64) 64)
        bodies := c.bodies.filter fun x => !(asidOk (s.ctx x.agent).ctl.asid && meets x.start.toNat x.size) } else c) s.cores
    ctxs := mmap (fun a c =>
      if inScope (coreOf a) && asidOk c.ctl.asid then { c with lines := c.lines.filter fun l => !meets (l.1 * 64) 64 } else c) s.ctxs }

/-- Commit the tile of a level-0 entry from its pool (R359): zero the tile, set V. None when the pool gives none. -/
def State.commitTile (s : State) (asid : BitVec 16) (va entry : Nat) : Option State :=
  let w := s.entryAt entry
  match s.poolPop (s.poolAt (leafPool w)) with
  | none => none
  | some (p, s) =>
    let s := s.zeroRange p (p + 2 ^ 16)
    let w' := w / 2 ^ 46 * 2 ^ 46 + p / 2 ^ 16 % 2 ^ 30 * 2 ^ 16 + w % 2 ^ 16 / 2 * 2 + 1
    let s := s.homeLE entry 8 w'
    let t := va / 2 ^ 16 * 2 ^ 16
    some (s.dropVA (fun _ => true) (· == asid) t (t + 2 ^ 16))

end Sys2Proof.Machine
end

