-- ==== Sys2Proof/Machine/Info.lean ====
section
/-! DEFINITION. Machine/Info.lean: what each instruction names: its sources, its governing predicate, its destinations, the
tile and latch it uses, whether its result keeps part of its destination (R335), whether its word is sticky, and the kinds
of code it is legal in (R47). The checks of R45, the group check of R43, the ports of R35 and the tags of R335 read it. -/

namespace Sys2Proof

/-- The result keeps part of the destination's old value: merging under a predicate other than p0 (R335). -/
def VHead.keeps (h : VHead) : Bool := h.pred != 0 && !h.z

/-- The new operands of a cascade, with their fields (0 A, 1 B, 2 C, 3 D), after an OP1 of n sources (R29). -/
def Chain.srcs (n : Nat) : Chain → List (Nat × VCode)
  | .none => []
  | .one _ x => [(n, x)]
  | .two _ x _ y => [(n, x), (n + 1, y)]

/-- The scalar sources of an operand of FENCE.R (R170). -/
def FOpd.regs : FOpd → List SCode
  | .ti _ => []
  | .range n => [.s n, .s (n + 1)]
/-- The entry that an operand of FENCE.R names. -/
def FOpd.entry : FOpd → Option (BitVec 6)
  | .ti n => some n
  | .range _ => none

namespace Machine

/-- What an instruction names. -/
structure Info where
  /-- Scalar sources. -/
  ss : List SCode := []
  /-- Vector sources in latched positions (R37): field and code. -/
  vs : List (Nat × VCode) := []
  /-- Vector sources that no latch holds. -/
  pv : List VCode := []
  /-- A run of vector registers read by number. -/
  run : Option (Nat × Nat) := none
  /-- Predicates read. -/
  ps : List (BitVec 4) := []
  /-- Destinations. -/
  ds : Option (BitVec 5) := none
  dv : List (BitVec 10) := []
  dp : Option (BitVec 4) := none
  tile : Option (BitVec 3) := none
  latch : Option (BitVec 2) := none
  /-- Tensor identifiers whose entries FENCE.R reads. -/
  tis : List (BitVec 6) := []
  /-- The result keeps part of the destination (R335). -/
  keep : Bool := false
  /-- STK. -/
  sticky : Bool := false
  /-- Legal in access code (R48-R53). -/
  access : Bool := false
  /-- Legal in a context's code (R47). -/
  code : Bool := true
  deriving DecidableEq, Repr

/-- What each instruction names; nothing for the others and for events. -/
def info : Instr → Info
  | .nopS => { access := true }
  | .addReg st d a b => { ss := [a, b], ds := some d, sticky := st, access := true }
  | .addImm st d a _ => { ss := [a], ds := some d, sticky := st, access := true }
  | .subReg st d a b => { ss := [a, b], ds := some d, sticky := st, access := true }
  | .subImm st d a _ => { ss := [a], ds := some d, sticky := st, access := true }
  | .mulReg st d a b => { ss := [a, b], ds := some d, sticky := st, access := true }
  | .mulImm st d a _ => { ss := [a], ds := some d, sticky := st, access := true }
  | .mulhReg st d a b _ => { ss := [a, b], ds := some d, sticky := st, access := true }
  | .mulhImm st d a _ => { ss := [a], ds := some d, sticky := st, access := true }
  | .divReg st d a b _ => { ss := [a, b], ds := some d, sticky := st, access := true }
  | .divImm st d a _ => { ss := [a], ds := some d, sticky := st, access := true }
  | .remReg st d a b _ => { ss := [a, b], ds := some d, sticky := st, access := true }
  | .remImm st d a _ => { ss := [a], ds := some d, sticky := st, access := true }
  | .minReg st d a b _ => { ss := [a, b], ds := some d, sticky := st, access := true }
  | .minImm st d a _ => { ss := [a], ds := some d, sticky := st, access := true }
  | .maxReg st d a b _ => { ss := [a, b], ds := some d, sticky := st, access := true }
  | .maxImm st d a _ => { ss := [a], ds := some d, sticky := st, access := true }
  | .andReg st d a b => { ss := [a, b], ds := some d, sticky := st, access := true }
  | .andImm st d a _ => { ss := [a], ds := some d, sticky := st, access := true }
  | .orReg st d a b => { ss := [a, b], ds := some d, sticky := st, access := true }
  | .orImm st d a _ => { ss := [a], ds := some d, sticky := st, access := true }
  | .xorReg st d a b => { ss := [a, b], ds := some d, sticky := st, access := true }
  | .xorImm st d a _ => { ss := [a], ds := some d, sticky := st, access := true }
  | .shlReg st d a b => { ss := [a, b], ds := some d, sticky := st, access := true }
  | .shlImm st d a _ => { ss := [a], ds := some d, sticky := st, access := true }
  | .shrReg st d a b => { ss := [a, b], ds := some d, sticky := st, access := true }
  | .shrImm st d a _ => { ss := [a], ds := some d, sticky := st, access := true }
  | .sraReg st d a b => { ss := [a, b], ds := some d, sticky := st, access := true }
  | .sraImm st d a _ => { ss := [a], ds := some d, sticky := st, access := true }
  | .lih st d a _ => { ss := [a], ds := some d, sticky := st, access := true }
  | .cmpReg st d a b _ => { ss := [a, b], ds := some d, sticky := st, access := true }
  | .cmpImm st d a _ _ => { ss := [a], ds := some d, sticky := st, access := true }
  | .selReg st d a b c => { ss := [a, b, c], ds := some d, sticky := st, access := true }
  | .selImm st d a _ c => { ss := [a, c], ds := some d, sticky := st, access := true }
  | .bfxReg st d a b _ _ => { ss := [a, b], ds := some d, sticky := st, access := true }
  | .bfxImm st d a _ _ _ => { ss := [a], ds := some d, sticky := st, access := true }
  | .bfi st d a _ _ => { ss := [a, .s d], ds := some d, sticky := st, access := true }
  | .clz st d a => { ss := [a], ds := some d, sticky := st, access := true }
  | .popc st d a => { ss := [a], ds := some d, sticky := st, access := true }
  | .addsReg st d a b _ => { ss := [a, b], ds := some d, sticky := st, access := true }
  | .addsImm st d a _ => { ss := [a], ds := some d, sticky := st, access := true }
  | .wid st d _ _ => { ds := some d, sticky := st, access := true }
  | .brScalar _ a _ => { ss := [a], access := true }
  | .brPred _ p _ => { ps := [p] }
  | .bra _ => { access := true }
  | .call d _ => { ds := some d }
  | .ret a => { ss := [a] }
  | .jmpr a _ => { ss := [a] }
  | .loopn _ a _ => { ss := [a], access := true }
  | .lend _ => { access := true }
  | .taskend => { access := true }
  | .lift a _ => { ss := [a] }
  | .brbScalar _ a _ => { ss := [a] }
  | .brbPred _ p _ => { ps := [p] }
  | .ctlrd d _ => { ds := some d }
  | .ctlwr a _ => { ss := [a] }
  | .vadd h d a b ch => { vs := (0, a) :: (1, b) :: ch.srcs 2, ps := [h.pred], dv := [d], keep := h.keeps, sticky := h.st }
  | .vsub h d a b ch => { vs := (0, a) :: (1, b) :: ch.srcs 2, ps := [h.pred], dv := [d], keep := h.keeps, sticky := h.st }
  | .vmul h d a b ch => { vs := (0, a) :: (1, b) :: ch.srcs 2, ps := [h.pred], dv := [d], keep := h.keeps, sticky := h.st }
  | .vfma h d a b c ch => { vs := (0, a) :: (1, b) :: (2, c) :: ch.srcs 3, ps := [h.pred], dv := [d], keep := h.keeps, sticky := h.st }
  | .vmin h d a b ch => { vs := (0, a) :: (1, b) :: ch.srcs 2, ps := [h.pred], dv := [d], keep := h.keeps, sticky := h.st }
  | .vmax h d a b ch => { vs := (0, a) :: (1, b) :: ch.srcs 2, ps := [h.pred], dv := [d], keep := h.keeps, sticky := h.st }
  | .vabs h d a ch => { vs := (0, a) :: ch.srcs 1, ps := [h.pred], dv := [d], keep := h.keeps, sticky := h.st }
  | .vneg h d a ch => { vs := (0, a) :: ch.srcs 1, ps := [h.pred], dv := [d], keep := h.keeps, sticky := h.st }
  | .vand h d a b ch => { vs := (0, a) :: (1, b) :: ch.srcs 2, ps := [h.pred], dv := [d], keep := h.keeps, sticky := h.st }
  | .vor h d a b ch => { vs := (0, a) :: (1, b) :: ch.srcs 2, ps := [h.pred], dv := [d], keep := h.keeps, sticky := h.st }
  | .vxor h d a b ch => { vs := (0, a) :: (1, b) :: ch.srcs 2, ps := [h.pred], dv := [d], keep := h.keeps, sticky := h.st }
  | .vshl h d a b ch => { vs := (0, a) :: (1, b) :: ch.srcs 2, ps := [h.pred], dv := [d], keep := h.keeps, sticky := h.st }
  | .vshr h d a b ch => { vs := (0, a) :: (1, b) :: ch.srcs 2, ps := [h.pred], dv := [d], keep := h.keeps, sticky := h.st }
  | .vsra h d a b ch => { vs := (0, a) :: (1, b) :: ch.srcs 2, ps := [h.pred], dv := [d], keep := h.keeps, sticky := h.st }
  | .vmov h d a ch => { vs := (0, a) :: ch.srcs 1, ps := [h.pred], dv := [d], keep := h.keeps, sticky := h.st }
  | .vcmp h pd a b _ => { vs := [(0, a), (1, b)], ps := [h.pred], dp := some pd, keep := h.keeps, sticky := h.st }
  | .vsel h d a b ps => { vs := [(0, a), (1, b)], ps := [h.pred, ps], dv := [d], keep := h.keeps, sticky := h.st }
  | .vmac16 h d a b c _ => { vs := [(0, a), (1, b), (2, c)], ps := [h.pred], dv := [d], keep := h.keeps, sticky := h.st }
  | .vdot4 h d a b c => { vs := [(0, a), (1, b), (2, c)], ps := [h.pred], dv := [d], keep := h.keeps, sticky := h.st }
  | .vred h d a _ => { vs := [(0, a)], ps := [h.pred], dv := [d], sticky := h.st }
  | .vscan h d a _ _ => { vs := [(0, a)], ps := [h.pred], dv := [d], keep := h.keeps, sticky := h.st }
  | .vperm h d a b => { vs := [(0, a), (1, b)], ps := [h.pred], dv := [d], keep := h.keeps, sticky := h.st }
  | .vslide h d a b _ => { vs := [(0, a), (1, b)], ps := [h.pred], dv := [d], keep := h.keeps, sticky := h.st }
  | .vbcastScalar h d x => { ss := [x], ps := [h.pred], dv := [d], keep := h.keeps, sticky := h.st }
  | .vbcastLane h d a _ => { vs := [(0, a)], ps := [h.pred], dv := [d], keep := h.keeps, sticky := h.st }
  | .vpopc h d a => { vs := [(0, a)], ps := [h.pred], dv := [d], keep := h.keeps, sticky := h.st }
  | .vcompress h d a => { vs := [(0, a)], ps := [h.pred], dv := [d], keep := h.keeps, sticky := h.st }
  | .vexpand h d a => { vs := [(0, a)], ps := [h.pred], dv := [d], keep := h.keeps, sticky := h.st }
  | .viota h d => { ps := [h.pred], dv := [d], keep := h.keeps, sticky := h.st }
  | .pand h pd pa pb => { ps := [h.pred, pa, pb], dp := some pd, keep := h.keeps, sticky := h.st }
  | .por h pd pa pb => { ps := [h.pred, pa, pb], dp := some pd, keep := h.keeps, sticky := h.st }
  | .pxor h pd pa pb => { ps := [h.pred, pa, pb], dp := some pd, keep := h.keeps, sticky := h.st }
  | .pnot h pd pa => { ps := [h.pred, pa], dp := some pd, keep := h.keeps, sticky := h.st }
  | .pcnt h sd pa => { ps := [h.pred, pa], ds := some sd, sticky := h.st }
  | .pfirst h sd pa => { ps := [h.pred, pa], ds := some sd, sticky := h.st }
  | .vcvt h d a _ src dst _ _ => { vs := [(0, a)], ps := [h.pred], dv := [d], keep := h.keeps || decide (fmtWidth dst.toNat < fmtWidth src.toNat), sticky := h.st }
  | .vpackb h d a _ _ _ => { vs := [(0, a)], ps := [h.pred], dv := [d], keep := true, sticky := h.st }
  | .vunpackb h d a _ _ => { vs := [(0, a)], ps := [h.pred], dv := [d], keep := h.keeps, sticky := h.st }
  | .vbpackPack h d a _ k _ _ => { ss := [k], vs := [(0, a)], ps := [h.pred], dv := [d], keep := true, sticky := h.st }
  | .vbpackUnpack h d a _ k _ => { ss := [k], vs := [(0, a)], ps := [h.pred], dv := [d], keep := h.keeps, sticky := h.st }
  | .vtr h d _ mt x => { ss := [x], ps := [h.pred], dv := [d], tile := some mt, keep := h.keeps, sticky := h.st }
  | .vtw h _ mt x a => { ss := [x], vs := [(0, a)], ps := [h.pred], tile := some mt, sticky := h.st }
  | .lreduce h d a _ _ => { vs := [(0, a)], ps := [h.pred], dv := [d], keep := h.keeps, sticky := h.st }
  | .frcp st d a p z => { vs := [(0, a)], ps := [p], dv := [d], keep := decide (p ≠ 0) && !z, sticky := st }
  | .frsq st d a p z => { vs := [(0, a)], ps := [p], dv := [d], keep := decide (p ≠ 0) && !z, sticky := st }
  | .fsqrt st d a p z => { vs := [(0, a)], ps := [p], dv := [d], keep := decide (p ≠ 0) && !z, sticky := st }
  | .fexp2 st d a p z => { vs := [(0, a)], ps := [p], dv := [d], keep := decide (p ≠ 0) && !z, sticky := st }
  | .flog2 st d a p z => { vs := [(0, a)], ps := [p], dv := [d], keep := decide (p ≠ 0) && !z, sticky := st }
  | .fsig st d a p z => { vs := [(0, a)], ps := [p], dv := [d], keep := decide (p ≠ 0) && !z, sticky := st }
  | .ftanh st d a p z => { vs := [(0, a)], ps := [p], dv := [d], keep := decide (p ≠ 0) && !z, sticky := st }
  | .fsin st d a p z => { vs := [(0, a)], ps := [p], dv := [d], keep := decide (p ≠ 0) && !z, sticky := st }
  | .fcos st d a p z => { vs := [(0, a)], ps := [p], dv := [d], keep := decide (p ≠ 0) && !z, sticky := st }
  | .nopM => { access := true }
  | .ld st _ d base _ _ _ _ _ => { ss := [base], ds := some d, sticky := st, access := true }
  | .st st _ x base _ _ _ _ => { ss := [base, x], sticky := st, access := true }
  | .vld st _ p d base _ _ _ => { ss := [base], ps := [p], dv := [d], keep := decide (p ≠ 0), sticky := st }
  | .vst st _ p x base _ _ _ => { ss := [base], vs := [(0, x)], ps := [p], sticky := st }
  | .vldc st _ p d base _ _ => { ss := [base], ps := [p], dv := [d], keep := decide (p ≠ 0), sticky := st }
  | .lda _ d base _ _ _ _ => { ss := [base], ds := some d, access := true }
  | .strel _ x base _ _ _ => { ss := [base, x], access := true }
  | .amo _ _ src base cmp rd _ _ => { ss := [base, src, cmp], ds := some rd, access := true }
  | .cflush st _ base _ _ => { ss := [base], sticky := st }
  | .cinv st _ base _ _ => { ss := [base], sticky := st }
  | .cpref st _ base _ _ => { ss := [base], sticky := st, access := true }
  | .vspill _ v base _ n1 _ => { ss := [base], run := some (v.toNat, n1.toNat + 1) }
  | .vfill _ v base _ n1 _ => { ss := [base], dv := (List.range (n1.toNat + 1)).map fun j => BitVec.ofNat 10 (Nat.min (v.toNat + j) 1023) }
  | .fenceC _ _ => { access := true }
  | .fenceR _ o os => { ss := (o :: os).flatMap FOpd.regs, tis := (o :: os).filterMap FOpd.entry, access := true }
  | .tla _ p _ node v _ => { ss := [node], ps := [p], dv := [v], keep := decide (p ≠ 0) }
  | .tld _ p _ node v _ _ => { ss := [node], ps := [p], dv := [v], keep := decide (p ≠ 0) }
  | .tsa _ p _ node x _ => { ss := [node], pv := [x], ps := [p] }
  | .tsd _ p _ node x _ _ => { ss := [node], pv := [x], ps := [p] }
  | .tdsc _ p _ node pd _ _ => { ss := [node], ps := [p], dp := some pd, keep := decide (p ≠ 0) }
  | .tcellCommit _ _ node _ => { ss := [node] }
  | .tcellRelease _ _ node _ => { ss := [node] }
  | .gath _ d base _ _ idx cnt => { ss := [base, cnt], pv := idx.toList, dv := [d], access := true, code := false }
  | .scat _ x base _ _ idx cnt => { ss := [base, cnt], vs := [(0, x)], pv := idx.toList, access := true, code := false }
  | .scatAdd _ x base _ _ idx cnt _ => { ss := [base, cnt], vs := [(0, x)], pv := idx.toList, access := true, code := false }
  | .qpush _ x _ => { vs := [(0, x)], access := true, code := false }
  | .qpop st p d _ => { ps := [p], dv := [d], keep := decide (p ≠ 0), sticky := st }
  | .bari _ src base _ => { ss := [src, base] }
  | .bara _ src base rd _ => { ss := [src, base], ds := some rd }
  | .barw _ src base _ => { ss := [src, base] }
  | .barx _ base rd _ => { ss := [base], ds := some rd }
  | .commit _ cnt base => { ss := [cnt, base] }
  | .decommit _ cnt base _ => { ss := [cnt, base] }
  | .alloc _ base rd => { ss := [base], ds := some rd }
  | .free _ src base => { ss := [src, base] }
  | .tlbinv _ asid base _ => { ss := [asid, base] }
  | .mmaScratchpad _ md eb _ base _ => { ss := [base], tile := some md, latch := some eb, keep := true }
  | .mmaVector _ md eb _ _ _ => { tile := some md, latch := some eb, keep := true }
  | .mmas _ md eb _ base _ => { ss := [base], tile := some md, latch := some eb, keep := true }
  | .lde _ _ _ _ base => { ss := [base] }
  | .mzero _ mt => { tile := some mt }
  | .msave _ mt _ base _ => { ss := [base], tile := some mt, keep := true }
  | .mload _ mt _ base _ => { ss := [base], tile := some mt }
  | .copy _ desc soff doff => { ss := [desc, soff, doff] }
  | .rlay _ _ _ sb db prm _ _ => { ss := [sb, db, prm] }
  | .stage _ _ soff doff => { ss := [soff, doff] }
  | .mgset _ desc tag => { ss := [desc, tag] }
  | .mgpush _ _ v cnt tag => { ss := [cnt, tag], run := some (v.toNat, 3) }
  | .mgfin _ _ tag tsk _ => { ss := [tag, tsk] }
  | .contract _ blk => { ss := [blk] }
  | .astart _ entry arg => { ss := [entry, arg] }
  | .send _ _ _ buf len _ => { ss := [buf, len] }
  | .recv _ _ _ buf len _ => { ss := [buf, len] }
  | .ramo _ _ _ base src cmp rd => { ss := [base, src, cmp], ds := some rd }
  | .launch _ rec => { ss := [rec] }
  | .taskset _ ent slot => { ss := [ent, slot] }
  | .taskdec _ val => { ss := [val] }
  | .nopY => { access := true }
  | .fwait _ _ => { access := true }
  | .fpost _ _ _ _ => { access := true }
  | .fpostr _ a => { ss := [a], access := true }
  | .killScalar _ mask => { ss := [mask] }
  | _ => {}

end Machine
end Sys2Proof
end

