-- ==== Sys2Proof/Machine/Ops.lean ====
section
/-! DEFINITION. Machine/Ops.lean: the operations that the meanings share: lift instances (R332-R337), reading registers
(R8, R26, R37, R61), in-flight records and their landing (R56, R57, R81, R199), engine tokens (R281-R286), signals, saving a
context (R399), taking a trap (R392, R394, R302, R356) and returning from it (R393). -/

namespace Sys2Proof.Machine

/-! Lift instances. A list of levels has level 1 first; a flat index over a set of levels has the deepest level fastest. -/

/-- The coordinates of a flat index over the levels of a set (0 for the others), and what is left of the index. -/
def coordsFrom (u : BitVec 3) (f : Nat) : Nat → List LiftLevel → List Nat × Nat
  | _, [] => ([], f)
  | j, l :: ls =>
    let r := coordsFrom u f (j + 1) ls
    if u.getLsbD j then (r.2 % l.extent :: r.1, r.2 / l.extent) else (0 :: r.1, r.2)

/-- The coordinates of a flat index (R336). -/
def coords (ls : List LiftLevel) (u : BitVec 3) (f : Nat) : List Nat := (coordsFrom u f 0 ls).1

/-- Σ x·T over the levels of a set: the register offset of an instance (R332). -/
def regOffset (u : BitVec 3) : Nat → List LiftLevel → List Nat → Nat
  | j, l :: ls, x :: xs => (if u.getLsbD j then x * l.stride else 0) + regOffset u (j + 1) ls xs
  | _, _, _ => 0

/-- The lane index, in which level 1 steps fastest (R333). -/
def laneIndex (u : BitVec 3) : Nat → List LiftLevel → List Nat → Nat
  | j, l :: ls, x :: xs =>
    if u.getLsbD j then x + l.extent * laneIndex u (j + 1) ls xs else laneIndex u (j + 1) ls xs
  | _, _, _ => 0

/-- The flat index of a tuple over a set of levels, in which the deepest level steps fastest. -/
def flatIndex (u : BitVec 3) : Nat → List LiftLevel → List Nat → Nat → Nat
  | j, l :: ls, x :: xs, acc => flatIndex u (j + 1) ls xs (if u.getLsbD j then acc * l.extent + x else acc)
  | _, _, _, acc => acc

/-- The product of the extents of a set of levels. -/
def extents (u : BitVec 3) : Nat → List LiftLevel → Nat
  | j, l :: ls => (if u.getLsbD j then l.extent else 1) * extents u (j + 1) ls
  | _, [] => 1

/-- Where the spill area holds an instance of a predicate or tile under a tag (R334): the model's own layout. -/
def instKey (n : Nat) (u : BitVec 3) (f : Nat) : Nat := 65536 * (8 * n + u.toNat) + f

/-- Insert into a rising list without repeats. -/
def insertUp (n : Nat) : List Nat → List Nat
  | [] => [n]
  | m :: r => if n < m then n :: m :: r else if n = m then m :: r else m :: insertUp n r

/-- The enabled instances of a set of levels, rising (R336): the projections of the mask's members. -/
def enabled (l : Lift) (u : BitVec 3) : List Nat :=
  l.mask.foldl (fun acc f => insertUp (flatIndex u 0 l.levels (coords l.levels 7 f) 0) acc) []

/-- The coordinates of the instance of the issue in progress. -/
def State.xs (s : State) : List Nat := coords s.me.flow.lift.levels s.issue.tag s.issue.flat

/-- The tag of a scalar code; s0 and queue entries carry none (R329). -/
def tagOfS (l : Lift) : SCode → BitVec 3
  | .s n => if n = 0 then 0 else mget 0 l.tagS n.toNat
  | .qs _ => 0
/-- The tag of a vector register. -/
def tagOfV (l : Lift) (n : Nat) : BitVec 3 := mget 0 l.tagV n
/-- The tag of a predicate; p0 carries none. -/
def tagOfP (l : Lift) (n : BitVec 4) : BitVec 3 := if n = 0 then 0 else mget 0 l.tagP n.toNat
/-- The tag of a tile. -/
def tagOfM (l : Lift) (n : BitVec 3) : BitVec 3 := mget 0 l.tagM n.toNat

/-- The tag of a vector code. -/
def tagOfVC (l : Lift) : VCode → BitVec 3
  | .v n => tagOfV l n.toNat
  | .qv _ => 0
  | .held => 0

/-- The OR of tags. -/
def orTags (l : List (BitVec 3)) : BitVec 3 := l.foldl (· ||| ·) 0

/-- The registers of the A operand of MMA from vectors: ⌈KF · w / 16⌉, for the element width w of the entry (R219). -/
def State.vectorRun (s : State) (tia : BitVec 6) (kf : BitVec 8) : Nat :=
  (kf.toNat * fmtWidth ((mget 0 s.me.tis tia.toNat).toNat % 16) + 15) / 16

/-- The run of registers that an instruction reads or writes by number. -/
def State.runOf (s : State) (i : Instr) : Option (Nat × Nat) :=
  match i with
  | .mmaVector _ _ _ tia v kf => some (v.toNat, s.vectorRun tia kf)
  | _ => (info i).run

/-- A slot's tag (R335): the OR of the tags of all it reads, its destination's where the result keeps part of it, and, for a
tile written row by row, the tile's. -/
def slotTag (i : Instr) (s : State) : BitVec 3 :=
  let l := s.me.flow.lift
  if l.levels.isEmpty then 0 else
  match i with
  | .fenceR .. | .fpostr .. | .killScalar .. => 0
  | _ =>
  let n := info i
  let dt := if n.keep then orTags (n.dv.map (fun d => tagOfV l d.toNat) ++ (n.dp.toList.map (tagOfP l))) else 0
  let tt := match i with
    | .mzero _ _ | .mload _ _ _ _ _ => 0
    | _ => orTags (n.tile.toList.map (tagOfM l))
  let rt := match s.runOf i with
    | some (v, k) => orTags ((List.range k).map fun j => tagOfV l (v + j))
    | none => 0
  orTags (n.ss.map (tagOfS l)) ||| orTags (n.vs.map fun p => tagOfVC l p.2) ||| orTags (n.pv.map (tagOfVC l)) |||
    orTags (n.ps.map (tagOfP l)) ||| dt ||| tt ||| rt

/-- The tag of a slot's result: that of the slot, but for LREDUCE, which drops its level from the tag of its source (R339, R348). -/
def resultTag (i : Instr) (s : State) : BitVec 3 :=
  match i with
  | .lreduce h d a _ lvl =>
    let l := s.me.flow.lift
    if l.levels.isEmpty then 0
    else (tagOfVC l a &&& ~~~(1#3 <<< (lvl.toNat - 1))) ||| tagOfP l h.pred ||| (if h.keeps then tagOfV l d.toNat else 0)
  | _ => slotTag i s

/-- Set the tag of a register: kinds 0 s, 1 v, 2 p, 3 m. -/
def setTag (k n : Nat) (u : BitVec 3) (l : Lift) : Lift :=
  match k with
  | 0 => { l with tagS := mset 0 l.tagS n u }
  | 1 => { l with tagV := mset 0 l.tagV n u }
  | 2 => { l with tagP := mset 0 l.tagP n u }
  | _ => { l with tagM := mset 0 l.tagM n u }

/-- The tag of a register by kind. -/
def getTag (k n : Nat) (l : Lift) : BitVec 3 :=
  match k with
  | 0 => mget 0 l.tagS n
  | 1 => mget 0 l.tagV n
  | 2 => mget 0 l.tagP n
  | _ => mget 0 l.tagM n

/-- Bytes of the spill area that the tags of p1-p15 and m0-m7 need (R334). -/
def spillNeed (l : Lift) : Nat :=
  let ps := (List.range 15).foldl (fun a n => let u := mget 0 l.tagP (n + 1); if u = 0 then a else a + 32 * extents u 0 l.levels) 0
  (List.range 8).foldl (fun a n => let u := mget 0 l.tagM n; if u = 0 then a else a + 65536 * extents u 0 l.levels) ps

/-! Reading registers. -/

/-- The register number of the current instance of vN with a tag (R332). -/
def State.physV (s : State) (u : BitVec 3) (n : Nat) : Nat :=
  n + regOffset u 0 s.me.flow.lift.levels s.xs

/-- The vector that holds the instances of a tagged scalar (R333). -/
def State.lanesOf (s : State) (n : Nat) : Nat := s.me.ctl.sib.toNat + n - 1

/-- What a killed register reads as (R61): the poison pattern, zero after a restore, else, lane by lane, the old value or
zero as a free value decides (log 5). -/
def killedValue (s : State) (c : Ctx) (n : Nat) : Vec :=
  if c.ctl.dbgctl.getLsbD 0 then BitVec.ofNat 2048 ((List.range 64).foldl (fun a i => a + 0x7FBAD0D0 * 2 ^ (32 * i)) 0)
  else if mget 0 c.regs.killed n = 2 then 0
  else
    let pick := Config.bits (s.free * 1024 + n)
    let m := (List.range 64).foldl (fun a i => if pick.getLsbD i then a + (2 ^ 32 - 1) * 2 ^ (32 * i) else a) 0
    mget 0 c.regs.v n &&& BitVec.ofNat 2048 m

/-- The stored value of vN by number (R54, R61). -/
def State.vraw (s : State) (c : Ctx) (n : Nat) : Vec :=
  if mget 0 c.regs.killed n = 0 then mget 0 c.regs.v n else killedValue s c n
/-- The value of vN as a slot reads it: for a register that a VFILL of the same bundle writes, one of the values before and
after the fill (R68, log 5). -/
def State.vnum (s : State) (c : Ctx) (n : Nat) : Vec :=
  match mget none c.flow.prefill n with
  | some v => if Config.choice (s.free * 1024 + n) % 2 = 0 then v.1 else v.2
  | none => s.vraw c n

/-- The 64-bit lane l of a vector. -/
def laneOf (v : Vec) (l : Nat) : W64 := v.extractLsb' (64 * l) 64

/-- The value of a scalar code: s0 is zero; a tagged register is read in its instance (R8, R26, R333). -/
def State.sc (s : State) (c : SCode) : W64 :=
  match c with
  | .s n =>
    if n = 0 then 0 else
    let t := tagOfS s.me.flow.lift (.s n)
    if t = 0 then mget 0 s.me.regs.s n.toNat
    else laneOf (s.vnum s.me (s.lanesOf n.toNat)) (laneIndex t 0 s.me.flow.lift.levels s.xs)
  | .qs n => s.me.flow.qs.getD n.toNat 0

/-- The position number of a field in the slot of the issue (R37): four in each V slot, one in F, M0 and M1. -/
def posOf (slot field : Nat) : Nat :=
  if slot < 5 then 4 * (slot - 2) + field else if slot = 5 then 12 else if slot = 6 then 13 else 14

/-- The value of a vector code in a field of the slot of the issue (R26, R37, R56). -/
def State.vc (s : State) (field : Nat) (c : VCode) : Vec :=
  match c with
  | .v n => s.vnum s.me (s.physV (tagOfV s.me.flow.lift n.toNat) n.toNat)
  | .qv n => s.me.flow.qv.getD n.toNat 0
  | .held => match mget none s.me.flow.holds (posOf s.issue.slot field) with | some h => h.val | none => 0

/-- The value of a predicate: p0 is all ones (R59, R334). -/
def State.pr (s : State) (n : BitVec 4) : Pred :=
  if n = 0 then BitVec.allOnes 256 else
  let l := s.me.flow.lift
  let t := tagOfP l n
  if t = 0 then mget 0 s.me.regs.p n.toNat
  else mget 0 l.predAt (instKey n.toNat t (flatIndex t 0 l.levels s.xs 0))

/-- A tile of a core, or the current instance of a tagged one (R334). -/
def State.tileOf (s : State) (n : BitVec 3) : Tile :=
  let l := s.me.flow.lift
  let t := tagOfM l n
  if t = 0 then mget [] (s.core (coreOf s.issue.agent)).tiles n.toNat
  else mget [] l.tileAt (instKey n.toNat t (flatIndex t 0 l.levels s.xs 0))

/-- The predicate's bits spread over 8-bit lanes: bit b governs byte b (R59, R151). -/
def byteMask (p : Pred) : Vec :=
  BitVec.ofNat 2048 ((List.range 256).foldl (fun a i => if p.getLsbD i then a + 255 * 2 ^ (8 * i) else a) 0)

/-- The latches after the reads of a slot (R37, R337). -/
def latchReads (s : State) (vs : List (Nat × VCode)) : FMap (Option Hold) :=
  vs.foldl (fun h p =>
    match p.2 with
    | .v n => mset none h (posOf s.issue.slot p.1) (some ⟨s.vc p.1 p.2, decide (tagOfV s.me.flow.lift n.toNat ≠ 0)⟩)
    | .qv _ => mset none h (posOf s.issue.slot p.1) none
    | .held => h) s.me.flow.holds

/-! In-flight results. -/

/-- The result of attempting a slot. -/
inductive Res where
  | ok (s : State)
  | trap (t : Trap)
  | block (b : Blk)
  | stall

/-- Continue an attempt that is in order so far. -/
def Res.bind (r : Res) (k : State → Res) : Res :=
  match r with
  | .ok s => k s
  | .trap t => .trap t
  | .block b => .block b
  | .stall => .stall

/-- A record joins the in-flight buffer, the newest. -/
def Ctx.addRec (r : Rec) (c : Ctx) : Ctx := { c with flow := { c.flow with records := c.flow.records ++ [r] } }

/-- Put a result of latency L into the in-flight buffer (R199); a full buffer stalls the bundle (R194). -/
def putRec (lat : Nat) (d : Dest) (mask val : Vec) (flags : BitVec 5) (ready : Bool) (s : State) : Res :=
  if 64 ≤ s.me.flow.records.length then .stall
  else .ok (s.tick.modMe (Ctx.addRec ⟨s.free, lat, d, mask, val, flags, ready⟩))

/-- The destination of a scalar result with a tag (R333); a tagged result into s0 goes nowhere, since it enters no queue either (R337). -/
def State.destS (s : State) (u : BitVec 3) (n : BitVec 5) : Dest :=
  if u = 0 then .scalar n.toNat
  else if n = 0 then .pred 0
  else .lane (s.lanesOf n.toNat) (laneIndex u 0 s.me.flow.lift.levels s.xs)
/-- The destination of a vector result with a tag (R332, R337). -/
def State.destV (s : State) (u : BitVec 3) (n : Nat) : Dest := .vector (s.physV u n) (u == 0)
/-- The destination of a predicate result with a tag (R334). -/
def State.destP (s : State) (u : BitVec 3) (n : BitVec 4) : Dest :=
  if u = 0 || n = 0 then .pred n.toNat else .predAt (instKey n.toNat u (flatIndex u 0 s.me.flow.lift.levels s.xs 0))

/-- Note a destination's new tag; it takes effect after the bundle's last issue (R336). Kinds: 0 s, 1 v, 2 p, 3 m. -/
def noteTag (kind n : Nat) (u : BitVec 3) (s : State) : State :=
  if s.me.flow.lift.levels.isEmpty then s
  else s.modMe fun c => { c with flow := { c.flow with retag := c.flow.retag ++ [(kind, n, u)] } }

/-- The scalar result of a slot with a tag: latency, destination, value (R56, R57). -/
def putS (u : BitVec 3) (lat : Nat) (d : BitVec 5) (v : W64) (s : State) : Res :=
  putRec lat (s.destS u d) (BitVec.allOnes 2048) (v.setWidth 2048) 0 true (noteTag 0 d.toNat u s)
/-- The vector result of a slot with a tag, under a merge mask of bits (R81). -/
def putV (u : BitVec 3) (lat : Nat) (d : Nat) (mask v : Vec) (flags : BitVec 5) (s : State) : Res :=
  putRec lat (s.destV u d) mask v flags true (noteTag 1 d u s)
/-- A predicate or tile whose result takes more levels starts each instance from the one brought into the register (R334), in the
bundle's first repeat (log 32). -/
def seedP (u : BitVec 3) (d : BitVec 4) (s : State) : State :=
  let l := s.me.flow.lift
  if u = 0 || d = 0 || u = tagOfP l d || s.me.ridx != 0 then s
  else
    let v := s.pr d
    let k := instKey d.toNat u (flatIndex u 0 l.levels s.xs 0)
    s.modMe fun c => { c with flow := { c.flow with lift := { c.flow.lift with predAt := mset 0 c.flow.lift.predAt k v } } }
/-- The same for a tile. -/
def seedM (u : BitVec 3) (m : BitVec 3) (s : State) : State :=
  let l := s.me.flow.lift
  if u = 0 || u = tagOfM l m || s.me.ridx != 0 then s
  else
    let v := s.tileOf m
    let k := instKey m.toNat u (flatIndex u 0 l.levels s.xs 0)
    s.modMe fun c => { c with flow := { c.flow with lift := { c.flow.lift with tileAt := mset [] c.flow.lift.tileAt k v } } }

/-- The predicate result of a slot with a tag, under a merge mask of bits (R81, R94). -/
def putP (u : BitVec 3) (lat : Nat) (d : BitVec 4) (mask v : Pred) (flags : BitVec 5) (s : State) : Res :=
  putRec lat (s.destP u d) (mask.setWidth 2048) (v.setWidth 2048) flags true (noteTag 2 d.toNat u (seedP u d s))

/-- Enter a scalar result queue (R56): the newest 16 stay. -/
def pushQS (v : W64) (f : Flow) : Flow := { f with qs := (v :: f.qs).take 16 }
/-- Enter a vector result queue (R56). -/
def pushQV (v : Vec) (f : Flow) : Flow := { f with qv := (v :: f.qv).take 16 }

/-- Merge bits under a mask. -/
def mergeBits {n : Nat} (mask val old : BitVec n) : BitVec n := (val &&& mask) ||| (old &&& ~~~mask)

/-- Write vN of a context under a mask; the write makes a killed register live (R61). -/
def writeV (s : State) (c : Ctx) (n : Nat) (mask val : Vec) : Ctx :=
  { c with regs := { c.regs with v := mset 0 c.regs.v n (mergeBits mask val (s.vraw c n)), killed := mset 0 c.regs.killed n 0 } }

/-- A record lands (R56, R57, R81, R114): the destination takes the value under the mask, the flags accrue, and the value
enters its result queue. -/
def landRec (s : State) (a : Nat) (r : Rec) : State :=
  let s := s.modCtx a fun c => { c with ctl := { c.ctl with fflags := c.ctl.fflags ||| r.flags } }
  let c := s.ctx a
  match r.dest with
  | .scalar n =>
    s.setCtx a { c with
      regs := if n = 0 then c.regs else { c.regs with s := mset 0 c.regs.s n (r.val.setWidth 64) }
      flow := pushQS (r.val.setWidth 64) c.flow }
  | .lane n l =>
    let m : Vec := BitVec.ofNat 2048 ((2 ^ 64 - 1) * 2 ^ (64 * l))
    s.setCtx a (writeV s c n m (r.val <<< (64 * l)))
  | .vector n q =>
    let c' := writeV s c n r.mask r.val
    s.setCtx a (if q then { c' with flow := pushQV (mget 0 c'.regs.v n) c'.flow } else c')
  | .pred n =>
    if n = 0 then s else
    s.setCtx a { c with regs := { c.regs with
      p := mset 0 c.regs.p n (mergeBits (r.mask.setWidth 256) (r.val.setWidth 256) (mget 0 c.regs.p n)) } }
  | .predAt k =>
    let l := c.flow.lift
    s.setCtx a { c with flow := { c.flow with lift := { l with
      predAt := mset 0 l.predAt k (mergeBits (r.mask.setWidth 256) (r.val.setWidth 256) (mget 0 l.predAt k)) } } }
  | .tile n idx =>
    s.modCore (coreOf a) fun k =>
      let t := mget [] k.tiles n
      { k with tiles := mset [] k.tiles n (mset 0 t idx (mergeBits r.mask r.val (mget 0 t idx)))
               busy := k.busy &&& ~~~(1#8 <<< n) }
  | .tileAt n k idx =>
    let l := c.flow.lift
    let t := mget [] l.tileAt k
    let s := s.setCtx a { c with flow := { c.flow with lift := { l with
      tileAt := mset [] l.tileAt k (mset 0 t idx (mergeBits r.mask r.val (mget 0 t idx))) } } }
    s.modCore (coreOf a) fun k => { k with busy := k.busy &&& ~~~(1#8 <<< n) }

/-- The landings of one context cycle (R199): every count falls by one, and the records at 0 land in issue order. -/
def landAll (s : State) (a : Nat) : State :=
  let rs := (s.ctx a).flow.records.map fun r => { r with count := r.count - 1 }
  let due := rs.filter fun r => r.count == 0
  let s := s.modCtx a fun c => { c with flow := { c.flow with records := rs.filter fun r => r.count != 0 } }
  due.foldl (fun s r => landRec s a r) s

/-- A record whose data has not arrived would land in the next context cycle (R149, R193). -/
def lateNow (c : Ctx) : Bool := c.flow.records.any fun r => decide (r.count ≤ 1) && !r.ready

/-! Tokens (R281-R286). -/

/-- Produce a new instance of a token for n commands (R282). The instance's number is the counter's; one that it replaces while
its commands run is kept by number. -/
def produce (a k n : Nat) (s : State) : State :=
  (s.modCtx a fun c =>
    let old := mget ({} : Token) c.toks k
    { c with past := if old.pend = 0 then c.past else mset {} c.past old.inst old
             toks := mset ({} : Token) c.toks k ({ pend := n, inst := s.free } : Token) }).tick

/-- A consumed token at issue (R282, R284): complete tokens impose no wait, an error passes on. -/
def depOf (t : Token) : Dep :=
  if t.pend ≠ 0 then .wait t.inst else if t.err then .err t.cause t.eaddr else .done

/-- An error completion counts in TOKLOG (R286). -/
def logErr (k : Nat) (cause : BitVec 8) (refusedPost : Bool) (c : Ctx) : Ctx :=
  { c with ctl := { c.ctl with
      ecnt := if c.ctl.ecnt = 65535 then 65535 else c.ctl.ecnt + 1
      lastc := cause, lastr := refusedPost, lastk := if refusedPost then 0 else BitVec.ofNat 5 k } }

/-- Resolve what the commands of a core's agent wait for (R283, R284). -/
def resolveDeps (inst : Nat) (d : Dep) (cs : List Cmd) : List Cmd :=
  cs.map fun m => { m with deps := m.deps.map fun x => if x == .wait inst then d else x }

/-- An instance after one of its commands completes (R281, R340): the error kept is that of the first erroneous command in issue
order. -/
def Token.complete (t : Token) (err : Option (BitVec 8 × W64)) (order : Nat) : Token :=
  let t := { t with pend := t.pend - 1 }
  match err with
  | none => t
  | some e => if t.err && t.errAt ≤ order then t else { t with err := true, cause := e.1, eaddr := e.2, errAt := order }

/-- A command's token instance is written complete (R283, R340), for the commands of the core and for those that a save has put into an
image (R226, R282): `out` is the token and the instance's number. An instance
that KOUT no longer names changes nothing of KOUT, but an error still counts in TOKLOG (R282). -/
def completeToken (a : Nat) (out : Option (Nat × Nat)) (err : Option (BitVec 8 × W64)) (order : Nat) (s : State) : State :=
  match out with
  | none => s
  | some (k, n) =>
    let s := match err with
      | some e => s.modCtx a (logErr k e.1 false)
      | none => s
    let c := s.ctx a
    let now := mget ({} : Token) c.toks k
    let mine := now.inst = n ∧ now.pend ≠ 0
    let t := (if mine then now else mget {} c.past n).complete err order
    let s := if mine then s.setCtx a { c with toks := mset {} c.toks k t }
      else s.setCtx a { c with past := mset {} c.past n (if t.pend = 0 then {} else t) }
    if t.pend = 0 then
      let d := if t.err then Dep.err t.cause t.eaddr else .done
      let s := s.modCore (coreOf a) fun q => { q with cmds := resolveDeps n d q.cmds }
      { s with images := s.images.map fun x => (x.1, x.2.map fun i => { i with cmds := resolveDeps n d i.cmds }) }
    else s

/-! Saving a context, services, debug stops. -/

/-- FINFO of a context (R391). -/
def finfoOf (c : Ctl) : W64 :=
  BitVec.ofNat 64 (pack [(16, 0), (1, c.fnest.toNat), (1, c.fwr.toNat), (5, c.ftokn.toNat), (1, c.ftok.toNat),
    (4, c.fsub.toNat), (4, c.fslot.toNat), (16, 0), (16, c.fimm.toNat)])

/-- Write a mailbox record (R417). -/
def writeRecord (r : Service) (s : State) : State :=
  let a := hostKey (s.dev.mbox.toNat + 32 * r.index)
  let s := s.writeLE a 4 (s.readLE a 4 + 1)
  let s := s.writeLE (a + 4) 4 (r.cause % 256)
  let s := s.writeLE (a + 8) 8 r.faddr.toNat
  let s := s.writeLE (a + 16) 8 r.finfo.toNat
  (s.writeLE (a + 24) 8 r.arg.toNat).modDev fun d => { d with irqs := d.irqs + 1 }

/-- The accesses of an agent that have still to perform. -/
def unperformed (s : State) (a : Nat) : List Nat :=
  (s.ctx a).order.pend.filterMap fun p => match p with | .store id .. => some id | .access id .. => some id | .fenceC .. => none | .fenceR .. => none

/-- A host-assisted service posts a record for the agent that waits for its answer; as a release at `.sys` it is written once the accesses it
follows have performed (R417). -/
def postFor (agent index cause : Nat) (faddr finfo arg : W64) (program : Bool) (follows : List Nat) (s : State) : State :=
  s.modDev fun d => { d with services := d.services ++ [⟨index, agent, program, true, cause, faddr, finfo, arg, follows⟩] }

/-- A record of a context's own index. -/
def postService (a cause : Nat) (faddr finfo arg : W64) (program : Bool) (follows : List Nat) (s : State) : State :=
  postFor a a cause faddr finfo arg program follows s

/-- A cause of an empty pool (R356). -/
def isRefill (t : Trap) : Bool := t.cause == 0x0C && t.sub == 1

/-- The record of a cause (R356, R417): an empty pool's under the index of pool refill, with the pool's number; any other's under the context's. -/
def postCause (a : Nat) (t : Trap) (finfo : W64) (program : Bool) (follows : List Nat) (s : State) : State :=
  if isRefill t then postFor a 2113 t.cause t.faddr finfo (.ofNat 64 t.pool) program follows s
  else postService a t.cause t.faddr finfo 0 program follows s

/-- The range counters that an agent's fences hold (R172). -/
def countersHeld (c : Ctx) : Nat :=
  (c.order.pend.filter fun p => match p with | .fenceR _ _ k => k | .store .. => false | .access .. => false | .fenceC .. => false).length

/-- Where a context's directory entry stands (R397). -/
def dirKey (s : State) (a : Nat) : Nat := s.dev.cdir.toNat * 2 ^ 14 + 8 * a

/-- The part writes the state of a context's directory entry (R397): 0 empty, 1 live, 2 saving, 3 saved, 4 stopped. -/
def setDir (a st : Nat) (s : State) : State :=
  let k := dirKey s a
  let s := s.modCtx a fun c => { c with dir := .ofNat 3 st }
  if !s.shut k then s.performByte homeAgent 0 (0, k, .ofNat 8 ((s.byte k).toNat / 8 * 8 + st)) else s

/-- The image in which a context saved in place keeps its engine state (R397). -/
def imageOf (s : State) (a : Nat) : Image := (mget none s.images a).getD {}
/-- Set it. -/
def setImage (a : Nat) (i : Option Image) (s : State) : State := { s with images := mset none s.images a i }

/-- The program that an agent has started: the identifier of its ASTART and the number under which the program is kept, on the access processor,
or, while it is suspended, elsewhere (R303, log 19). -/
def programOf (s : State) (a : Nat) : Option (Nat × Nat) :=
  match (s.core (coreOf a)).access with
  | some (o, id) => if o = a then some (id, 2048 + coreOf a) else (imageOf s a).prog
  | none => (imageOf s a).prog

/-- The agent's program is on its core's access processor. -/
def ownsAccess (s : State) (a : Nat) : Bool := match (s.core (coreOf a)).access with | some (o, _) => o == a | none => false

/-- A command of the merge-and-access queue for the access processor: while it waits for the processor, a pre-emption saves it (R303, R326). -/
def isAstart (i : Instr) : Bool := match i with | .astart .. => true | .astartPost .. => true | _ => false

/-- The program of a core's access processor is suspended with its starter (R303): it is kept under a number of its own, and its range counters
are freed (R172). -/
def suspendProgram (core n : Nat) (s : State) : State :=
  let held := countersHeld (s.ctx (2048 + core))
  let c := s.ctx (2048 + core)
  let c := { c with mode := .saved, answer := if c.mode == .blocked .walk then c.answer else none }
  ((s.setCtx n c).setCtx (2048 + core) {}).modCore core fun k =>
    { k with access := none, counters := k.counters - held }

/-- A pre-emption halts its context, ends its group (R42) and begins its image (R399): unstarted commands are saved with their tokens pending
(R225, R253, R269, R322), the program it started is saved (R303), their range counters are freed (R172). No access is drained (R167).
During the TASKEND wait EPC is left at the TASKEND bundle (R186). `cause` is what the image records. -/
def saveCtx (a cause : Nat) (s : State) : State :=
  let c := s.ctx a
  let core := coreOf a
  let mine := fun (m : Cmd) => m.agent == a && (!m.started || isAstart m.op)
  let own := ownsAccess s a
  let n := awayFrom (2048 + core) s.free
  let prog := (programOf s a).map fun p => if own then (p.1, n) else p
  let image : Image := { core := core, cmds := (s.core core).cmds.filter mine, prog := prog }
  let s := s.modCore core fun k => { k with
    active := if k.active = some (a % 4) then none else k.active, counters := k.counters - countersHeld c
    cmds := k.cmds.filter fun m => !mine m }
  let s := if own then (suspendProgram core n s).tick else s
  setDir a 2 (setImage a (some image) (s.modCtx a fun c =>
    { c with mode := .saving, saver := cause, moving := false, moveAt := [], whole := none, group := [], groupNew := []
             ctl := if c.task.ending then { c.ctl with epc := c.pc } else c.ctl }))

/-- The debugger stops the context: the live state freezes (R402). A stop and its resume are no save and restore for what a killed register
reads as (R61, log 5). -/
def stopCtx (a : Nat) (s : State) : State :=
  let s := s.modCore (coreOf a) fun k => { k with active := if k.active = some (a % 4) then none else k.active }
  setDir a 4 (s.modCtx a fun c => { c with mode := .stopped })

/-- A context leaves the issue path for a blocking cause (R193, R195), and a BARW captures the value it compares (R280). An access
processor never switches (R299). -/
def blockOn (a : Nat) (b : Blk) (s : State) : State :=
  let s := s.modCtx a fun c => { c with mode := .blocked b, barw := match b with | .bar n k g => mset none c.barw n (some (k, g)) | _ => c.barw }
  if isAccess a then s
  else s.modCore (coreOf a) fun k => { k with active := if k.active = some (a % 4) then none else k.active }

/-! Traps. -/

/-- Where a cause goes (R389). -/
inductive Route where
  | handler | service | debugger
  deriving DecidableEq, Repr

/-- The route of a cause for a context that is not privileged (R389, R356). -/
def routeOf (s : State) (c : Ctx) (t : Trap) : Route :=
  if isRefill t then (if s.dev.svcmode.getLsbD 1 then .service else .handler)
  else if 0x08 ≤ t.cause ∧ t.cause ≤ 0x0C then (if s.dev.svcmode.getLsbD 0 then .service else .handler)
  else if (t.cause = 0x28 ∨ t.cause = 0x29 ∨ t.cause = 0x2A) ∧ c.ctl.dbgctl.getLsbD 5 then .debugger
  else .handler

/-- The trap registers (R391, R392). RIDX and IIDX name the trapping issue, whose instance is c.iflat (R331, R338); TRAP's EPC is the next
bundle (R396). -/
def recordTrap (t : Trap) (epc : W64) (nest : Bool) (c : Ctx) : Ctx :=
  { c with ctl := { c.ctl with
      cause := BitVec.ofNat 8 t.cause, epc := epc
      ridx := if t.cause = 0x30 then 0 else BitVec.ofNat 6 c.ridx
      iidx := if t.cause = 0x30 then 0 else BitVec.ofNat 16 c.iflat
      faddr := t.faddr, fslot := BitVec.ofNat 4 t.slot, fsub := BitVec.ofNat 4 t.sub
      ftok := t.tok.isSome, ftokn := t.tok.getD 0, fwr := t.wr, fnest := nest, fimm := t.imm } }

/-- The KWAIT whose own cause is taken clears ERR of its token (R289). -/
def clearTok (t : Trap) (c : Ctx) : Ctx :=
  match t.tok with
  | some k => { c with toks := mset ({} : Token) c.toks k.toNat { (mget {} c.toks k.toNat : Token) with err := false } }
  | none => c

/-- Whether a debug-bit break stays noted after a trap: until its bundle has issued, as TRAP's own has (R46, R393). -/
def brkAfter (t : Trap) (f : Flow) : Bool := (f.brk && t.cause != 0x30) || t.cause == 0x29

/-- Where the bundle of a cause stands for its replay (R46, R180, R396): TRAP's own bundle is complete. The group ends (R42). -/
def replayAt (t : Trap) (epc : W64) (c : Ctx) : Ctx :=
  { c with
    pc := epc, group := [], groupNew := [], whole := none, answer := none, barw := []
    flow := { c.flow with brk := c.flow.brk && t.cause != 0x30 }
    ridx := if t.cause = 0x30 then 0 else c.ridx, iflat := if t.cause = 0x30 then 0 else c.iflat }

/-- A cause that goes to the host (R356, R394): the context is saved with its trap registers as they are, but for FINFO.NEST, which is set by a
nested trap alone, and the service record names the cause (log 25). -/
def serviceTrap (t : Trap) (epc : W64) (nest : Bool) (s : State) : State :=
  let a := s.issue.agent
  let info := finfoOf (recordTrap t epc nest (s.ctx a)).ctl
  let s := s.modCtx a fun c => clearTok t { replayAt t epc c with ctl := { c.ctl with fnest := nest } }
  (if nest then postService a t.cause t.faddr info 0 false (unperformed s a) else postCause a t info false (unperformed s a)) (saveCtx a t.cause s)

/-- Entry into the trap handler (R392): the trap part is set aside, PRIV set, the pc at TVEC. The group ends (R42). A debug-bit break that
was taken stays noted until its bundle has issued (R393). A TASKEND that waits has not issued, and comes again after the return (R186). -/
def enterHandler (t : Trap) (epc tvec : W64) (c : Ctx) : Ctx :=
  let c := clearTok t (recordTrap t epc false c)
  { c with
    saved := { c.flow with brk := brkAfter t c.flow }
    flow := {}
    task := { c.task with ending := false }
    ctl := { c.ctl with priv := true }
    pc := tvec, ridx := 0, iflat := 0, group := [], groupNew := [], hold := 0, lines := [], whole := none, barw := [], answer := none, moving := false, moveAt := [] }

/-- The loop buffer keeps no body of an agent (R178). -/
def dropBodies (a : Nat) (k : Core) : Core := { k with bodies := k.bodies.filter fun b => b.agent != a }

/-- A core's access processor has no program; the accesses of the one before keep performing (R302). -/
def freeProcessor (core : Nat) (s : State) : State :=
  (s.modCore core fun k => dropBodies (2048 + core) { k with access := none }).modCtx (2048 + core) fun c => { order := c.order }

/-- The program of a core's access processor ends with an error, which its ASTART token takes (R302). -/
def endProgram (core : Nat) (cause : BitVec 8) (addr : W64) (s : State) : State :=
  match (s.core core).access with
  | none => s
  | some (owner, id) =>
    let out := ((s.core core).cmds.find? fun m => m.id == id).bind fun m => m.out
    let s := (freeProcessor core s).modCore core fun k => { k with cmds := k.cmds.filter fun m => m.id != id }
    completeToken owner out (some (cause, addr)) id s

/-- A trap of access code (R302): a fault suspends the program and goes to fault service in the mode of R356, a record to the host, marked
by 2, or the handler of the context that started the program (log 22); any other cause ends the program, and the ASTART token completes
with the error. The fault leaves the program's group as it is: R42 speaks of a context's (log 22). -/
def accessTrap (t : Trap) (s : State) : State :=
  let a := s.issue.agent
  let core := coreOf a
  match (s.core core).access with
  | none => s
  | some (owner, _) =>
    if t.cause = 0x08 ∨ t.cause = 0x09 ∨ (t.cause = 0x0C ∧ t.wr) then
      let host := s.dev.svcmode.getLsbD (if isRefill t then 1 else 0)
      let s := s.modCtx a fun c => { recordTrap t s.issue.here false c with
        mode := .blocked .walk, answer := some t, hold := if host then 5 else 0 }
      if host then postCause owner t (finfoOf (s.ctx a).ctl) true (unperformed s a) s else s
    else endProgram core (.ofNat 8 t.cause) t.faddr s

/-- EPC of a cause in the issue (R391): TRAP's is the next bundle. -/
def epcOf (t : Trap) (s : State) : W64 :=
  if t.cause = 0x30 then s.issue.here + BitVec.ofNat 64 s.issue.length else s.issue.here

/-- Take a trap in the agent of the issue (R389, R392, R394, R356, R402). -/
def takeTrap (t : Trap) (s : State) : State :=
  let a := s.issue.agent
  let c := s.ctx a
  let epc := epcOf t s
  if isAccess a then accessTrap t s
  else if c.ctl.priv then
    serviceTrap t epc true s
  else
    match routeOf s c t with
    | .service => serviceTrap t epc false s
    | .debugger =>
      stopCtx a (s.setCtx a (recordTrap t epc false
        { replayAt t epc c with flow := { c.flow with brk := brkAfter t c.flow } }))
    | .handler => s.setCtx a (enterHandler t epc s.dev.tvec c)

/-- The return from a trap (R393): the trap part is restored, PRIV cleared, and the context issues from EPC at repeat index
RIDX and instance IIDX. -/
def trapReturn (c : Ctx) : Ctx :=
  { c with
    flow := c.saved, saved := {}
    ctl := { c.ctl with priv := false }
    pc := c.ctl.epc, ridx := c.ctl.ridx.toNat, iflat := c.ctl.iidx.toNat
    group := [], groupNew := [], hold := 0, lines := [], whole := none, answer := none }

/-! What the check of a slot alone decides (R26, R36, R43, R45, R55, R207, R329-R341). -/

/-- The window of an agent: an access processor has v0-v63 (R55, R299). -/
def windowOf (s : State) : Nat := if isAccess s.issue.agent then 64 else s.me.allot.window

/-- The vector register numbers that an instruction names by code. -/
def namedV (i : Instr) (s : State) : List Nat :=
  let n := info i
  (n.vs.map Prod.snd ++ n.pv).filterMap (fun c => match c with | .v k => some k.toNat | .qv _ => none | .held => none) ++
    n.dv.map BitVec.toNat ++ (match s.runOf i with | some (v, k) => (List.range k).map (v + ·) | none => [])

/-- A cause with the slot of the issue. -/
def State.cause (s : State) (c : Nat) (sub : Nat := 0) (faddr : W64 := 0) (wr : Bool := false) : Trap :=
  { cause := c, slot := s.issue.slot, sub := sub, faddr := faddr, wr := wr }

/-- The cause of a commit whose leaf's pool is empty (R356). -/
def State.emptyPool (s : State) (va leaf : Nat) : Trap := { s.cause 0x0C 1 (.ofNat 64 va) true with pool := leafPool leaf }
/-- The trap of a commit that gives a cause. -/
def State.poolTrap (s : State) (c va leaf : Nat) : Trap := if c = 0x0C then s.emptyPool va leaf else s.cause c 0 (.ofNat 64 va) true

/-- Illegal in this agent (R45, R47, R55, R207, R36): an opcode of the other kind of code, a register past the window, a
tile or latch that is not allotted, a predicate other than p0 in access code, an `=` on an invalid latch (a case of R36: the
bundle as a whole is over-subscribed) (log 28). -/
def illegal (i : Instr) (s : State) : Option Trap :=
  let n := info i
  let acc := isAccess s.issue.agent
  if (acc && !n.access) || (!acc && !n.code) then some (s.cause 0x01 1)
  else if (namedV i s).any (fun k => decide (windowOf s ≤ k)) then some (s.cause 0x01 2)
  else if acc && n.ps.any (· != 0) then some (s.cause 0x01 2)
  else if (match i with | .mmaVector _ _ _ tia _ kf => decide (64 < s.vectorRun tia kf) | _ => false) then some (s.cause 0x01 2)
  else if (match i with
      | .tld _ _ _ _ _ ti band | .tsd _ _ _ _ _ ti band =>
        let e := (mget 0 s.me.tis ti.toNat).toNat
        let a := e / 2 ^ 8 % 8
        decide (e / 2 ^ 4 % 16 = 3) && decide (1 ≤ a) && decide (a ≤ 3) && decide (2 ^ a ≤ band.toNat)
      | _ => false) then some (s.cause 0x01 2)
  else if n.tile.any (fun t => !s.me.allot.tiles.getLsbD t.toNat) then some (s.cause 0x01 2)
  else if n.latch.any (fun e => !s.me.allot.latches.getLsbD e.toNat) then some (s.cause 0x01 2)
  else if (match i with
      | .qpop _ _ _ q => !s.me.allot.queues.getLsbD q.toNat
      | .qpush _ _ q => !(match (s.core (coreOf s.issue.agent)).access with
          | some (o, _) => (s.ctx o).allot.queues.getLsbD q.toNat
          | none => false)
      | _ => false) then some (s.cause 0x01 2)
  else if n.vs.any (fun p => p.2 == .held && (mget none s.me.flow.holds (posOf s.issue.slot p.1)).isNone) then
    some { s.cause 0x01 3 with slot := 15 }
  else none

/-- A named register as a number: s1-s31, p1-p15 at 32 on, v0-v767 at 64 on. -/
def regS (c : SCode) : List Nat := match c with | .s n => if n = 0 then [] else [n.toNat] | .qs _ => []
/-- The vector registers that hold the enabled instances of a vector register (R338). -/
def instancesV (l : Lift) (t : BitVec 3) (n : Nat) : List Nat :=
  if t = 0 then [64 + n]
  else (enabled l t).map fun f => 64 + n + regOffset t 0 l.levels (coords l.levels t f)

/-- The scalar sources that an issue reads: the base of a sticky access is latched when it is introduced, and a re-issue does not read it
(R11, R39). -/
def scalarsRead (i : Instr) (s : State) : List SCode :=
  if s.issue.fresh then (info i).ss
  else match i with
    | .ld .. | .vld .. | .vldc .. | .cflush .. | .cinv .. | .cpref .. => []
    | .st _ _ x _ _ _ _ _ => [x]
    | .vst .. => []
    | _ => (info i).ss

/-- The named registers that an instruction reads (R43, R338). -/
def readsOf (i : Instr) (s : State) : List Nat :=
  let n := info i
  let l := s.me.flow.lift
  let sr := (scalarsRead i s).flatMap fun c => regS c ++ (match c with
    | .s k => if tagOfS l (.s k) = 0 then [] else [64 + s.lanesOf k.toNat]
    | .qs _ => [])
  let vr := ((n.vs.map Prod.snd ++ n.pv).flatMap fun c => match c with
    | .v k => instancesV l (tagOfV l k.toNat) k.toNat | .qv _ => [] | .held => [])
  let rr := match s.runOf i with | some (v, k) => (List.range k).flatMap (fun j => instancesV l (tagOfV l (v + j)) (v + j)) | none => []
  let pp := n.ps.filterMap fun p => if p = 0 then none else some (32 + p.toNat)
  sr ++ vr ++ rr ++ pp

/-- The named registers that an instruction names as destinations (R43). -/
def writesOf (i : Instr) (s : State) : List Nat :=
  let n := info i
  let l := s.me.flow.lift
  let u := resultTag i s
  (n.ds.toList.flatMap fun d => if d = 0 then [] else d.toNat :: (if u = 0 then [] else [64 + s.lanesOf d.toNat])) ++
    (n.dv.flatMap fun d => instancesV l u d.toNat) ++ (n.dp.toList.filterMap fun p => if p = 0 then none else some (32 + p.toNat))

/-- The group check (R43). -/
def groupTrap (i : Instr) (s : State) : Option Trap :=
  if (readsOf i s).any (s.me.group.contains ·) then some (s.cause 0x02) else none

/-- The tile that an instruction writes: VTR and MSAVE only read theirs. -/
def tileWritten (i : Instr) : Option (BitVec 3) :=
  match i with
  | .vtr .. | .msave .. => none
  | _ => (info i).tile

/-- Lift causes that stand before the slot's own (R337, R346, R349): an `=` on a tagged latch, or a result whose instances do not fit. -/
def liftTrap (i : Instr) (s : State) : Option Trap :=
  let l := s.me.flow.lift
  let n := info i
  if n.vs.any (fun p => p.2 == .held && (match mget none s.me.flow.holds (posOf s.issue.slot p.1) with | some h => h.tagged | none => false))
  then some (s.cause 0x12)
  else if l.levels.isEmpty then none
  else
    let u := resultTag i s
    let after := s.me.flow.retag.foldl (fun l r => setTag r.1 r.2.1 r.2.2 l) l
    let after := n.dp.toList.foldl (fun l p => if p = 0 then l else setTag 2 p.toNat u l) after
    let tile := tileWritten i
    let after := tile.toList.foldl (fun l m => setTag 3 m.toNat u l) after
    if u = 0 then none
    else
      let top := fun (k : Nat) => k + regOffset u 0 l.levels (l.levels.map fun v => v.extent - 1)
      if n.dv.any (fun d => decide (windowOf s ≤ top d.toNat)) || n.ds.any (fun d => d != 0 && decide (windowOf s ≤ s.lanesOf d.toNat))
      then some (s.cause 0x10 3)
      else if (tile.isSome || n.dp.any (· != 0)) && decide (s.me.ctl.lssize.toNat * 256 < spillNeed after) then some (s.cause 0x10 4)
      else if n.ds.any (fun d => d != 0 && decide (32 < extents u 0 l.levels)) then some (s.cause 0x10 5)
      else none

/-- Registers that CTLRD reads only in privileged state (R390). -/
def readPriv (c : BitVec 10) : Bool := decide (0x30 ≤ c.toNat)
/-- Registers that CTLWR writes only in privileged state; STATUS, TH and LIFTCFG are written without, and the registers whose
write column is "—" take no write (R390, R396). -/
def writePriv (c : BitVec 10) : Bool :=
  let n := c.toNat
  (decide (1 ≤ n) && decide (n ≤ 8)) || n == 0x1A || (decide (0x30 ≤ n) && n != 0x47 && n != 0x4B)

/-- The privileged-operation check (R393, R396, R365). -/
def privTrap (i : Instr) (s : State) : Option Trap :=
  let need := match i with
    | .ctlrd _ c => readPriv c
    | .ctlwr _ c => writePriv c
    | .eret => true
    | .tlbinv .. => true
    | _ => false
  if need && !s.me.ctl.priv then some (s.cause 0x04) else none

/-- The causes of a slot that stand before its own (R46). -/
def preTrap (i : Instr) (s : State) : Option Trap :=
  (illegal i s).orElse fun _ => (privTrap i s).orElse fun _ => (groupTrap i s).orElse fun _ => liftTrap i s

/-! Running a slot. -/

/-- The latches and the names of the group after a slot's reads. -/
def Ctx.afterSlot (h : FMap (Option Hold)) (g : List Nat) (c : Ctx) : Ctx :=
  { c with flow := { c.flow with holds := h }, groupNew := g ++ c.groupNew }

/-- A slot's sticky operation. -/
def Ctx.setSticky (n : Nat) (v : Option Sticky) (c : Ctx) : Ctx := { c with flow := { c.flow with sticky := mset none c.flow.sticky n v } }

/-- The sticky state after a slot of S, V, F or the M access layout has issued its word (R38, R39): a word with STK becomes
the live operation, a word without ends it, a re-issue advances the count. `base` is the latched base (log 29). -/
def stickyAfter (i : Instr) (base : W64) (cls : BitVec 4) (s : State) : State :=
  if 8 ≤ s.issue.slot then s else
  let v : Option Sticky := if (info i).sticky then some ⟨i, base, cls, s.issue.count + 1⟩ else none
  s.modMe (Ctx.setSticky s.issue.slot v)

/-- The latches, the group set and the destinations' names after a slot's reads (R37, R43). -/
def afterReads (i : Instr) (s : State) : State :=
  let n := info i
  if n.vs.isEmpty && n.ds.isNone && n.dv.isEmpty && n.dp.isNone then s else
  s.modMe (Ctx.afterSlot (latchReads s n.vs) (writesOf i s))

/-- The outcome of an attempt: a trap is taken, a block or a stall leaves everything but the mode as it was (R23, R46). -/
def finish (s : State) (r : Res) : Host.Outcome State Fault Refusal :=
  match r with
  | .ok t => .next t
  | .trap t => .next ((takeTrap t s).modIssue fun i => { i with status := .trapped t })
  | .block b => .next ((blockOn s.issue.agent b s).modIssue fun i => { i with status := .blocked b })
  | .stall => .next (s.modIssue fun i => { i with status := .stalled })

/-- Run a slot word: the checks that stand before its own causes, the latches, its effect, then the sticky state. The
latched base and class of an access are those of the introducing issue (R39). -/
def runSlot (i : Instr) (base : W64) (cls : BitVec 4) (k : State → Res) (s : State) : Host.Outcome State Fault Refusal :=
  finish s (match preTrap i s with
    | some t => .trap t
    | none => (k (afterReads i s)).bind fun t => .ok (stickyAfter i base cls t))

/-- Run a slot word that is no access. -/
def runOp (i : Instr) (k : State → Res) (s : State) : Host.Outcome State Fault Refusal := runSlot i 0 0 k s

end Sys2Proof.Machine
end

