-- ==== Sys2Proof/Machine/Device.lean ====
section
/-! DEFINITION. Machine/Device.lean: the use of L2 lines and banks (R145-R147, R260), the trace units (R405-R407) and
the reset of the launch ring (R407). -/

namespace Sys2Proof.Machine

/-- A tile is committed, with the traffic of its zeros and of its entry (R130, R359); else the cause: an empty pool, or one that no access
reaches. -/
def commitAs (act : Nat) (asid : BitVec 16) (va entry : Nat) (s : State) : Except Nat State :=
  match s.commitTile asid va entry with
  | none => .error (if s.poolShut (s.poolAt (leafPool (s.entryAt entry))) then 0x0A else 0x0C)
  | some t => .ok <| askBlocks act false (entry / 256 :: (List.range 256).map (leafPA (t.entryAt entry) / 256 + ·)) t

/-- A line in L2 is used: it is the most recent (R147). -/
def State.touch (s : State) (line : Nat) : State :=
  if s.l2.dirty.contains line then { s with l2 := { s.l2 with dirty := line :: s.l2.dirty.erase line } } else s

/-- A plain access of a cluster to a line counts in its window; a synchronisation access brings a line that has moved home (R145, R146). -/
def useLine (cl : Nat) (plain : Bool) (line : Nat) (s : State) : State :=
  s.modDev fun d =>
    let u := mget {} d.uses line
    if plain then { d with uses := mset {} d.uses line { u with by' := mset 0 u.by' cl (mget 0 u.by' cl + 1) } }
    else if u.away.isSome then { d with uses := mset {} d.uses line {} }
    else d

/-- Records of a type are written: the session is open and MASK admits the type (R405). -/
def traceOn (t : Trace) (type : Nat) : Bool := t.opened && (decide (type < 2) || t.mask.getLsbD type)

/-- Write the 32 bytes of a record at the buffer's next offset: a plain store at the home, as open traffic of activity 5 (R142, R405,
R406). -/
def putBytes (cl w : Nat) (s : State) : State :=
  let t := (s.cluster cl).trace
  let k := t.base.toNat * 2 ^ 12 + t.ptr.toNat % 2 ^ t.log2.toNat
  let s := traffic 5 false [k] (s.homeLE k 32 w)
  s.modCluster cl fun c => { c with trace := { c.trace with ptr := c.trace.ptr + 32 } }

/-- Write a record with its time (R406). COUNT is the record's number (log 20). -/
def putTraceAt (time cl type sub ctx : Nat) (addr data : W64) (s : State) : State :=
  let t := (s.cluster cl).trace
  putBytes cl (pack [(8, type), (8, sub), (16, ctx), (32, t.ptr.toNat / 32), (64, time), (64, addr.toNat), (64, data.toNat)]) s

/-- Write a record now. -/
def putTrace (cl type sub ctx : Nat) (addr data : W64) (s : State) : State := putTraceAt s.time cl type sub ctx addr data s

/-- A trace event (R405, R406): dropped and counted when the buffer is full and WRAP is 0. -/
def ifRoom (cl type : Nat) (put : State → State) (s : State) : State :=
  let t := (s.cluster cl).trace
  if !traceOn t type then s
  else if !t.wrap && decide (2 ^ t.log2.toNat < t.ptr.toNat + 32) then
    s.modCluster cl fun c => { c with trace := { c.trace with drop := c.trace.drop + 1 } }
  else put s

/-- A trace record. -/
def traceRec (cl type sub ctx : Nat) (addr data : W64) (s : State) : State := ifRoom cl type (putTrace cl type sub ctx addr data) s

/-- A trace event that an access meets: its record waits in the trace unit (R407, log 20). -/
def traceLater (cl type sub ctx : Nat) (addr data : W64) (s : State) : State :=
  if traceOn (s.cluster cl).trace type then
    s.modCluster cl fun c => { c with trace := { c.trace with pend := c.trace.pend ++ [(type, sub, ctx, addr, data, s.time)] } }
  else s

/-- An access to scratchpad banks; one that meets another at its bank in the same core cycle is traced (R260, R264, log 20). -/
def useBanks (agent : Nat) (ks : List Nat) (s : State) : State :=
  (ks.foldl (fun (acc : List Nat) k => if isPad k && !acc.contains (k / 2 ^ 18) then acc ++ [k / 2 ^ 18] else acc) []).foldl (fun s b =>
    let cl := (b - 2 ^ 46) / 16
    if (s.cluster cl).met.contains b then traceLater cl 10 6 (ctxNumber agent) (.ofNat 64 (spw + b % 16 * 2 ^ 18)) 0 s
    else s.modCluster cl fun c => { c with met := b :: c.met }) s

/-- An access of an agent reaches the home slices and banks of its bytes (R145, R146, R260). -/
def reach (agent : Nat) (plain : Bool) (ks : List Nat) (s : State) : State :=
  useBanks agent ks ((ks.foldl (fun (acc : List Nat) k => if isLocal k && !acc.contains (k / 128) then acc ++ [k / 128] else acc) []).foldl
    (fun s l => useLine (clusterOf agent) plain l (s.touch l)) s)

/-- A trace unit writes its pending records (R407). -/
def flushTrace (cl : Nat) (s : State) : State :=
  (s.cluster cl).trace.pend.foldl (fun s r => ifRoom cl r.1 (putTraceAt r.2.2.2.2.2 cl r.1 r.2.1 r.2.2.1 r.2.2.2.1 r.2.2.2.2.1) s)
    (s.modCluster cl fun c => { c with trace := { c.trace with pend := [] } })

/-- The four records of idle counters that follow an MMAS record: 32 one-byte counters each (R406, log 20). -/
def traceIdle (cl : Nat) (counts : List Nat) (s : State) : State :=
  [0, 32, 64, 96].foldl (fun s q => ifRoom cl 8 (putBytes cl (leNat (((counts.drop q).take 32).map fun n => BitVec.ofNat 8 n))) s) s

/-- Open a session: DROP and TRPTR are cleared and a START record is written (R405). -/
def openTrace (cl : Nat) (s : State) : State :=
  let s := s.modCluster cl fun c => { c with trace := { c.trace with opened := true, drop := 0, ptr := 0, pend := [] } }
  traceRec cl 0 0 0 0 ((s.cluster cl).trace.mask.setWidth 64) s

/-- Close a session with a reason: the pending records are written, then the END record always is; on a full buffer it replaces the newest record, which
counts in DROP (R405, R407). -/
def closeTrace (cl reason : Nat) (s : State) : State :=
  if !(s.cluster cl).trace.opened then s else
  let s := flushTrace cl s
  let t := (s.cluster cl).trace
  let s := if !t.wrap && decide (2 ^ t.log2.toNat < t.ptr.toNat + 32) then
      s.modCluster cl fun c => { c with trace := { c.trace with drop := c.trace.drop + 1, ptr := c.trace.ptr - 32 } }
    else s
  let s := putTrace cl 1 reason 0 0 ((s.cluster cl).trace.drop.setWidth 64) s
  s.modCluster cl fun c => { c with trace := { c.trace with opened := false } }

/-- A write of LQCTL: a change of BASE or LOG2N resets the queue and closes every open session (R382, R407). -/
def writeLqctl (v : W64) (s : State) : State :=
  let b : BitVec 34 := v.extractLsb' 12 34
  let n : BitVec 3 := v.extractLsb' 0 3
  if b = s.dev.lqbase ∧ n = s.dev.lqlog2 then s else
  let s := s.modDev fun d => { d with lqbase := b, lqlog2 := n, lqhead := 0, lqtail := 0 }
  (List.range 64).foldl (fun s cl => closeTrace cl 1 s) s

end Sys2Proof.Machine
end

