-- ==== Sys2Proof/Machine/Scalar.lean ====
section
/-! DEFINITION. Machine/Scalar.lean: the scalar instructions of the S slot (R70-R76) and NOP.S. -/

namespace Sys2Proof.Machine

/-- A scalar result: the value from the operands as read at issue, its latency, its destination (R70). -/
def scalarOp (i : Instr) (lat : Nat) (d : BitVec 5) (v : State → W64) (s : State) : Host.Outcome State Fault Refusal :=
  runOp i (fun t => putS (slotTag i t) lat d (v t) t) s

/-- An immediate, sign-extended to 64 bits (R70). -/
def imm {n : Nat} (i : BitVec n) : W64 := i.signExtend 64

/-- Signed or unsigned high product (R70). -/
def mulhVal (u : Bool) (a b : W64) : W64 :=
  if u then (a.zeroExtend 128 * b.zeroExtend 128).extractLsb' 64 64
  else (a.signExtend 128 * b.signExtend 128).extractLsb' 64 64

/-- Quotient toward zero; all ones for a zero divisor (R70, R71). -/
def divVal (u : Bool) (a b : W64) : W64 :=
  if b = 0 then BitVec.allOnes 64 else if u then a / b else a.sdiv b

/-- Remainder of divVal, with the sign of a; a for a zero divisor (R70, R71). -/
def remVal (u : Bool) (a b : W64) : W64 := if b = 0 then a else if u then a % b else a.srem b

/-- Lesser (R70). -/
def minVal (u : Bool) (a b : W64) : W64 := if (if u then a.ult b else a.slt b) then a else b
/-- Greater (R70). -/
def maxVal (u : Bool) (a b : W64) : W64 := if (if u then b.ult a else b.slt a) then a else b

/-- A condition of CMP (R72). -/
def cmpHolds (c : Nat) (a b : W64) : Bool :=
  match c with
  | 0 => a == b | 1 => a != b | 2 => a.slt b | 3 => !a.slt b | 4 => a.ult b | 5 => !a.ult b
  | 6 => b.slt a | 7 => !b.slt a | 8 => b.ult a | _ => !b.ult a

/-- The result of CMP (R72). -/
def cmpVal (c : Nat) (a b : W64) : W64 := if cmpHolds c a b then 1 else 0

/-- BFX (R74): the field at pos of width w, cut at bit 63, extended by sign or zero. -/
def bfxVal (sx : Bool) (a : W64) (pos w : Nat) : W64 :=
  let n := Nat.min (pos + w) 64 - pos
  let f : BitVec n := a.extractLsb' pos n
  if sx then f.signExtend 64 else f.zeroExtend 64

/-- BFI (R74): the low bits of a put into d at pos, cut at bit 63. -/
def bfiVal (d a : W64) (pos w : Nat) : W64 :=
  let m : W64 := BitVec.ofNat 64 ((2 ^ w - 1) * 2 ^ pos)
  mergeBits m (a <<< pos) d

/-- Leading zeros, 0-64 (R70). -/
def clzVal (a : W64) : W64 := BitVec.ofNat 64 (if a = 0 then 64 else 63 - Nat.log2 a.toNat)

/-- Set bits, 0-64 (R70). -/
def popcount {n : Nat} (a : BitVec n) : Nat := (List.range n).foldl (fun k i => if a.getLsbD i then k + 1 else k) 0

/-- The width of field Wk of an identifier format (R188). -/
def widWidth (fmt : W64) (k : Nat) : Nat := fmt.toNat / 2 ^ (7 * k) % 128
/-- The identifier format of a launch header (R188, R367). -/
def widFormat (s : State) (launch : Nat) : W64 :=
  match s.dev.launches.find? fun l => l.id == launch with
  | some l => BitVec.ofNat 64 (leNat ((l.hdr.drop 8).take 8))
  | none => 0

/-- The context whose task WID reads: in access code the one that issued ASTART (R76). -/
def widOwner (s : State) : Nat :=
  let a := s.issue.agent
  if isAccess a then (match (s.core (coreOf a)).access with | some (o, _) => o | none => a) else a

/-- WID (R76, R189). -/
def widVal (s : State) (t : Bool) (k : Nat) : W64 :=
  let c := s.ctx (widOwner s)
  let fmt := widFormat s c.task.launch
  if k = 7 then (if t then BitVec.ofNat 64 (fmt.toNat / 2 ^ 42 % 8) else c.task.wid)
  else
    let w := widWidth fmt k
    if t then BitVec.ofNat 64 w
    else
      let o := (List.range k).foldl (fun a j => a + widWidth fmt j) 0
      BitVec.ofNat 64 (c.task.wid.toNat / 2 ^ o % 2 ^ w)

/-- NOP.S: ends the slot's sticky operation (R11). -/
def execNopS (s : State) : Host.Outcome State Fault Refusal := runOp .nopS .ok s

/-- ADD (R70). -/
def execAddReg (st : Bool) (d : BitVec 5) (a b : SCode) (s : State) := scalarOp (.addReg st d a b) 1 d (fun t => t.sc a + t.sc b) s
/-- ADD immediate (R70). -/
def execAddImm (st : Bool) (d : BitVec 5) (a : SCode) (i : BitVec 13) (s : State) := scalarOp (.addImm st d a i) 1 d (fun t => t.sc a + imm i) s
/-- SUB (R70). -/
def execSubReg (st : Bool) (d : BitVec 5) (a b : SCode) (s : State) := scalarOp (.subReg st d a b) 1 d (fun t => t.sc a - t.sc b) s
/-- SUB immediate (R70). -/
def execSubImm (st : Bool) (d : BitVec 5) (a : SCode) (i : BitVec 13) (s : State) := scalarOp (.subImm st d a i) 1 d (fun t => t.sc a - imm i) s
/-- MUL (R70). -/
def execMulReg (st : Bool) (d : BitVec 5) (a b : SCode) (s : State) := scalarOp (.mulReg st d a b) 3 d (fun t => t.sc a * t.sc b) s
/-- MUL immediate (R70). -/
def execMulImm (st : Bool) (d : BitVec 5) (a : SCode) (i : BitVec 13) (s : State) := scalarOp (.mulImm st d a i) 3 d (fun t => t.sc a * imm i) s
/-- MULH (R70). -/
def execMulhReg (st : Bool) (d : BitVec 5) (a b : SCode) (u : Bool) (s : State) :=
  scalarOp (.mulhReg st d a b u) 4 d (fun t => mulhVal u (t.sc a) (t.sc b)) s
/-- MULH immediate (R70). -/
def execMulhImm (st : Bool) (d : BitVec 5) (a : SCode) (i : BitVec 13) (s : State) :=
  scalarOp (.mulhImm st d a i) 4 d (fun t => mulhVal false (t.sc a) (imm i)) s
/-- DIV (R70, R71). -/
def execDivReg (st : Bool) (d : BitVec 5) (a b : SCode) (u : Bool) (s : State) :=
  scalarOp (.divReg st d a b u) 20 d (fun t => divVal u (t.sc a) (t.sc b)) s
/-- DIV immediate (R70, R71). -/
def execDivImm (st : Bool) (d : BitVec 5) (a : SCode) (i : BitVec 13) (s : State) :=
  scalarOp (.divImm st d a i) 20 d (fun t => divVal false (t.sc a) (imm i)) s
/-- REM (R70, R71). -/
def execRemReg (st : Bool) (d : BitVec 5) (a b : SCode) (u : Bool) (s : State) :=
  scalarOp (.remReg st d a b u) 20 d (fun t => remVal u (t.sc a) (t.sc b)) s
/-- REM immediate (R70, R71). -/
def execRemImm (st : Bool) (d : BitVec 5) (a : SCode) (i : BitVec 13) (s : State) :=
  scalarOp (.remImm st d a i) 20 d (fun t => remVal false (t.sc a) (imm i)) s
/-- MIN (R70). -/
def execMinReg (st : Bool) (d : BitVec 5) (a b : SCode) (u : Bool) (s : State) :=
  scalarOp (.minReg st d a b u) 1 d (fun t => minVal u (t.sc a) (t.sc b)) s
/-- MIN immediate (R70). -/
def execMinImm (st : Bool) (d : BitVec 5) (a : SCode) (i : BitVec 13) (s : State) :=
  scalarOp (.minImm st d a i) 1 d (fun t => minVal false (t.sc a) (imm i)) s
/-- MAX (R70). -/
def execMaxReg (st : Bool) (d : BitVec 5) (a b : SCode) (u : Bool) (s : State) :=
  scalarOp (.maxReg st d a b u) 1 d (fun t => maxVal u (t.sc a) (t.sc b)) s
/-- MAX immediate (R70). -/
def execMaxImm (st : Bool) (d : BitVec 5) (a : SCode) (i : BitVec 13) (s : State) :=
  scalarOp (.maxImm st d a i) 1 d (fun t => maxVal false (t.sc a) (imm i)) s
/-- AND (R70). -/
def execAndReg (st : Bool) (d : BitVec 5) (a b : SCode) (s : State) := scalarOp (.andReg st d a b) 1 d (fun t => t.sc a &&& t.sc b) s
/-- AND immediate (R70). -/
def execAndImm (st : Bool) (d : BitVec 5) (a : SCode) (i : BitVec 13) (s : State) := scalarOp (.andImm st d a i) 1 d (fun t => t.sc a &&& imm i) s
/-- OR (R70). -/
def execOrReg (st : Bool) (d : BitVec 5) (a b : SCode) (s : State) := scalarOp (.orReg st d a b) 1 d (fun t => t.sc a ||| t.sc b) s
/-- OR immediate (R70). -/
def execOrImm (st : Bool) (d : BitVec 5) (a : SCode) (i : BitVec 13) (s : State) := scalarOp (.orImm st d a i) 1 d (fun t => t.sc a ||| imm i) s
/-- XOR (R70). -/
def execXorReg (st : Bool) (d : BitVec 5) (a b : SCode) (s : State) := scalarOp (.xorReg st d a b) 1 d (fun t => t.sc a ^^^ t.sc b) s
/-- XOR immediate (R70). -/
def execXorImm (st : Bool) (d : BitVec 5) (a : SCode) (i : BitVec 13) (s : State) := scalarOp (.xorImm st d a i) 1 d (fun t => t.sc a ^^^ imm i) s
/-- SHL (R70). -/
def execShlReg (st : Bool) (d : BitVec 5) (a b : SCode) (s : State) :=
  scalarOp (.shlReg st d a b) 1 d (fun t => t.sc a <<< ((t.sc b).toNat % 64)) s
/-- SHL immediate (R70). -/
def execShlImm (st : Bool) (d : BitVec 5) (a : SCode) (i : BitVec 6) (s : State) := scalarOp (.shlImm st d a i) 1 d (fun t => t.sc a <<< i.toNat) s
/-- SHR (R70). -/
def execShrReg (st : Bool) (d : BitVec 5) (a b : SCode) (s : State) :=
  scalarOp (.shrReg st d a b) 1 d (fun t => t.sc a >>> ((t.sc b).toNat % 64)) s
/-- SHR immediate (R70). -/
def execShrImm (st : Bool) (d : BitVec 5) (a : SCode) (i : BitVec 6) (s : State) := scalarOp (.shrImm st d a i) 1 d (fun t => t.sc a >>> i.toNat) s
/-- SRA (R70). -/
def execSraReg (st : Bool) (d : BitVec 5) (a b : SCode) (s : State) :=
  scalarOp (.sraReg st d a b) 1 d (fun t => (t.sc a).sshiftRight ((t.sc b).toNat % 64)) s
/-- SRA immediate (R70). -/
def execSraImm (st : Bool) (d : BitVec 5) (a : SCode) (i : BitVec 6) (s : State) :=
  scalarOp (.sraImm st d a i) 1 d (fun t => (t.sc a).sshiftRight i.toNat) s
/-- LIH (R70). -/
def execLih (st : Bool) (d : BitVec 5) (a : SCode) (i : BitVec 13) (s : State) :=
  scalarOp (.lih st d a i) 1 d (fun t => (t.sc a <<< 13) ||| i.zeroExtend 64) s
/-- CMP (R72). -/
def execCmpReg (st : Bool) (d : BitVec 5) (a b : SCode) (c : BitVec 4) (s : State) :=
  scalarOp (.cmpReg st d a b c) 1 d (fun t => cmpVal c.toNat (t.sc a) (t.sc b)) s
/-- CMP immediate (R72). -/
def execCmpImm (st : Bool) (d : BitVec 5) (a : SCode) (i : BitVec 9) (c : BitVec 4) (s : State) :=
  scalarOp (.cmpImm st d a i c) 1 d (fun t => cmpVal c.toNat (t.sc a) (imm i)) s
/-- SEL (R73). -/
def execSelReg (st : Bool) (d : BitVec 5) (a b c : SCode) (s : State) :=
  scalarOp (.selReg st d a b c) 1 d (fun t => if t.sc c ≠ 0 then t.sc a else t.sc b) s
/-- SEL immediate (R73). -/
def execSelImm (st : Bool) (d : BitVec 5) (a : SCode) (i : BitVec 7) (c : SCode) (s : State) :=
  scalarOp (.selImm st d a i c) 1 d (fun t => if t.sc c ≠ 0 then t.sc a else imm i) s
/-- BFX (R74). -/
def execBfxReg (st : Bool) (d : BitVec 5) (a b : SCode) (g : Bool) (w : BitVec 6) (s : State) :=
  scalarOp (.bfxReg st d a b g w) 1 d (fun t => bfxVal g (t.sc a) ((t.sc b).toNat % 64) (w.toNat + 1)) s
/-- BFX immediate (R74). -/
def execBfxImm (st : Bool) (d : BitVec 5) (a : SCode) (g : Bool) (p w : BitVec 6) (s : State) :=
  scalarOp (.bfxImm st d a g p w) 1 d (fun t => bfxVal g (t.sc a) p.toNat (w.toNat + 1)) s
/-- BFI (R74). -/
def execBfi (st : Bool) (d : BitVec 5) (a : SCode) (p w : BitVec 6) (s : State) :=
  scalarOp (.bfi st d a p w) 1 d (fun t => bfiVal (t.sc (.s d)) (t.sc a) p.toNat (w.toNat + 1)) s
/-- CLZ (R70). -/
def execClz (st : Bool) (d : BitVec 5) (a : SCode) (s : State) := scalarOp (.clz st d a) 1 d (fun t => clzVal (t.sc a)) s
/-- POPC (R70). -/
def execPopc (st : Bool) (d : BitVec 5) (a : SCode) (s : State) := scalarOp (.popc st d a) 1 d (fun t => BitVec.ofNat 64 (popcount (t.sc a))) s
/-- ADDS (R75). -/
def execAddsReg (st : Bool) (d : BitVec 5) (a b : SCode) (h : BitVec 4) (s : State) :=
  scalarOp (.addsReg st d a b h) 1 d (fun t => t.sc a + (t.sc b <<< h.toNat)) s
/-- ADDS immediate (R75). -/
def execAddsImm (st : Bool) (d : BitVec 5) (a : SCode) (i : BitVec 13) (s : State) :=
  scalarOp (.addsImm st d a i) 1 d (fun t => t.sc a + imm i * 256) s
/-- WID: its result is untagged (R76, R339). -/
def execWid (st : Bool) (d : BitVec 5) (t : Bool) (f : BitVec 3) (s : State) :=
  scalarOp (.wid st d t f) 1 d (fun u => widVal u t f.toNat) s

end Sys2Proof.Machine
end

