-- ==== Sys2Proof/Machine/Control.lean ====
section
/-! DEFINITION. Machine/Control.lean: the control transfers (R181-R186), the lift-call and its masks (R342-R347), and the end of
a widened bundle (R336). -/

namespace Sys2Proof.Machine

/-! Tags (R329, R336). -/

/-- The flat index over one set of levels of the instance that a flat index over another set names. -/
def reKey (ls : List LiftLevel) (frm dst : BitVec 3) (f : Nat) : Nat := flatIndex dst 0 ls (coords ls frm f) 0

/-- The instances of a bundle of a tag, in issue order (R336). -/
def bundleInstances (l : Lift) (u : BitVec 3) : List Nat := match enabled l u with | [] => [0] | x => x

/-- The instances of a bundle of tag `big` in which a slot of tag `u` acts, in issue order: the first that projects onto each instance of the
slot (R336). -/
def actors (l : Lift) (big u : BitVec 3) : List Nat :=
  let all := bundleInstances l big
  all.filter fun f => (all.find? fun g => reKey l.levels big u g == reKey l.levels big u f) == some f

/-- A tile with free contents (log 5). -/
def freeTile (n : Nat) : Tile := (List.range 256).foldl (fun t i => mset 0 t i (Config.bits (n * 1024 + i))) []

/-- An instance of a predicate or tile that takes a new tag and that no issue has written holds a free value (R334, log 5). -/
def freeInstances (k n : Nat) (u : BitVec 3) (s : State) : State :=
  let l := s.me.flow.lift
  let on := enabled l u
  let total := extents u 0 l.levels
  if on.length = total then s else
  (List.range total).foldl (fun s f =>
    if on.contains f then s else
    (s.modMe fun c => { c with flow := { c.flow with lift :=
      if k = 2 then { c.flow.lift with predAt := mset 0 c.flow.lift.predAt (instKey n u f) ((Config.bits (s.free * 1024)).setWidth 256) }
      else { c.flow.lift with tileAt := mset [] c.flow.lift.tileAt (instKey n u f) (freeTile s.free) } } }).tick) s

/-- One tag change of a bundle. -/
def retagOne (s : State) (r : Nat × Nat × BitVec 3) : State :=
  let s := if 2 ≤ r.1 && r.2.2 != 0 && r.2.2 != getTag r.1 r.2.1 s.me.flow.lift then freeInstances r.1 r.2.1 r.2.2 s else s
  s.modMe fun c => { c with flow := { c.flow with lift := setTag r.1 r.2.1 r.2.2 c.flow.lift } }

/-- The tags of a bundle's results are written after its last issue (R336). -/
def settle (s : State) : State :=
  let rs := s.me.flow.retag
  if rs.isEmpty then s
  else (rs.foldl retagOne s).modMe fun c => { c with flow := { c.flow with retag := [] } }

/-! Transfers (R175, R181, R342). -/

/-- A relative target (R181). -/
def relTarget {n : Nat} (here : W64) (ofs : BitVec n) : W64 := here + ofs.signExtend 64 * 4

/-- Where the bundle's successor stands: the target, when taken; the fetch starts again there (R177). -/
def transfer (v : Bool × W64) (s : State) : State :=
  let s := s.modMe fun c => { c with flow := { c.flow with votes := [] } }
  if v.1 then s.modIssue fun i => { i with next := v.2, taken := true } else s

/-- Note the outcome that an issue gives a control slot. -/
def addVote (v : Bool × W64) (s : State) : State :=
  s.modMe fun c => { c with flow := { c.flow with votes := if s.issue.first then [v] else c.flow.votes ++ [v] } }

/-- The outcome of a control slot in this issue, if the slot acts in it: a tag makes every issue act (R342), an untagged slot
acts in the first (R336). -/
def voteHere (u : BitVec 3) (vote : State → Bool × W64) (s : State) : State :=
  if u != 0 || s.issue.first then addVote (vote s) s else s

/-- A control slot (R181, R342): an untagged one reads and acts in the first issue, unless its effect comes after the last
(`late`); the others act in the last, when every issue gave the same outcome, and raise 0x11 otherwise. `out` is the
transfer that an outcome makes. -/
def control (i : Instr) (late : Bool) (vote : State → Bool × W64) (act : Bool × W64 → State → Res)
    (out : Bool × W64 → Bool × W64) (s : State) : Host.Outcome State Fault Refusal :=
  runOp i (fun t =>
    let early := slotTag i t == 0 && !late
    let t := voteHere (slotTag i t) vote t
    (if early && t.issue.first then act (vote t) t else .ok t).bind fun t =>
      if !t.issue.last then .ok t else
      match t.me.flow.votes with
      | [] => .ok t
      | v :: vs =>
        if vs.any (· != v) then .trap (t.cause 0x11)
        else (if early then .ok t else act v (if late then settle t else t)).bind fun t => .ok (transfer (out v) t)) s

/-- No effect beside the transfer. -/
def noAct (_ : Bool × W64) (s : State) : Res := .ok s

/-- The condition of BR and BRB on a scalar (R183). -/
def brHolds (c : BitVec 2) (v : W64) : Bool :=
  match c.toNat with
  | 0 => v == 0 | 1 => v != 0 | 2 => v.slt 0 | _ => !v.slt 0
/-- The condition of BR and BRB on a predicate, from `.any` (R183). -/
def brpHolds (c : BitVec 2) (p : Pred) : Bool :=
  match c.toNat with
  | 0 => p != 0 | 1 => p == BitVec.allOnes 256 | _ => p == 0

/-- BR on a scalar (R183). -/
def execBrScalar (c : BitVec 2) (a : SCode) (o : BitVec 16) (s : State) : Host.Outcome State Fault Refusal :=
  control (.brScalar c a o) false (fun t => (brHolds c (t.sc a), relTarget t.issue.here o)) noAct id s
/-- BR on a predicate (R183). -/
def execBrPred (c : BitVec 2) (p : BitVec 4) (o : BitVec 16) (s : State) : Host.Outcome State Fault Refusal :=
  control (.brPred c p o) false (fun t => (brpHolds c (t.pr p), relTarget t.issue.here o)) noAct id s
/-- BRA (R183). -/
def execBra (o : BitVec 25) (s : State) : Host.Outcome State Fault Refusal :=
  control (.bra o) false (fun t => (true, relTarget t.issue.here o)) noAct id s
/-- CALL (R184): the link has tag 0 (R339). -/
def execCall (d : BitVec 5) (o : BitVec 20) (s : State) : Host.Outcome State Fault Refusal :=
  control (.call d o) false (fun t => (true, relTarget t.issue.here o))
    (fun _ t => putS 0 1 d (t.issue.here + BitVec.ofNat 64 t.issue.length) t) id s

/-- The cause of a computed target (R182). -/
def targetTrap (v : W64) (s : State) : Option Trap :=
  if v.toNat % 4 ≠ 0 then some (s.cause 0x0D 0 v) else if !canonical v.toNat then some (s.cause 0x08 0 v) else none
/-- A computed target is checked; the bundle has no effect when it fails (R182). -/
def checkTarget (v : Bool × W64) (s : State) : Res :=
  match targetTrap v.2 s with
  | some t => .trap t
  | none => .ok s

/-- RET (R184). -/
def execRet (a : SCode) (s : State) : Host.Outcome State Fault Refusal :=
  control (.ret a) false (fun t => (true, t.sc a)) checkTarget id s
/-- JMPR (R184). -/
def execJmpr (a : SCode) (o : BitVec 19) (s : State) : Host.Outcome State Fault Refusal :=
  control (.jmpr a o) false (fun t => (true, relTarget (t.sc a) o)) checkTarget id s

/-- A loop level. -/
def noLoop : Loop := ⟨false, 0, 0⟩
/-- Set a loop level. -/
def setLoop (l : BitVec 3) (v : Loop) (s : State) : State :=
  s.modMe fun c => { c with flow := { c.flow with loops := mset noLoop c.flow.loops l.toNat v } }

/-- LOOPN (R185): the outcome is the count, and whether it is zero. -/
def execLoopn (l : BitVec 3) (a : SCode) (k : BitVec 16) (s : State) : Host.Outcome State Fault Refusal :=
  control (.loopn l a k) false (fun t => (t.sc a == 0, t.sc a))
    (fun v t => .ok (setLoop l
      (if v.1 then { (mget noLoop t.me.flow.loops l.toNat) with live := false }
       else ⟨true, v.2, t.issue.here + BitVec.ofNat 64 t.issue.length⟩) t))
    (fun v => (v.1, s.issue.here + k.zeroExtend 64 * 4)) s

/-- LEND (R185). -/
def execLend (l : BitVec 3) (s : State) : Host.Outcome State Fault Refusal :=
  control (.lend l) false
    (fun t => let v := mget noLoop t.me.flow.loops l.toNat; (v.live && decide (1 < v.count.toNat), v.start))
    (fun v t =>
      let w := mget noLoop t.me.flow.loops l.toNat
      .ok (setLoop l (if v.1 then { w with count := w.count - 1 } else { w with live := false }) t)) id s

/-- TASKEND (R186): while records remain it holds the issue path; then the task's end waits for what TASKEND_COMPLETE checks. -/
def execTaskend (s : State) : Host.Outcome State Fault Refusal :=
  runOp .taskend (fun t =>
    if !t.me.flow.records.isEmpty then .stall
    else
      let a := t.issue.agent
      let t := t.modMe fun c => { c with task := { c.task with ending := true } }
      .ok (blockOn a .taskend t)) s

/-! The lift-call (R345-R347). -/

/-- The fields of the lift word (R345). -/
def lwTmask (w : W64) : BitVec 8 := w.extractLsb' 56 8
/-- PNUM. -/
def lwPnum (w : W64) : Nat := (w.extractLsb' 52 4).toNat
/-- PBASE. -/
def lwPbase (w : W64) : Nat := (w.extractLsb' 48 4).toNat
/-- SNUM. -/
def lwSnum (w : W64) : Nat := (w.extractLsb' 43 5).toNat
/-- SBASE. -/
def lwSbase (w : W64) : Nat := (w.extractLsb' 38 5).toNat
/-- VNUM. -/
def lwVnum (w : W64) : Nat := (w.extractLsb' 28 10).toNat
/-- VBASE. -/
def lwVbase (w : W64) : Nat := (w.extractLsb' 18 10).toNat
/-- STRIDE. -/
def lwStride (w : W64) : Nat := (w.extractLsb' 8 10).toNat
/-- E = EXTM1 + 1. -/
def lwExtent (w : W64) : Nat := (w.extractLsb' 0 8).toNat + 1

/-- The bit of level j (from 1). -/
def levelBit (j : Nat) : BitVec 3 := 1#3 <<< (j - 1)

/-- The registers that a lift word names: kinds 0 s, 1 v, 2 p, 3 m. -/
def lwNames (w : W64) : List (Nat × Nat) :=
  (List.range (lwSnum w)).map (fun j => (0, lwSbase w + j)) ++ (List.range (lwVnum w)).map (fun j => (1, lwVbase w + j)) ++
    (List.range (lwPnum w)).map (fun j => (2, lwPbase w + j)) ++
    ((List.range 8).filter fun t => (lwTmask w).getLsbD t).map (fun t => (3, t))

/-- The highest register of the instances of a tag (R332). -/
def topInstance (ls : List LiftLevel) (u : BitVec 3) (n : Nat) : Nat :=
  n + regOffset u 0 ls (ls.map fun v => v.extent - 1)

/-- The lift state with a level and the tags that a lift word adds, before instances are copied. -/
def liftTags (w ret : W64) (l : Lift) : Lift :=
  let b := levelBit (l.levels.length + 1)
  let l' := { l with levels := l.levels ++ [⟨lwExtent w, lwStride w, ret, l.mask⟩] }
  (lwNames w).foldl (fun l x => setTag x.1 x.2 (getTag x.1 x.2 l ||| b) l) l'

/-- The reason for which LIFT fails, the lowest first (R346). A run past the last register, or s0, names no register that takes a tag:
reason 6 alone holds for it (log 31). -/
def liftReason (w : W64) (s : State) : Option Nat :=
  let l := s.me.flow.lift
  let ls := l.levels ++ [⟨lwExtent w, lwStride w, 0, []⟩]
  let b := levelBit (l.levels.length + 1)
  let l' := liftTags w 0 l
  let win := windowOf s
  let vs := ((List.range (lwVnum w)).map (lwVbase w + ·)).filter fun n => decide (n < 768)
  let ss := ((List.range (lwSnum w)).map (lwSbase w + ·)).filter fun n => decide (1 ≤ n) && decide (n < 32)
  if 3 ≤ l.levels.length then some 1
  else if 65536 < extents 7 0 ls then some 2
  else if vs.any (fun n => decide (win ≤ topInstance ls (mget 0 l.tagV n ||| b) n)) || ss.any (fun n => decide (win ≤ s.lanesOf n)) then some 3
  else if s.me.ctl.lssize.toNat * 256 < spillNeed l' then some 4
  else if ss.any (fun n => decide (32 < extents (mget 0 l.tagS n ||| b) 0 ls)) then some 5
  else if lwStride w = 0 ∨ 767 < lwStride w ∨ 767 < lwVbase w ∨ 768 < lwVbase w + lwVnum w ∨ 32 < lwSbase w + lwSnum w ∨
      16 < lwPbase w + lwPnum w ∨ (lwSnum w ≠ 0 ∧ lwSbase w = 0) ∨ (lwPnum w ≠ 0 ∧ lwPbase w = 0) ∨
      (lwTmask w &&& ~~~s.me.allot.tiles) ≠ 0 then some 6
  else none

/-- The instances of a predicate or tile after its tag changes from one set to another: each takes the value of the instance
of the old tag onto which it projects (R346), or keeps the one with the level's index 0 (R347). -/
def moveInstances {α : Type} [DecidableEq α] (d : α) (ls : List LiftLevel) (n : Nat) (frm dst : BitVec 3) (reg : α) (m : FMap α) : FMap α :=
  (List.range (extents dst 0 ls)).foldl (fun acc f =>
    mset d acc (instKey n dst f) (if frm = 0 then reg else mget d m (instKey n frm (reKey ls dst frm f)))) m

/-- Move a named predicate or tile to a new tag, 0 meaning the register itself (R346, R347). -/
def moveTagged (k n : Nat) (frm dst : BitVec 3) (s : State) : State :=
  let c := s.me
  let l := c.flow.lift
  if k = 2 then
    if dst = 0 then s.modMe fun c => { c with regs := { c.regs with p := mset 0 c.regs.p n (mget 0 l.predAt (instKey n frm 0)) } }
    else s.modMe fun c => { c with flow := { c.flow with lift :=
      { l with predAt := moveInstances 0 l.levels n frm dst (mget 0 c.regs.p n) l.predAt } } }
  else if k = 3 then
    let core := coreOf s.issue.agent
    if dst = 0 then s.modCore core fun q => { q with tiles := mset [] q.tiles n (mget [] l.tileAt (instKey n frm 0)) }
    else
      let reg := mget [] (s.core core).tiles n
      s.modMe fun c => { c with flow := { c.flow with lift := { l with tileAt := moveInstances [] l.levels n frm dst reg l.tileAt } } }
  else s

/-- LIFT's effect (R346): the new level, the extended mask, the tags, and the copies of predicates and tiles. -/
def enterLift (w ret : W64) (s : State) : State :=
  let l := s.me.flow.lift
  let b := levelBit (l.levels.length + 1)
  let e := lwExtent w
  let l' := liftTags w ret l
  let l' := { l' with mask := l.mask.flatMap fun f => (List.range e).map fun x => f * e + x }
  let s := s.modMe fun c => { c with flow := { c.flow with lift := l' } }
  (lwNames w).foldl (fun s x => moveTagged x.1 x.2 (getTag x.1 x.2 l) (getTag x.1 x.2 l ||| b) s) s

/-- LIFT (R344-R346). -/
def execLift (a : SCode) (o : BitVec 19) (s : State) : Host.Outcome State Fault Refusal :=
  control (.lift a o) true (fun t => (true, t.sc a))
    (fun v t =>
      match liftReason v.2 t with
      | some r => .trap (t.cause 0x10 r)
      | none => .ok (enterLift v.2 (t.issue.here + BitVec.ofNat 64 t.issue.length) t))
    (fun _ => (true, relTarget s.issue.here o)) s

/-- The registers that carry a level's bit: kinds 0 s, 1 v, 2 p, 3 m. -/
def taggedBy (b : BitVec 3) (l : Lift) : List (Nat × Nat) :=
  let pick := fun (k : Nat) (m : FMap (BitVec 3)) => m.filterMap fun x => if x.2 &&& b = 0 then none else some (k, x.1)
  pick 0 l.tagS ++ pick 1 l.tagV ++ pick 2 l.tagP ++ pick 3 l.tagM

/-- One register loses the level's bit (R347). -/
def untag (b : BitVec 3) (s : State) (x : Nat × Nat) : State :=
  let u := getTag x.1 x.2 s.me.flow.lift
  let s := if x.1 = 0 && (u &&& ~~~b) == 0 then
      let v := laneOf (s.vnum s.me (s.lanesOf x.2)) 0
      s.modMe fun c => { c with regs := { c.regs with s := mset 0 c.regs.s x.2 v } }
    else moveTagged x.1 x.2 u (u &&& ~~~b) s
  s.modMe fun c => { c with flow := { c.flow with lift := setTag x.1 x.2 (u &&& ~~~b) c.flow.lift } }

/-- LRET's effect (R347): registers lose the tag bit, the mask and the depth are as before the LIFT. -/
def leaveLift (top : LiftLevel) (s : State) : State :=
  let b := levelBit s.me.flow.lift.levels.length
  let s := (taggedBy b s.me.flow.lift).foldl (untag b) s
  s.modMe fun c => { c with flow := { c.flow with lift :=
    { c.flow.lift with levels := c.flow.lift.levels.dropLast, mask := top.mask } } }

/-- LRET (R347). -/
def execLret (s : State) : Host.Outcome State Fault Refusal :=
  control .lret true
    (fun t => (true, match t.me.flow.lift.levels.getLast? with | some l => l.ret | none => 0))
    (fun _ t =>
      let l := t.me.flow.lift
      match l.levels.getLast? with
      | none => .trap (t.cause 0x11)
      | some top =>
        if l.stack.getLast?.any (fun e => e.level == l.levels.length) then .trap (t.cause 0x11)
        else .ok (leaveLift top t)) id s

/-- The members of M whose instance of the bundle's tag took the branch (R343). -/
def takenMask (l : Lift) (u : BitVec 3) (votes : List (Bool × W64)) : List Nat :=
  let on := (enabled l u).zip votes
  l.mask.filter fun f => on.any fun x => x.1 == reKey l.levels 7 u f && x.2.1

/-- Change the mask and its stack. -/
def setMask (m : List Nat) (st : List MaskEntry) (s : State) : State :=
  s.modMe fun c => { c with flow := { c.flow with lift := { c.flow.lift with mask := m, stack := st } } }

/-- BRB's effect at its bundle's last issue (R343). A slot with no tag has one outcome for all. -/
def splitMask (votes : List (Bool × W64)) (target : W64) (u : BitVec 3) (s : State) : Res :=
  let l := s.me.flow.lift
  let t := if u = 0 then (if votes.any (·.1) then l.mask else []) else takenMask l s.issue.tag votes
  if t = l.mask then .ok (transfer (true, target) s)
  else if t.isEmpty then .ok (transfer (false, target) s)
  else if 8 ≤ l.stack.length then .trap (s.cause 0x11)
  else .ok (transfer (false, target) (setMask (l.mask.filter fun f => !t.contains f)
    (l.stack ++ [⟨l.levels.length, l.mask, t, target, false⟩]) s))

/-- BRB: every issue gives its outcome, the last splits the mask (R343). -/
def brb (i : Instr) (cond : State → Bool) (o : BitVec 16) (s : State) : Host.Outcome State Fault Refusal :=
  runOp i (fun t =>
    let u := slotTag i t
    let t := voteHere u (fun t => (cond t, relTarget t.issue.here o)) t
    if !t.issue.last then .ok t
    else splitMask t.me.flow.votes (relTarget t.issue.here o) u (settle t)) s

/-- BRB on a scalar (R343). -/
def execBrbScalar (c : BitVec 2) (a : SCode) (o : BitVec 16) (s : State) : Host.Outcome State Fault Refusal :=
  brb (.brbScalar c a o) (fun t => brHolds c (t.sc a)) o s
/-- BRB on a predicate (R343). -/
def execBrbPred (c : BitVec 2) (p : BitVec 4) (o : BitVec 16) (s : State) : Host.Outcome State Fault Refusal :=
  brb (.brbPred c p o) (fun t => brpHolds c (t.pr p)) o s

/-- The transfer that LJOIN makes (R343). -/
def joinVote (s : State) : Bool × W64 :=
  let l := s.me.flow.lift
  match l.stack.getLast? with
  | some e => (decide (e.level = l.levels.length) && !e.st, e.tgt)
  | none => (false, 0)
/-- LJOIN's effect on the mask (R343). -/
def joinMask (s : State) : State :=
  let l := s.me.flow.lift
  match l.stack.getLast? with
  | some e =>
    if e.level ≠ l.levels.length then s
    else if e.st then setMask e.saved l.stack.dropLast s
    else setMask e.pend (l.stack.dropLast ++ [{ e with st := true }]) s
  | none => s
/-- LJOIN (R343). -/
def execLjoin (s : State) : Host.Outcome State Fault Refusal :=
  control .ljoin true joinVote (fun _ t => .ok (joinMask t)) id s

end Sys2Proof.Machine
end

