-- ==== Sys2Proof/Machine/System.lean ====
section
/-! DEFINITION. Machine/System.lean: the control registers (R390, R391), CTLRD, CTLWR, ERET and TRAP (R393, R396). -/

namespace Sys2Proof.Machine

/-- A control register's value from its fields, the lowest first. -/
def csrPack (fs : List (Nat × Nat)) : W64 := BitVec.ofNat 64 (pack fs)

/-- STATUS (R391). -/
def statusOf (c : Ctl) : W64 :=
  csrPack [(5, c.fflags.toNat), (3, 0), (1, c.priv.toNat), (1, 0), (1, c.poisoned.toNat), (5, 0), (6, c.ridx.toNat)]

/-- LIFTCFG (R330). -/
def liftcfgOf (c : Ctl) : W64 := csrPack [(10, c.sib.toNat), (6, 0), (12, c.lssize.toNat), (4, 0), (22, c.lsbase.toNat)]
/-- LIFTSTAT (R331). -/
def liftstatOf (c : Ctx) : W64 :=
  csrPack [(2, c.flow.lift.levels.length), (10, 0), (4, c.flow.lift.stack.length), (16, 0), (16, c.ctl.iidx.toNat)]

/-- TOKST (R285). -/
def tokstOf (t : FMap Token) : W64 :=
  BitVec.ofNat 64 ((List.range 32).foldl (fun a k =>
    let x := mget ({} : Token) t k
    a + (if x.pend ≠ 0 then 2 ^ k else 0) + (if x.pend = 0 && x.err then 2 ^ (32 + k) else 0)) 0)
/-- TOKLOG (R286). -/
def toklogOf (c : Ctl) : W64 :=
  csrPack [(5, c.lastk.toNat), (1, 0), (1, c.lastr.toNat), (9, 0), (8, c.lastc.toNat), (8, 0), (16, c.ecnt.toNat)]
/-- SPSTAT (R263). -/
def spstatOf (c : Sched) : W64 :=
  csrPack [(22, if c.tbv then c.tbank * 2 ^ 18 else 0), (1, c.tbv.toNat), (8, 0), (9, c.scnt), (9, c.slen)]

/-- Entries of an access queue as its owner sees them (R308). -/
def aqCount (s : State) (a q : Nat) : Nat :=
  if (s.ctx a).allot.queues.getLsbD q then (mget [] (s.core (coreOf a)).aq q).length else 0
/-- AQSTAT (R308): ARUN is set while the program of the context runs or is suspended. -/
def aqstatOf (s : State) (a : Nat) : W64 :=
  csrPack [(8, aqCount s a 0), (8, aqCount s a 1), (8, aqCount s a 2), (8, aqCount s a 3),
    (1, (programOf s a).isSome.toNat)]

/-- TRBUF and TRCTL of a cluster (R405). -/
def trbufOf (t : Trace) : W64 := csrPack [(5, t.log2.toNat), (7, 0), (34, t.base.toNat)]
/-- TRCTL. -/
def trctlOf (t : Trace) : W64 := csrPack [(1, t.opened.toNat), (1, t.wrap.toNat), (14, 0), (16, t.mask.toNat), (32, t.drop.toNat)]

/-- CALCTL (R125). -/
def calctlOf (d : Device) : W64 :=
  csrPack [(1, 0), (1, d.calbusy.toNat), (1, d.calhost.toNat), (1, d.calerr.toNat), (3, 0), (39, d.caltbase.toNat)]
/-- SVCMODE: CAL and LEND mirror CALCTL.HOST (R356). -/
def svcmodeOf (d : Device) : W64 := csrPack [(4, d.svcmode.toNat), (1, d.calhost.toNat), (1, d.calhost.toNat)]

/-- The value of a control register as a context reads it (R390). -/
def readCsr (a : Nat) (r : BitVec 10) (s : State) : W64 :=
  let x := s.ctx a
  let c := x.ctl
  let tr := (s.cluster (clusterOf a)).trace
  match r.toNat with
  | 0x00 => statusOf c
  | 0x01 => c.cause.setWidth 64
  | 0x02 => c.epc
  | 0x03 => c.faddr
  | 0x04 => finfoOf c
  | 0x05 => c.asid.setWidth 64
  | 0x06 => c.prio.setWidth 64
  | 0x07 => c.dbgctl.setWidth 64
  | 0x08 => c.dbgstop
  | 0x09 => c.ccyc
  | 0x0A => x.regs.th.setWidth 64
  | 0x0B => liftcfgOf c
  | 0x0C => liftstatOf x
  | 0x0D => tokstOf x.toks
  | 0x0E => toklogOf c
  | 0x0F => csrPack [(5, 16 - (s.core (coreOf a)).counters), (11, 0), (32, c.fallback.toNat)]
  | 0x10 => spstatOf x.sched
  | 0x11 => aqstatOf s a
  | 0x12 => csrPack [(32, c.midle.toNat), (32, c.msteps.toNat)]
  | 0x13 => mget 0 c.args 0
  | 0x14 => mget 0 c.args 1
  | 0x15 => mget 0 c.args 2
  | 0x16 => mget 0 c.args 3
  | 0x17 => mget 0 c.args 4
  | 0x18 => mget 0 c.args 5
  | 0x19 => csrPack [(3, c.stg.toNat), (29, 0), (16, c.runs.toNat)]
  | 0x1B => csrPack [(9, s.dev.phase), (32, s.dev.rot)]
  | 0x20 => mget 0 (s.core (coreOf a)).acyc 0
  | 0x21 => mget 0 (s.core (coreOf a)).acyc 1
  | 0x22 => mget 0 (s.core (coreOf a)).acyc 2
  | 0x23 => mget 0 (s.core (coreOf a)).acyc 3
  | 0x24 => mget 0 (s.core (coreOf a)).acyc 4
  | 0x30 => c.scratch0
  | 0x31 => c.scratch1
  | 0x32 => s.dev.tvec
  | 0x40 => csrPack [(12, 0), (34, s.dev.ptbase.toNat)]
  | 0x41 => svcmodeOf s.dev
  | 0x42 => csrPack [(5, 0), (41, s.dev.poolbase.toNat)]
  | 0x43 => calctlOf s.dev
  | 0x44 => csrPack [(14, 0), (32, s.dev.cdir.toNat)]
  | 0x45 => csrPack [(5, 0), (41, s.dev.imgpool.toNat)]
  | 0x46 => csrPack [(3, s.dev.lqlog2.toNat), (9, 0), (34, s.dev.lqbase.toNat)]
  | 0x47 => s.dev.lqhead.setWidth 64
  | 0x48 => s.dev.lqtail.setWidth 64
  | 0x49 => trbufOf tr
  | 0x4A => trctlOf tr
  | 0x4B => tr.ptr
  | _ => 0

/-- A change of the control registers of a context. -/
def modCtl (a : Nat) (f : Ctl → Ctl) (s : State) : State := s.modCtx a fun c => { c with ctl := f c.ctl }

/-- A write of CALCTL (R125): ERR is cleared by a one; COMMIT starts a commit when none is in progress, unless device code
writes it in host-assisted mode: the HOST bit of the value written decides (log 49). -/
def writeCalctl (host : Bool) (v : W64) (s : State) : State :=
  s.modDev fun d =>
    let h := v.getLsbD 2
    { d with
      calat := if d.calbusy then d.calat else s.time
      caltbase := v.extractLsb' 7 39, calhost := h, calerr := d.calerr && !v.getLsbD 3
      calbusy := d.calbusy || (v.getLsbD 0 && (host || !h)) }

/-- A write of TRCTL (R405). -/
def writeTrctl (cl : Nat) (v : W64) (s : State) : State :=
  let was := (s.cluster cl).trace.opened
  let s := s.modCluster cl fun c => { c with trace := { c.trace with mask := v.extractLsb' 16 16, wrap := v.getLsbD 1 } }
  if v.getLsbD 0 then (if was then s else openTrace cl s) else closeTrace cl 0 s

/-- FINFO's fields from a value (R391). -/
def writeFinfo (v : W64) (c : Ctl) : Ctl :=
  { c with fimm := v.extractLsb' 48 16, fslot := v.extractLsb' 28 4, fsub := v.extractLsb' 24 4, ftok := v.getLsbD 23
           ftokn := v.extractLsb' 18 5, fwr := v.getLsbD 17, fnest := v.getLsbD 16 }

/-- Write the writable fields of a control register (R390, R396). `a` is the writing context; `cl` its cluster. -/
def writeCsr (host : Bool) (a : Nat) (r : BitVec 10) (v : W64) (s : State) : State :=
  match r.toNat with
  | 0x00 => modCtl a (fun c => { c with
      fflags := c.fflags &&& ~~~(v.extractLsb' 0 5), ridx := if c.priv then v.extractLsb' 16 6 else c.ridx }) s
  | 0x01 => modCtl a (fun c => { c with cause := v.extractLsb' 0 8 }) s
  | 0x02 => modCtl a (fun c => { c with epc := v }) s
  | 0x03 => modCtl a (fun c => { c with faddr := v }) s
  | 0x04 => modCtl a (writeFinfo v) s
  | 0x05 => ((modCtl a (fun c => { c with asid := v.extractLsb' 0 16 }) s).modCtx a fun c => { c with lines := [] }).modCore (coreOf a) (dropBodies a)
  | 0x06 => modCtl a (fun c => { c with prio := v.extractLsb' 0 3 }) s
  | 0x07 => modCtl a (fun c => { c with dbgctl := v.extractLsb' 0 6 }) s
  | 0x08 => modCtl a (fun c => { c with dbgstop := v }) s
  | 0x0A => s.modCtx a fun c => { c with regs := { c.regs with th := v.extractLsb' 0 32 } }
  | 0x0B => modCtl a (fun c => { c with
      lsbase := v.extractLsb' 40 14 ++ (0 : BitVec 8), lssize := v.extractLsb' 16 12, sib := v.extractLsb' 0 10 }) s
  | 0x1A => if v.getLsbD 0 then s.modCtx a fun c => { c with hold := 3, task := { c.task with rerun := true } } else s
  | 0x30 => modCtl a (fun c => { c with scratch0 := v }) s
  | 0x31 => modCtl a (fun c => { c with scratch1 := v }) s
  | 0x32 => s.modDev fun d => { d with tvec := v.extractLsb' 2 62 ++ (0 : BitVec 2) }
  | 0x40 => s.modDev fun d => { d with ptbase := v.extractLsb' 12 34 }
  | 0x41 => s.modDev fun d => { d with svcmode := v.extractLsb' 0 4 }
  | 0x42 => s.modDev fun d => { d with poolbase := v.extractLsb' 5 41 }
  | 0x43 => writeCalctl host v s
  | 0x44 => s.modDev fun d => { d with cdir := v.extractLsb' 14 32 }
  | 0x45 => s.modDev fun d => { d with imgpool := v.extractLsb' 5 41 }
  | 0x46 => writeLqctl v s
  | 0x48 => s.modDev fun d => { d with lqtail := v.extractLsb' 0 7 }
  | 0x49 => s.modCluster (clusterOf a) fun c =>
      { c with trace := { c.trace with base := v.extractLsb' 12 34, log2 := v.extractLsb' 0 5 } }
  | 0x4A => writeTrctl (clusterOf a) v s
  | _ => s

/-- CTLRD (R396): the value has tag 0 (R339). -/
def execCtlrd (d : BitVec 5) (c : BitVec 10) (s : State) : Host.Outcome State Fault Refusal :=
  runOp (.ctlrd d c) (fun t => putS 0 1 d (readCsr t.issue.agent c t) t) s

/-- CTLWR (R396): a tagged source raises 0x12 (R339), and so does LIFTCFG at a depth above 0 (R330). -/
def execCtlwr (a : SCode) (c : BitVec 10) (s : State) : Host.Outcome State Fault Refusal :=
  runOp (.ctlwr a c) (fun t =>
    let l := t.me.flow.lift
    if tagOfS l a ≠ 0 || (c == 0x0B && !l.levels.isEmpty) then .trap (t.cause 0x12)
    else .ok (writeCsr false t.issue.agent c (t.sc a) t)) s

/-- ERET (R393): the return takes place once the handler's records have landed. A bad target is a nested trap (R394, R182). -/
def execEret (s : State) : Host.Outcome State Fault Refusal :=
  runOp .eret (fun t =>
    if !t.issue.last then .ok t else
    match targetTrap t.me.ctl.epc t with
    | some x => .trap x
    | none => .ok (t.modMe fun c => { c with hold := 1 })) s

/-- TRAP (R396): cause 0x30 after the bundle's full effect; the slot's word ends its sticky operation first (R38). -/
def execTrap (i : BitVec 16) (s : State) : Host.Outcome State Fault Refusal :=
  finish s (match preTrap (.trap i) s with
    | some t => .trap t
    | none =>
      let t := stickyAfter (.trap i) 0 0 s
      if !t.issue.last then .ok t else
      let x : Trap := { cause := 0x30, slot := s.issue.slot, imm := i }
      .ok ((takeTrap x (settle t)).modIssue fun k => { k with status := .trapped x }))

end Sys2Proof.Machine
end

