-- ==== Sys2Proof/Machine/Flags.lean ====
section
/-! DEFINITION. Machine/Flags.lean: the number formats (R102-R108), rounding (R111-R113), the floating-point flags (R114) and
exact arithmetic on extended reals (R78). Codes of elements are numbers; formats are the codes of R102. -/

namespace Sys2Proof.Machine

/-- NV, DZ, OF, UF, NX (R114). -/
def fNV : BitVec 5 := 16
/-- DZ. -/
def fDZ : BitVec 5 := 8
/-- OF. -/
def fOF : BitVec 5 := 4
/-- UF. -/
def fUF : BitVec 5 := 2
/-- NX. -/
def fNX : BitVec 5 := 1

/-- An extended real: a NaN (signalling or not), an infinity, or ±n/d (n = 0 is a signed zero). -/
inductive Num where
  | nan (signalling : Bool)
  | inf (neg : Bool)
  | fin (neg : Bool) (n d : Nat)
  deriving DecidableEq, Repr

/-- m · 2^x as a fraction. -/
def scaled (m : Nat) (x : Int) : Nat × Nat :=
  match x with
  | .ofNat k => (m * 2 ^ k, 1)
  | .negSucc k => (m, 2 ^ (k + 1))

/-- A finite value in lowest terms. -/
def mkFin (neg : Bool) (n d : Nat) : Num :=
  let g := Nat.gcd n d
  if n = 0 then .fin neg 0 1 else .fin neg (n / g) (d / g)

/-- ⌊log2 (n/d)⌋ for positive n and d. -/
def log2Frac (n d : Nat) : Int :=
  let e : Int := (Nat.log2 n : Int) - (Nat.log2 d : Int)
  let s := scaled d e
  if n * s.2 < s.1 then e - 1 else e

/-- ⌊n/d / 2^x⌋. -/
def floorAt (n d : Nat) (x : Int) : Nat :=
  match x with
  | .ofNat k => n / (d * 2 ^ k)
  | .negSucc k => n * 2 ^ (k + 1) / d

/-! Formats (R102-R108). -/

/-- A float format (R104). -/
def isFloat (f : Nat) : Bool := decide (f ≤ 5)
/-- An integer format. -/
def isIntFmt (f : Nat) : Bool := decide (8 ≤ f) && decide (f ≤ 12)
/-- Exponent bits. -/
def ebOf (f : Nat) : Nat := match f with | 0 => 8 | 1 => 5 | 2 => 8 | 3 => 4 | 4 => 5 | _ => 2
/-- Fraction bits; 8 for UE8M8. -/
def mbOf (f : Nat) : Nat := match f with | 0 => 23 | 1 => 10 | 2 => 7 | 3 => 3 | 4 => 2 | 5 => 1 | _ => 8
/-- The exponent of the smallest normal: 1 - bias (R104). -/
def eminOf (f : Nat) : Int := 2 - 2 ^ (ebOf f - 1)
/-- The format has infinities (R104). -/
def hasInf (f : Nat) : Bool := f == 0 || f == 1 || f == 2 || f == 4

/-- The canonical NaN of a format, or the zero that stands for it (R104, R112). -/
def canonNaN (f : Nat) : Nat :=
  match f with
  | 0 => 0x7FC00000 | 1 => 0x7E00 | 2 => 0x7FC0 | 3 => 0x7F | 4 => 0x7E | 6 => 0x77 | 7 => 0x1B | 13 => 0xFF00 | _ => 0

/-- Canonical zero (R107, R118). -/
def canonZero (f : Nat) : Nat := match f with | 6 => 0x77 | 7 => 0x1B | _ => 0

/-- Bits of a term's code, its absent code, and the exponent of the unit, of BP8 and BP6 (R105). -/
def bpBits (f : Nat) : Nat := if f = 6 then 3 else 2
/-- The absent code. -/
def bpAbsent (f : Nat) : Nat := if f = 6 then 7 else 3
/-- Values are multiples of 2^-unit. -/
def bpUnit (f : Nat) : Nat := if f = 6 then 6 else 2

/-- A term in units (R106). -/
def bpTerm (f s c : Nat) : Int :=
  if c = bpAbsent f then 0 else (if s = 1 then -1 else 1) * 2 ^ (bpUnit f - c)
/-- The value of a BP code in units (R106). -/
def bpValue (f c : Nat) : Int :=
  let b := bpBits f
  bpTerm f (c / 2 ^ (2 * b + 1) % 2) (c / 2 ^ (b + 1) % 2 ^ b) + bpTerm f (c / 2 ^ b % 2) (c % 2 ^ b)
/-- A BP code from its terms. -/
def bpPack (f sa ca sb cb : Nat) : Nat :=
  let b := bpBits f
  ((sa * 2 ^ b + ca) * 2 + sb) * 2 ^ b + cb
/-- The codes in the order in which the canonical one is chosen (R107): the fewest terms, then the smallest code A, then B. -/
def bpOrder (f : Nat) : List Nat :=
  let a := bpAbsent f
  bpPack f 0 a 0 a :: (List.range a).flatMap (fun c => [bpPack f 0 c 0 a, bpPack f 1 c 0 a]) ++
    (List.range a).flatMap fun c => (List.range a).flatMap fun e =>
      [bpPack f 0 c 0 e, bpPack f 0 c 1 e, bpPack f 1 c 0 e, bpPack f 1 c 1 e]
/-- The canonical code of a value in units (R107). -/
def bpCode (f : Nat) (v : Int) : Nat := ((bpOrder f).find? fun c => bpValue f c == v).getD (canonZero f)
/-- The magnitudes of a BP format in units, rising. -/
def bpMags (f : Nat) : List Nat :=
  (List.range (2 * 2 ^ bpUnit f + 1)).filter fun m => (bpOrder f).any fun c => bpValue f c == m

/-- A signed number of w bits. -/
def sext (w n : Nat) : Int := if n < 2 ^ (w - 1) then n else (n : Int) - 2 ^ w
/-- The low w bits of an integer. -/
def wrap (w : Nat) (v : Int) : Nat := (v % 2 ^ w).toNat

/-- An integer as an extended real. -/
def numOfInt (v : Int) : Num := .fin (decide (v < 0)) v.natAbs 1

/-- The value of an element code (R102-R108). -/
def numOf (f c : Nat) : Num :=
  if isFloat f then
    let eb := ebOf f
    let mb := mbOf f
    let neg := c / 2 ^ (eb + mb) % 2 == 1
    let e := c / 2 ^ mb % 2 ^ eb
    let m := c % 2 ^ mb
    if hasInf f && e == 2 ^ eb - 1 then (if m = 0 then .inf neg else .nan (m / 2 ^ (mb - 1) == 0))
    else if f == 3 && e == 15 && m == 7 then .nan false
    else
      let q := if e = 0 then scaled m (eminOf f - mb) else scaled (2 ^ mb + m) (eminOf f - mb + (e : Int) - 1)
      mkFin neg q.1 q.2
  else if f = 6 ∨ f = 7 then
    let v := bpValue f (if f = 7 then c % 64 else c)
    mkFin (decide (v < 0)) v.natAbs (2 ^ bpUnit f)
  else if f = 13 then
    let e := c / 256
    if e = 0 then .fin false 0 1 else if e = 255 then .nan false
    else let q := scaled (256 + c % 256) ((e : Int) - 135); mkFin false q.1 q.2
  else if f = 11 then .fin false c 1
  else numOfInt (sext (fmtWidth f) c)

/-- The magnitudes of a format, without an upper end, are numbered: floats and UE8M8 by their code without the sign, integers by
themselves, BP by position. The magnitude of an index. -/
def magOf (f i : Nat) : Nat × Nat :=
  if f = 6 ∨ f = 7 then ((bpMags f).getD i 0, 2 ^ bpUnit f)
  else if isIntFmt f then (i, 1)
  else if f = 13 then (if i < 256 then (0, 1) else scaled (256 + i % 256) ((i / 256 : Nat) - 135 : Int))
  else
    let mb := mbOf f
    let k := i / 2 ^ mb
    if k = 0 then scaled i (eminOf f - mb) else scaled (2 ^ mb + i % 2 ^ mb) (eminOf f - mb + (k : Int) - 1)

/-- The index of the greatest magnitude that is at most n/d. -/
def floorIdx (f n d : Nat) : Nat :=
  if f = 6 ∨ f = 7 then ((bpMags f).filter fun m => decide (m * d ≤ n * 2 ^ bpUnit f)).length - 1
  else if isIntFmt f then n / d
  else if f = 13 then
    let e := log2Frac n d
    if e < -126 then 0 else ((e + 127).toNat - 1) * 256 + floorAt n d (e - 8)
  else
    let mb := mbOf f
    let e := log2Frac n d
    let x := (if e < eminOf f then eminOf f else e) - mb
    (x - (eminOf f - mb)).toNat * 2 ^ mb + floorAt n d x

/-- The next magnitude; none past the end of BP (log 30). -/
def nextIdx (f i : Nat) : Option Nat :=
  if f = 6 ∨ f = 7 then (if i + 1 < (bpMags f).length then some (i + 1) else none)
  else if f = 13 ∧ i < 256 then some 256 else some (i + 1)

/-- The index of the largest finite magnitude of a sign. -/
def maxIdx (f : Nat) (neg : Bool) : Nat :=
  match f with
  | 0 => 0x7F7FFFFF | 1 => 0x7BFF | 2 => 0x7F7F | 3 => 0x7E | 4 => 0x7B | 5 => 7
  | 6 => (bpMags 6).length - 1 | 7 => (bpMags 7).length - 1
  | 11 => 255 | 13 => 0xFEFF
  | _ => 2 ^ (fmtWidth f - 1) - (if neg then 0 else 1)

/-- The code of a signed magnitude. -/
def codeOf (f : Nat) (neg : Bool) (i : Nat) : Nat :=
  if f = 6 ∨ f = 7 then
    let m : Int := (bpMags f).getD i 0
    bpCode f (if neg then -m else m)
  else if isIntFmt f then wrap (fmtWidth f) (if neg then -(i : Int) else i)
  else if f = 13 then i
  else (if neg then 2 ^ (ebOf f + mbOf f) else 0) + i

/-- The code of an infinity. -/
def infCode (f : Nat) (neg : Bool) : Nat := (if neg then 2 ^ (ebOf f + mbOf f) else 0) + (2 ^ ebOf f - 1) * 2 ^ mbOf f

/-- The smallest normal, or the smallest nonzero magnitude (R104, R112). -/
def minNormal (f : Nat) : Nat × Nat :=
  if f = 6 ∨ f = 7 then (1, 2 ^ bpUnit f) else if isIntFmt f then (1, 1) else scaled 1 (if f = 13 then -126 else eminOf f)

/-- a < b, as fractions. -/
def fracLt (a b : Nat × Nat) : Bool := decide (a.1 * b.2 < b.1 * a.2)
/-- a = b, as fractions. -/
def fracEq (a b : Nat × Nat) : Bool := a.1 * b.2 == b.1 * a.2

/-! Rounding (R111-R113). -/

/-- The mode rounds a magnitude of a sign down. -/
def towardZero (mode : Nat) (neg : Bool) : Bool := mode == 1 || (mode == 2 && !neg) || (mode == 3 && neg)

/-- The even neighbour is the upper one; in BP the smaller magnitude wins a tie (R111). -/
def tieUp (f lo : Nat) : Bool :=
  if f = 6 ∨ f = 7 then false else if f = 13 ∧ lo < 256 then Config.scaleTieUp else lo % 2 == 1

/-- The index that a mode chooses; none past the end of BP (R111). -/
def pickIdx (f mode : Nat) (neg : Bool) (n d lo : Nat) : Option Nat :=
  let a := magOf f lo
  if fracEq (n, d) a || towardZero mode neg then some lo
  else if mode != 0 then nextIdx f lo
  else
    match nextIdx f lo with
    | none => none
    | some hi =>
      let b := magOf f hi
      let mid := (a.1 * b.2 + b.1 * a.2, a.2 * b.2)
      if fracLt mid (2 * n, d) then some hi
      else if fracEq mid (2 * n, d) then some (if tieUp f lo then hi else lo) else some lo

/-- Stochastic rounding with a draw (R113). -/
def srIdx (f : Nat) (neg : Bool) (n d lo u : Nat) : Nat :=
  match nextIdx f lo with
  | none => lo
  | some hi =>
    let a := magOf f lo
    let b := magOf f hi
    if maxIdx f neg < hi then lo
    -- (n/d - a) * 2^32 > u * (b - a)
    else if u * (b.1 * a.2 - a.1 * b.2) * d < (n * a.2 - a.1 * d) * 2 ^ 32 * b.2 then hi else lo

/-- The result is tiny after rounding, as though the exponent range had no lower end (R114): `arith` is V-slot arithmetic, for
which a value that rounds up to the smallest normal can still be tiny. -/
def tinyResult (f mode : Nat) (neg arith : Bool) (n d i : Nat) : Bool :=
  let m := minNormal f
  let r := magOf f i
  if fracLt r m then true
  else if arith && fracEq r m && fracLt (n, d) m then
    let lo := floorIdx f (2 * n) d
    (match pickIdx f mode neg (2 * n) d lo with
     | some j => fracLt (magOf f j) (2 * m.1, m.2)
     | none => false)
  else false

/-- A format without -0 (R112). -/
def noNegZero (f : Nat) : Bool := decide (6 ≤ f)

/-- The code and the flags of a value in a format: the cases of R112 in order. -/
def roundTo (f mode : Nat) (sat : Bool) (draw : Option Nat) (arith : Bool) (x : Num) : Nat × BitVec 5 :=
  match x with
  | .nan sg => (canonNaN f, if isFloat f && f != 5 || f == 13 then (if sg then fNV else 0) else fNV)
  | .inf neg =>
    if hasInf f && !sat then (infCode f neg, 0)
    else if neg && f == 13 then (0xFF00, fNV)
    else if neg && f == 11 then (0, fNV)
    else (codeOf f neg (maxIdx f neg), fNV)
  | .fin neg n d =>
    if n = 0 then (if noNegZero f then (canonZero f, 0) else (codeOf f neg 0, 0))
    else
      let lo := floorIdx f n d
      let pick := pickIdx f mode neg n d lo
      let zero := match pick with | some i => (magOf f i).1 == 0 | none => false
      let past := match pick with | some i => decide (maxIdx f neg < i) | none => true
      if neg && (f == 13 || f == 11) && !zero then (if f == 13 then 0xFF00 else 0, fNV)
      else if past then
        if isIntFmt f then (codeOf f neg (maxIdx f neg), fNV)
        else if hasInf f && !sat && !towardZero mode neg then (infCode f neg, fOF ||| fNX)
        else (codeOf f neg (maxIdx f neg), fOF ||| fNX)
      else if zero && noNegZero f then (canonZero f, fUF ||| fNX)
      else if fracEq (n, d) (magOf f lo) then (codeOf f neg lo, 0)
      else
        let i := match draw with | some u => srIdx f neg n d lo u | none => pick.getD lo
        (codeOf f neg i, if tinyResult f mode neg arith n d i then fUF ||| fNX else fNX)

/-! Exact arithmetic on extended reals (R78). Each answer has the flag that the operation itself raises. -/

/-- The NaN result of operands, with NV for a signalling one. -/
def nanOf (l : List Num) : Num × BitVec 5 :=
  (.nan false, if l.any (fun x => x == .nan true) then fNV else 0)

/-- The operand is a NaN. -/
def Num.isNaN : Num → Bool
  | .nan _ => true
  | .inf _ => false
  | .fin .. => false

/-- Sum; `rdn` is rounding toward minus infinity, which makes an exact zero negative. -/
def addNum (rdn : Bool) (a b : Num) : Num × BitVec 5 :=
  match a, b with
  | .inf x, .inf y => if x = y then (.inf x, 0) else (.nan false, fNV)
  | .inf x, .fin .. => (.inf x, 0)
  | .fin .., .inf y => (.inf y, 0)
  | .fin x n d, .fin y m e =>
    if n = 0 ∧ m = 0 then (.fin (if x = y then x else rdn) 0 1, 0)
    else
      let v : Int := (if x then -1 else 1) * (n * e : Nat) + (if y then -1 else 1) * (m * d : Nat)
      if v = 0 then (.fin rdn 0 1, 0) else (mkFin (decide (v < 0)) v.natAbs (d * e), 0)
  | x, y => nanOf [x, y]

/-- Product. -/
def mulNum (a b : Num) : Num × BitVec 5 :=
  match a, b with
  | .inf x, .inf y => (.inf (x != y), 0)
  | .inf x, .fin y n _ => if n = 0 then (.nan false, fNV) else (.inf (x != y), 0)
  | .fin x n _, .inf y => if n = 0 then (.nan false, fNV) else (.inf (x != y), 0)
  | .fin x n d, .fin y m e => (mkFin (x != y) (n * m) (d * e), 0)
  | x, y => nanOf [x, y]

/-- The negated value. -/
def negNum : Num → Num
  | .nan s => .nan s
  | .inf x => .inf (!x)
  | .fin x n d => .fin (!x) n d

/-- a · b + c with NV for zero times infinity whatever c is (R78). -/
def fmaNum (rdn : Bool) (a b c : Num) : Num × BitVec 5 :=
  let p := mulNum a b
  let r := addNum rdn p.1 c
  (r.1, p.2 ||| r.2)

/-- a < b for values that are no NaN; -0 lies below +0 where `zeros` is set. -/
def numLt (zeros : Bool) (a b : Num) : Bool :=
  match a, b with
  | .inf x, .inf y => x && !y
  | .inf x, .fin .. => x
  | .fin .., .inf y => !y
  | .fin x n d, .fin y m e =>
    if n = 0 ∧ m = 0 then zeros && x && !y
    else
      let v : Int := (if x then -1 else 1) * (n * e : Nat)
      let w : Int := (if y then -1 else 1) * (m * d : Nat)
      decide (v < w)
  | _, _ => false

/-- a · 2^k, exact; the exponent is cut where it no longer matters to any format. -/
def scaleNum (x : Num) (k : Int) : Num :=
  match x with
  | .fin s n d =>
    let q := scaled 1 (if k < -2000 then -2000 else if 2000 < k then 2000 else k)
    mkFin s (n * q.1) (d * q.2)
  | y => y

/-- Exact quotient by a positive finite value. -/
def divNum (x y : Num) : Num :=
  match x, y with
  | .fin s n d, .fin _ m e => mkFin s (n * e) (d * m)
  | z, _ => z

/-- The stochastic generator's next value (R113). -/
def nextGen (x : W32) : W32 := x * 0x2C9F8A45 + 0x6D2B79F5

end Sys2Proof.Machine
end

