-- ==== Sys2Proof/Machine/Operands.lean ====
section
/-! DEFINITION. Machine/Operands.lean: lanes and element types (R77), predicates over lanes (R59), the merge of results (R81),
and the element operations with their latencies (R78-R80, R83). -/

namespace Sys2Proof.Machine

/-- Lane i of width w, as a number (R2). -/
def laneN (w : Nat) (v : Vec) (i : Nat) : Nat := v.toNat / 2 ^ (w * i) % 2 ^ w

/-- The bits of the lanes of width w, lane 0 first. -/
def joinLanes (w : Nat) (l : List Nat) : Nat := l.foldr (fun x acc => x % 2 ^ w + 2 ^ w * acc) 0
/-- A vector from its lanes of width w. -/
def ofLanes (w : Nat) (l : List Nat) : Vec := BitVec.ofNat 2048 (joinLanes w l)

/-- The predicate's bit for lane i of width w (R59). -/
def predLane (w : Nat) (p : Pred) (i : Nat) : Bool := p.getLsbD (w * i / 8)

/-- All bits of the lanes that a predicate selects. -/
def laneMask (w : Nat) (p : Pred) : Vec :=
  ofLanes w ((List.range (2048 / w)).map fun i => if predLane w p i then 2 ^ w - 1 else 0)

/-- The flags of the lanes whose result is kept (R82). -/
def keptFlags (w : Nat) (p : Pred) (r : List (Nat × BitVec 5)) : BitVec 5 :=
  (r.zipIdx.filter fun x => predLane w p x.2).foldl (fun f x => f ||| x.1.2) 0

/-- A lane-by-lane result with the merge of R81: lanes by number, their flags, the predicate and Z. -/
def putLanes (u : BitVec 3) (lat : Nat) (d : BitVec 10) (w : Nat) (p : Pred) (z : Bool) (r : List (Nat × BitVec 5)) (s : State) : Res :=
  let m := laneMask w p
  let v := ofLanes w (r.map Prod.fst)
  putV u lat d.toNat (if z then BitVec.allOnes 2048 else m) (if z then v &&& m else v) (keptFlags w p r) s

/-- A bitwise predicate result with the merge of R81. -/
def putPred (u : BitVec 3) (lat : Nat) (d : BitVec 4) (g : Pred) (z : Bool) (v : Pred) (fl : BitVec 5) (s : State) : Res :=
  putP u lat d (if z then BitVec.allOnes 256 else g) (if z then v &&& g else v) fl s

/-! Element operations under a MODE (R77-R79, R83). -/

/-- The float format of a MODE below 12. -/
def modeFmt (m : Nat) : Nat := m / 4
/-- The width in bits of a MODE's elements, by number. -/
def widthOf (m : Nat) : Nat := modeWidth (BitVec.ofNat 4 m)
/-- The MODE is an integer type. -/
def isInt (m : Nat) : Bool := decide (12 ≤ m)
/-- The value of an integer element: unsigned under UINT8 only (R79). -/
def intVal (m a : Nat) : Int := if m = 15 then a else sext (widthOf m) a

/-- Round the result of a float operation, with the flags of both (R78, R114). -/
def rounded (m : Nat) (x : Num × BitVec 5) : Nat × BitVec 5 :=
  let r := roundTo (modeFmt m) (m % 4) false none true x.1
  (r.1, r.2 ||| x.2)

/-- a + b. -/
def elAdd (m a b : Nat) : Nat × BitVec 5 :=
  if isInt m then (wrap (widthOf m) (a + b), 0)
  else rounded m (addNum (m % 4 == 2) (numOf (modeFmt m) a) (numOf (modeFmt m) b))
/-- a - b. -/
def elSub (m a b : Nat) : Nat × BitVec 5 :=
  if isInt m then (wrap (widthOf m) ((a : Int) - b), 0)
  else rounded m (addNum (m % 4 == 2) (numOf (modeFmt m) a) (negNum (numOf (modeFmt m) b)))
/-- a · b. -/
def elMul (m a b : Nat) : Nat × BitVec 5 :=
  if isInt m then (wrap (widthOf m) (a * b), 0) else rounded m (mulNum (numOf (modeFmt m) a) (numOf (modeFmt m) b))
/-- a · b + c, rounded once. -/
def elFma (m a b c : Nat) : Nat × BitVec 5 :=
  if isInt m then (wrap (widthOf m) (a * b + c), 0)
  else rounded m (fmaNum (m % 4 == 2) (numOf (modeFmt m) a) (numOf (modeFmt m) b) (numOf (modeFmt m) c))

/-- The lesser or the greater (R78, R79). -/
def elPick (greater : Bool) (m a b : Nat) : Nat × BitVec 5 :=
  if isInt m then
    (if (if greater then decide (intVal m b < intVal m a) else decide (intVal m a < intVal m b)) then a else b, 0)
  else
    let f := modeFmt m
    let x := numOf f a
    let y := numOf f b
    let fl := (nanOf [x, y]).2
    if x.isNaN && y.isNaN then (canonNaN f, fl)
    else if x.isNaN then (b, fl)
    else if y.isNaN then (a, fl)
    else (if (if greater then numLt true y x else numLt true x y) then a else b, fl)

/-- The sign bit of an element. -/
def signBit (m : Nat) : Nat := 2 ^ (widthOf m - 1)
/-- VABS (R78, R79). -/
def elAbs (m a : Nat) : Nat :=
  if m = 15 then a else if isInt m then wrap (widthOf m) (intVal m a).natAbs else a % signBit m
/-- VNEG (R78, R79). -/
def elNeg (m a : Nat) : Nat := if isInt m then wrap (widthOf m) (-(a : Int)) else a ^^^ signBit m
/-- A shift count (R79). -/
def elCount (m b : Nat) : Nat := b % widthOf m
/-- VSRA. -/
def elSra (m a b : Nat) : Nat := wrap (widthOf m) (sext (widthOf m) a / 2 ^ elCount m b)

/-- A cascade operation with the running value first (R28, R83). -/
def elCasc (o : CascOp) (m t x : Nat) : Nat × BitVec 5 :=
  match o with
  | .add => elAdd m t x
  | .sub => elSub m t x
  | .rsub => elSub m x t
  | .mul => elMul m t x
  | .min => elPick false m t x
  | .max => elPick true m t x
  | .and => (t &&& x, 0)

/-- The latency of an arithmetic unit (R80). -/
def arithLat (m : Nat) : Nat := if isInt m then 2 else 4
/-- The latency of a cascade unit (R80). -/
def cascLat (o : CascOp) (m : Nat) : Nat :=
  match o with
  | .add | .sub | .rsub | .mul => arithLat m
  | .min | .max | .and => 2
/-- The latency of the units after the first. -/
def chainLat (m : Nat) : Chain → Nat
  | .none => 0
  | .one o _ => cascLat o m
  | .two o _ p _ => cascLat o m + cascLat p m

/-- The value of a lane after the units that follow the first, each rounding its own result (R80). -/
def chainLane (m : Nat) (ch : Chain) (t : Nat × BitVec 5) (xs : List Nat) : Nat × BitVec 5 :=
  match ch with
  | .none => t
  | .one o _ => let r := elCasc o m t.1 (xs.getD 0 0); (r.1, r.2 ||| t.2)
  | .two o _ p _ =>
    let r := elCasc o m t.1 (xs.getD 0 0)
    let q := elCasc p m r.1 (xs.getD 1 0)
    (q.1, q.2 ||| r.2 ||| t.2)

end Sys2Proof.Machine
end

