-- ==== Sys2Proof/Machine/Vector.lean ====
section
/-! DEFINITION. Machine/Vector.lean: the V-slot instructions (R83-R97, R348) but for the conversions. -/

namespace Sys2Proof.Machine

/-- The tag of a slot in its context. -/
def State.utag (s : State) (i : Instr) : BitVec 3 := slotTag i s

/-- NOP.V (R11). -/
def execNopV (s : State) : Host.Outcome State Fault Refusal := runOp .nopV .ok s

/-- A chainable instruction (R80, R83): its sources in fields A, B, C, the first unit's operation and latency, its cascade. -/
def chained (i : Instr) (h : VHead) (d : BitVec 10) (xs : List VCode) (ch : Chain) (lat : Nat)
    (op1 : List Nat → Nat × BitVec 5) (s : State) : Host.Outcome State Fault Refusal :=
  runOp i (fun t =>
    let m := h.mode.toNat
    let w := widthOf m
    let src := xs.zipIdx.map fun x => t.vc x.2 x.1
    let ext := (ch.srcs xs.length).map fun x => t.vc x.1 x.2
    let r := (List.range (2048 / w)).map fun l => chainLane m ch (op1 (src.map fun v => laneN w v l)) (ext.map fun v => laneN w v l)
    putLanes (t.utag i) (lat + chainLat m ch) d w (t.pr h.pred) h.z r t) s

/-- The first and second source lane. -/
def lane0 (l : List Nat) : Nat := l.getD 0 0
/-- The second. -/
def lane1 (l : List Nat) : Nat := l.getD 1 0
/-- The third. -/
def lane2 (l : List Nat) : Nat := l.getD 2 0

/-- VADD (R83). -/
def execVadd (h : VHead) (d : BitVec 10) (a b : VCode) (ch : Chain) (s : State) :=
  chained (.vadd h d a b ch) h d [a, b] ch (arithLat h.mode.toNat) (fun l => elAdd h.mode.toNat (lane0 l) (lane1 l)) s
/-- VSUB (R83). -/
def execVsub (h : VHead) (d : BitVec 10) (a b : VCode) (ch : Chain) (s : State) :=
  chained (.vsub h d a b ch) h d [a, b] ch (arithLat h.mode.toNat) (fun l => elSub h.mode.toNat (lane0 l) (lane1 l)) s
/-- VMUL (R83). -/
def execVmul (h : VHead) (d : BitVec 10) (a b : VCode) (ch : Chain) (s : State) :=
  chained (.vmul h d a b ch) h d [a, b] ch (arithLat h.mode.toNat) (fun l => elMul h.mode.toNat (lane0 l) (lane1 l)) s
/-- VFMA (R83). -/
def execVfma (h : VHead) (d : BitVec 10) (a b c : VCode) (ch : Chain) (s : State) :=
  chained (.vfma h d a b c ch) h d [a, b, c] ch (arithLat h.mode.toNat) (fun l => elFma h.mode.toNat (lane0 l) (lane1 l) (lane2 l)) s
/-- VMIN (R83). -/
def execVmin (h : VHead) (d : BitVec 10) (a b : VCode) (ch : Chain) (s : State) :=
  chained (.vmin h d a b ch) h d [a, b] ch 2 (fun l => elPick false h.mode.toNat (lane0 l) (lane1 l)) s
/-- VMAX (R83). -/
def execVmax (h : VHead) (d : BitVec 10) (a b : VCode) (ch : Chain) (s : State) :=
  chained (.vmax h d a b ch) h d [a, b] ch 2 (fun l => elPick true h.mode.toNat (lane0 l) (lane1 l)) s
/-- VABS (R83). -/
def execVabs (h : VHead) (d : BitVec 10) (a : VCode) (ch : Chain) (s : State) :=
  chained (.vabs h d a ch) h d [a] ch 2 (fun l => (elAbs h.mode.toNat (lane0 l), 0)) s
/-- VNEG (R83). -/
def execVneg (h : VHead) (d : BitVec 10) (a : VCode) (ch : Chain) (s : State) :=
  chained (.vneg h d a ch) h d [a] ch 2 (fun l => (elNeg h.mode.toNat (lane0 l), 0)) s
/-- VAND (R83). -/
def execVand (h : VHead) (d : BitVec 10) (a b : VCode) (ch : Chain) (s : State) :=
  chained (.vand h d a b ch) h d [a, b] ch 2 (fun l => (lane0 l &&& lane1 l, 0)) s
/-- VOR (R83). -/
def execVor (h : VHead) (d : BitVec 10) (a b : VCode) (ch : Chain) (s : State) :=
  chained (.vor h d a b ch) h d [a, b] ch 2 (fun l => (lane0 l ||| lane1 l, 0)) s
/-- VXOR (R83). -/
def execVxor (h : VHead) (d : BitVec 10) (a b : VCode) (ch : Chain) (s : State) :=
  chained (.vxor h d a b ch) h d [a, b] ch 2 (fun l => (lane0 l ^^^ lane1 l, 0)) s
/-- VSHL (R83). -/
def execVshl (h : VHead) (d : BitVec 10) (a b : VCode) (ch : Chain) (s : State) :=
  chained (.vshl h d a b ch) h d [a, b] ch 2
    (fun l => (wrap (widthOf h.mode.toNat) (lane0 l * 2 ^ elCount h.mode.toNat (lane1 l)), 0)) s
/-- VSHR (R83). -/
def execVshr (h : VHead) (d : BitVec 10) (a b : VCode) (ch : Chain) (s : State) :=
  chained (.vshr h d a b ch) h d [a, b] ch 2 (fun l => (lane0 l / 2 ^ elCount h.mode.toNat (lane1 l), 0)) s
/-- VSRA (R83). -/
def execVsra (h : VHead) (d : BitVec 10) (a b : VCode) (ch : Chain) (s : State) :=
  chained (.vsra h d a b ch) h d [a, b] ch 2 (fun l => (elSra h.mode.toNat (lane0 l) (lane1 l), 0)) s
/-- VMOV (R83). -/
def execVmov (h : VHead) (d : BitVec 10) (a : VCode) (ch : Chain) (s : State) :=
  chained (.vmov h d a ch) h d [a] ch 2 (fun l => (lane0 l, 0)) s

/-! Comparison and selection. -/

/-- The condition of VCMP on integers (R85). -/
def intCond (m c a b : Nat) : Bool :=
  let x := intVal m a
  let y := intVal m b
  match c with
  | 0 => a == b | 1 => a != b | 2 => decide (x < y) | 3 => decide (y ≤ x) | 4 => decide (a < b) | 5 => decide (b ≤ a)
  | 6 => decide (y < x) | 7 => decide (x ≤ y) | 8 => decide (b < a) | _ => decide (a ≤ b)

/-- The condition of VCMP on floats, with NV (R85). -/
def floatCond (m c a b : Nat) : Bool × BitVec 5 :=
  let x := numOf (modeFmt m) a
  let y := numOf (modeFmt m) b
  let nan := x.isNaN || y.isNaN
  let quiet := (nanOf [x, y]).2
  let loud := if nan then fNV else 0
  let lt := numLt false x y
  let gt := numLt false y x
  match c with
  | 0 => (!nan && !lt && !gt, quiet)
  | 1 => (nan || lt || gt, quiet)
  | 2 => (!nan && lt, loud)
  | 3 => (!nan && !lt, loud)
  | 6 => (!nan && gt, loud)
  | 7 => (!nan && !gt, loud)
  | 10 => (nan, quiet)
  | _ => (!nan, quiet)

/-- One lane of VCMP. -/
def elCmp (m c a b : Nat) : Bool × BitVec 5 := if isInt m then (intCond m c a b, 0) else floatCond m c a b

/-- A predicate from a lane condition: each lane's bits alike (R59). -/
def predOf (w : Nat) (l : List Bool) : Pred := BitVec.ofNat 256 (joinLanes (w / 8) (l.map fun b => if b then 2 ^ (w / 8) - 1 else 0))

/-- The bits of the elements that a predicate governs (R59): bit w·i decides for all of element i's bits. -/
def predSpread (w : Nat) (g : Pred) : Pred := predOf w ((List.range (2048 / w)).map (predLane w g))

/-- VCMP (R85): a governed element's bits are written alike (log 27). -/
def execVcmp (h : VHead) (pd : BitVec 4) (a b : VCode) (c : BitVec 6) (s : State) : Host.Outcome State Fault Refusal :=
  runOp (.vcmp h pd a b c) (fun t =>
    let m := h.mode.toNat
    let w := widthOf m
    let x := t.vc 0 a
    let y := t.vc 1 b
    let g := t.pr h.pred
    let r := (List.range (2048 / w)).map fun l => elCmp m c.toNat (laneN w x l) (laneN w y l)
    putPred (t.utag (.vcmp h pd a b c)) 2 pd (predSpread w g) h.z (predOf w (r.map Prod.fst))
      (keptFlags w g (r.map fun x => (0, x.2))) t) s

/-- An instruction that gives each lane a value from its sources and raises no flag. -/
def lanewise (i : Instr) (h : VHead) (d : BitVec 10) (w lat : Nat) (f : State → Nat → Nat) (s : State) :
    Host.Outcome State Fault Refusal :=
  runOp i (fun t =>
    putLanes (t.utag i) lat d w (t.pr h.pred) h.z ((List.range (2048 / w)).map fun l => (f t l, 0)) t) s

/-- VSEL (R86). -/
def execVsel (h : VHead) (d : BitVec 10) (a b : VCode) (ps : BitVec 4) (s : State) : Host.Outcome State Fault Refusal :=
  let w := widthOf h.mode.toNat
  lanewise (.vsel h d a b ps) h d w 2
    (fun t l => if predLane w (t.pr ps) l then laneN w (t.vc 0 a) l else laneN w (t.vc 1 b) l) s

/-- Clamp to a signed range of w bits. -/
def satInt (w : Nat) (v : Int) : Int :=
  if v < -(2 ^ (w - 1)) then -(2 ^ (w - 1)) else if 2 ^ (w - 1) - 1 < v then 2 ^ (w - 1) - 1 else v

/-- One lane of VMAC16 (R87). -/
def mac16 (a b c sh : Nat) : Nat :=
  let prod := sext 16 b * sext 16 c
  let prod := if sh = 0 then prod else (prod + 2 ^ (sh - 1)) / 2 ^ sh
  wrap 16 (satInt 16 (sext 16 a + prod))

/-- VMAC16 (R87). -/
def execVmac16 (h : VHead) (d : BitVec 10) (a b c : VCode) (sh : BitVec 4) (s : State) : Host.Outcome State Fault Refusal :=
  lanewise (.vmac16 h d a b c sh) h d 16 4
    (fun t l => mac16 (laneN 16 (t.vc 0 a) l) (laneN 16 (t.vc 1 b) l) (laneN 16 (t.vc 2 c) l) sh.toNat) s

/-- One lane of VDOT4 (R88). -/
def dot4 (m : Nat) (a b c : Nat) : Nat :=
  let e := fun (x j : Nat) => intVal m (x / 2 ^ (8 * j) % 256)
  wrap 32 ((List.range 4).foldl (fun s j => s + e a j * e b j) (c : Int))

/-- VDOT4 (R88): 32-bit lanes whatever the MODE. -/
def execVdot4 (h : VHead) (d : BitVec 10) (a b c : VCode) (s : State) : Host.Outcome State Fault Refusal :=
  lanewise (.vdot4 h d a b c) h d 32 4
    (fun t l => dot4 h.mode.toNat (laneN 32 (t.vc 0 a) l) (laneN 32 (t.vc 1 b) l) (laneN 32 (t.vc 2 c) l)) s

/-! Reductions and scans (R89, R90). -/

/-- The combining operation. -/
def comb (m op a b : Nat) : Nat × BitVec 5 :=
  match op with
  | 0 => elAdd m a b
  | 1 => elPick false m a b
  | 2 => elPick true m a b
  | 3 => (a &&& b, 0)
  | 4 => (a ||| b, 0)
  | _ => (a ^^^ b, 0)

/-- The identity of a combining operation (R89). -/
def identity (m op : Nat) : Nat :=
  let w := widthOf m
  match op with
  | 1 => if !isInt m then infCode (modeFmt m) false else if m = 15 then 255 else 2 ^ (w - 1) - 1
  | 2 => if !isInt m then infCode (modeFmt m) true else if m = 15 then 0 else 2 ^ (w - 1)
  | 3 => 2 ^ w - 1
  | _ => 0

/-- A partial result: none, or a value with the flags raised so far. -/
def combOpt (m op : Nat) (x y : Option (Nat × BitVec 5)) : Option (Nat × BitVec 5) :=
  match x, y with
  | none, y => y
  | x, none => x
  | some a, some b => let r := comb m op a.1 b.1; some (r.1, r.2 ||| a.2 ||| b.2)

/-- One level of the tree (R89): neighbours combine in pairs. -/
def pairUp (m op : Nat) : List (Option (Nat × BitVec 5)) → List (Option (Nat × BitVec 5))
  | a :: b :: r => combOpt m op a b :: pairUp m op r
  | l => l

/-- The tree of R89 over 2^k lanes. -/
def treeReduce (m op : Nat) : Nat → List (Option (Nat × BitVec 5)) → Option (Nat × BitVec 5)
  | 0, l => l.headD none
  | k + 1, l => treeReduce m op k (pairUp m op l)

/-- VRED (R89). -/
def execVred (h : VHead) (d : BitVec 10) (a : VCode) (op : BitVec 3) (s : State) : Host.Outcome State Fault Refusal :=
  runOp (.vred h d a op) (fun t =>
    let m := h.mode.toNat
    let w := widthOf m
    let g := t.pr h.pred
    let v := t.vc 0 a
    let x := (List.range (2048 / w)).map fun l => if predLane w g l then some (laneN w v l, (0 : BitVec 5)) else none
    let r := (treeReduce m op.toNat (Nat.log2 (2048 / w)) x).getD (identity m op.toNat, 0)
    putV (t.utag (.vred h d a op)) (if isInt m then 8 else 12) d.toNat (BitVec.allOnes 2048) (ofLanes w [r.1]) r.2 t) s

/-- The lanes of VSCAN from a lane on (R90): none for a lane that takes no part. -/
def scanFrom (m op : Nat) (ex : Bool) : Option (Nat × BitVec 5) → List (Option Nat) → List (Nat × BitVec 5)
  | _, [] => []
  | acc, none :: r => (0, 0) :: scanFrom m op ex acc r
  | acc, some a :: r =>
    let next : Nat × BitVec 5 := match acc with | none => (a, 0) | some b => comb m op b.1 a
    (if ex then (match acc with | none => identity m op | some b => b.1) else next.1, next.2) :: scanFrom m op ex (some next) r

/-- VSCAN (R90): each kept lane's step raises its flags. -/
def execVscan (h : VHead) (d : BitVec 10) (a : VCode) (op : BitVec 2) (x : Bool) (s : State) : Host.Outcome State Fault Refusal :=
  runOp (.vscan h d a op x) (fun t =>
    let m := h.mode.toNat
    let w := widthOf m
    let g := t.pr h.pred
    let v := t.vc 0 a
    let r := scanFrom m op.toNat x none ((List.range (2048 / w)).map fun l => if predLane w g l then some (laneN w v l) else none)
    putLanes (t.utag (.vscan h d a op x)) (if isInt m then 8 else 16) d w g h.z r t) s

/-! Moving elements (R91-R93). -/

/-- VPERM (R91). -/
def execVperm (h : VHead) (d : BitVec 10) (a b : VCode) (s : State) : Host.Outcome State Fault Refusal :=
  let w := widthOf h.mode.toNat
  lanewise (.vperm h d a b) h d w 4 (fun t l => laneN w (t.vc 0 a) (laneN w (t.vc 1 b) l % (2048 / w))) s

/-- VSLIDE (R91). -/
def execVslide (h : VHead) (d : BitVec 10) (a b : VCode) (k : BitVec 8) (s : State) : Host.Outcome State Fault Refusal :=
  let w := widthOf h.mode.toNat
  let n := 2048 / w
  lanewise (.vslide h d a b k) h d w 2
    (fun t l => if l + k.toNat < n then laneN w (t.vc 0 a) (l + k.toNat) else laneN w (t.vc 1 b) (l + k.toNat - n)) s

/-- VBCAST from a scalar (R92). -/
def execVbcastScalar (h : VHead) (d : BitVec 10) (x : SCode) (s : State) : Host.Outcome State Fault Refusal :=
  let w := widthOf h.mode.toNat
  lanewise (.vbcastScalar h d x) h d w 2 (fun t _ => (t.sc x).toNat % 2 ^ w) s

/-- VBCAST from a lane (R92). -/
def execVbcastLane (h : VHead) (d : BitVec 10) (a : VCode) (lane : BitVec 8) (s : State) : Host.Outcome State Fault Refusal :=
  let w := widthOf h.mode.toNat
  lanewise (.vbcastLane h d a lane) h d w 2 (fun t _ => laneN w (t.vc 0 a) lane.toNat) s

/-- VPOPC (R93). -/
def execVpopc (h : VHead) (d : BitVec 10) (a : VCode) (s : State) : Host.Outcome State Fault Refusal :=
  let w := widthOf h.mode.toNat
  lanewise (.vpopc h d a) h d w 2 (fun t l => popcount (BitVec.ofNat 32 (laneN w (t.vc 0 a) l))) s

/-- The lanes that a predicate selects, rising. -/
def chosen (w : Nat) (p : Pred) : List Nat := (List.range (2048 / w)).filter fun l => predLane w p l

/-- VCOMPRESS (R93): the merge of R81 applies to the lanes past the chosen ones. -/
def execVcompress (h : VHead) (d : BitVec 10) (a : VCode) (s : State) : Host.Outcome State Fault Refusal :=
  runOp (.vcompress h d a) (fun t =>
    let w := widthOf h.mode.toNat
    let c := chosen w (t.pr h.pred)
    let v := t.vc 0 a
    let m : Vec := if h.z then BitVec.allOnes 2048 else ofLanes w (c.map fun _ => 2 ^ w - 1)
    putV (t.utag (.vcompress h d a)) 4 d.toNat m (ofLanes w (c.map fun l => laneN w v l)) 0 t) s

/-- How many chosen lanes lie below one. -/
def rankOf (w : Nat) (p : Pred) (l : Nat) : Nat := ((List.range l).filter fun i => predLane w p i).length

/-- VEXPAND (R93). -/
def execVexpand (h : VHead) (d : BitVec 10) (a : VCode) (s : State) : Host.Outcome State Fault Refusal :=
  let w := widthOf h.mode.toNat
  lanewise (.vexpand h d a) h d w 4 (fun t l => laneN w (t.vc 0 a) (rankOf w (t.pr h.pred) l)) s

/-- VIOTA (R93). -/
def execViota (h : VHead) (d : BitVec 10) (s : State) : Host.Outcome State Fault Refusal :=
  let w := widthOf h.mode.toNat
  lanewise (.viota h d) h d w 2 (fun t l => rankOf w (t.pr h.pred) l % 2 ^ w) s

/-! Predicates (R94, R95). -/

/-- A predicate instruction, bit by bit (R94). -/
def predOp (i : Instr) (h : VHead) (pd : BitVec 4) (f : State → Pred) (s : State) : Host.Outcome State Fault Refusal :=
  runOp i (fun t => putPred (t.utag i) 1 pd (t.pr h.pred) h.z (f t) 0 t) s

/-- PAND. -/
def execPand (h : VHead) (pd pa pb : BitVec 4) (s : State) := predOp (.pand h pd pa pb) h pd (fun t => t.pr pa &&& t.pr pb) s
/-- POR. -/
def execPor (h : VHead) (pd pa pb : BitVec 4) (s : State) := predOp (.por h pd pa pb) h pd (fun t => t.pr pa ||| t.pr pb) s
/-- PXOR. -/
def execPxor (h : VHead) (pd pa pb : BitVec 4) (s : State) := predOp (.pxor h pd pa pb) h pd (fun t => t.pr pa ^^^ t.pr pb) s
/-- PNOT. -/
def execPnot (h : VHead) (pd pa : BitVec 4) (s : State) := predOp (.pnot h pd pa) h pd (fun t => ~~~(t.pr pa)) s

/-- PCNT (R95). -/
def execPcnt (h : VHead) (sd : BitVec 5) (pa : BitVec 4) (s : State) : Host.Outcome State Fault Refusal :=
  runOp (.pcnt h sd pa) (fun t =>
    let c := chosen (widthOf h.mode.toNat) (t.pr pa &&& t.pr h.pred)
    putS (t.utag (.pcnt h sd pa)) 2 sd (BitVec.ofNat 64 c.length) t) s

/-- PFIRST (R95). -/
def execPfirst (h : VHead) (sd : BitVec 5) (pa : BitVec 4) (s : State) : Host.Outcome State Fault Refusal :=
  runOp (.pfirst h sd pa) (fun t =>
    let w := widthOf h.mode.toNat
    putS (t.utag (.pfirst h sd pa)) 2 sd (BitVec.ofNat 64 ((chosen w (t.pr pa &&& t.pr h.pred)).headD (2048 / w))) t) s

/-! Tile rows (R96, R97). -/

/-- The half-row index (R96). -/
def tileIdx (idx : BitVec 8) (x : W64) : Nat := (idx.toNat + x.toNat) % 256

/-- The tile's busy bit holds the bundle (R97). -/
def tileBusy (m : BitVec 3) (s : State) : Bool := s.issue.busy.getLsbD m.toNat

/-- VTR (R96, R97). -/
def execVtr (h : VHead) (d : BitVec 10) (idx : BitVec 8) (mt : BitVec 3) (x : SCode) (s : State) : Host.Outcome State Fault Refusal :=
  runOp (.vtr h d idx mt x) (fun t =>
    if tileBusy mt t then .stall else
    let row := mget (0 : Vec) (t.tileOf mt) (tileIdx idx (t.sc x))
    putLanes (t.utag (.vtr h d idx mt x)) 4 d 32 (t.pr h.pred) h.z ((List.range 64).map fun l => (laneN 32 row l, 0)) t) s

/-- VTW (R96, R97): the busy bit is set until the landing. -/
def execVtw (h : VHead) (idx : BitVec 8) (mt : BitVec 3) (x : SCode) (a : VCode) (s : State) : Host.Outcome State Fault Refusal :=
  runOp (.vtw h idx mt x a) (fun t =>
    if tileBusy mt t then .stall else
    let u := t.utag (.vtw h idx mt x a)
    let k := tileIdx idx (t.sc x)
    let l := t.me.flow.lift
    let dst : Dest := if u = 0 then .tile mt.toNat k else .tileAt mt.toNat (instKey mt.toNat u (flatIndex u 0 l.levels t.xs 0)) k
    (putRec 4 dst (laneMask 32 (t.pr h.pred)) (t.vc 0 a) 0 true (noteTag 3 mt.toNat u (seedM u mt t))).bind fun t =>
      .ok (t.modCore (coreOf t.issue.agent) fun c => { c with busy := c.busy ||| (1#8 <<< mt.toNat) })) s

/-! LREDUCE (R348). -/

/-- The vector registers of the enabled instances along a level, the others fixed by the issue's instance (R348). -/
def lredRegs (s : State) (u : BitVec 3) (n lvl : Nat) : List Nat :=
  let l := s.me.flow.lift
  let t := tagOfV l n
  let w := u ||| levelBit lvl
  let xs := s.xs
  let e := match l.levels[lvl - 1]? with | some v => v.extent | none => 0
  (List.range e).filterMap fun x =>
    let ys := setAt xs (lvl - 1) x
    if (enabled l w).contains (flatIndex w 0 l.levels ys 0) then some (n + regOffset t 0 l.levels ys) else none

/-- LREDUCE (R348): the extent of the level fixes its latency; a level that the source's tag lacks raises 0x12. -/
def execLreduce (h : VHead) (d : BitVec 10) (a : VCode) (op : BitVec 3) (lvl : BitVec 2) (s : State) : Host.Outcome State Fault Refusal :=
  runOp (.lreduce h d a op lvl) (fun t =>
    let l := t.me.flow.lift
    let m := h.mode.toNat
    let w := widthOf m
    match a with
    | .v n =>
      if l.levels.length < lvl.toNat || !(tagOfV l n.toNat).getLsbD (lvl.toNat - 1) then .trap (t.cause 0x12)
      else
        let e := match l.levels[lvl.toNat - 1]? with | some v => v.extent | none => 0
        let vs := (lredRegs t (resultTag (.lreduce h d a op lvl) t) n.toNat lvl.toNat).map fun k => t.vnum t.me k
        let r := (List.range (2048 / w)).map fun i =>
          (vs.foldl (fun acc v => combOpt m op.toNat acc (some (laneN w v i, 0))) none).getD (identity m op.toNat, 0)
        putLanes (resultTag (.lreduce h d a op lvl) t) (4 * e + 4) d w (t.pr h.pred) h.z r t
    | .qv _ => .trap (t.cause 0x12)
    | .held => .trap (t.cause 0x12)) s

end Sys2Proof.Machine
end

