-- ==== Sys2Proof/Machine/Convert.lean ====
section
/-! DEFINITION. Machine/Convert.lean: VCVT, VPACKB, VUNPACKB and VBPACK (R117-R120), with stochastic rounding (R113). -/

namespace Sys2Proof.Machine

/-- Convert a list of elements, drawing from the generator for those that a flag marks (R113): the results with their flags,
and the generator. -/
def convertList (f : Option Nat → Nat → Nat × BitVec 5) (sr : Bool) : W32 → List (Nat × Bool) → List (Nat × BitVec 5) × W32
  | g, [] => ([], g)
  | g, (x, draws) :: r =>
    let g' := if sr && draws then nextGen g else g
    let q := convertList f sr g' r
    (f (if sr && draws then some g'.toNat else none) x :: q.1, q.2)

/-- Set the generator. -/
def setGen (g : W32) (s : State) : State := s.modMe fun c => { c with regs := { c.regs with gen := g } }

/-- A result of elements of `w` bits from bit `base` on: selected elements are written, the others take the zero code under Z
and keep their value otherwise (R117). -/
def putPart (u : BitVec 3) (lat : Nat) (d : BitVec 10) (w base : Nat) (zc : Nat) (z : Bool) (sel : List Bool)
    (r : List (Nat × BitVec 5)) (s : State) : Res :=
  let xs := (r.zip sel).map fun x => if x.2 then x.1.1 else zc
  let ms := sel.map fun b => if b || z then 2 ^ w - 1 else 0
  let fl := (r.zip sel).foldl (fun f x => if x.2 then f ||| x.1.2 else f) 0
  putV u lat d.toNat (BitVec.ofNat 2048 (joinLanes w ms * 2 ^ base)) (BitVec.ofNat 2048 (joinLanes w xs * 2 ^ base)) fl s

/-- One conversion between element formats (R112): between integers the low bits are kept, or the value is clamped. -/
def convertEl (src dst mode : Nat) (sat : Bool) (draw : Option Nat) (x : Nat) : Nat × BitVec 5 :=
  if isIntFmt src && isIntFmt dst then
    let v : Int := if src = 11 then x else sext (fmtWidth src) x
    let w := fmtWidth dst
    let lo : Int := if dst = 11 then 0 else -(2 ^ (w - 1))
    let hi : Int := if dst = 11 then 255 else 2 ^ (w - 1) - 1
    (wrap w (if !sat then v else if v < lo then lo else if hi < v then hi else v), 0)
  else roundTo dst mode sat draw false (numOf src x)

/-- VCVT (R117). -/
def execVcvt (h : VHead) (d : BitVec 10) (a : VCode) (part : BitVec 3) (src dst : BitVec 4) (sat sr : Bool) (s : State) :
    Host.Outcome State Fault Refusal :=
  runOp (.vcvt h d a part src dst sat sr) (fun t =>
    let ws := fmtWidth src.toNat
    let wd := fmtWidth dst.toNat
    let wm := Nat.max ws wd
    let e := 2048 / wm
    let p := t.pr h.pred
    let v := t.vc 0 a
    let ofs := if ws < wd then part.toNat * e else 0
    let xs := (List.range e).map fun i => (laneN ws v (ofs + i), predLane wm p i)
    let q := convertList (convertEl src.toNat dst.toNat h.mode.toNat sat) sr t.me.regs.gen xs
    putPart (t.utag (.vcvt h d a part src dst sat sr)) 4 d wd (if wd < ws then part.toNat * e * wd else 0) (canonZero dst.toNat) h.z
      (xs.map Prod.snd) q.1 (setGen q.2 t)) s

/-! Records (R109, R118, R119). -/

/-- Element format of a record. -/
def recElem (r : Nat) : Nat := match r with | 0 => 5 | 1 => 7 | 2 => 3 | _ => 6
/-- Bits of an element in a record (R103). -/
def recBits (r : Nat) : Nat := match r with | 0 => 4 | 1 => 6 | _ => 8
/-- Bytes of a record. -/
def recSize (r : Nat) : Nat := match r with | 0 => 18 | 1 => 26 | _ => 34
/-- Largest element magnitude. -/
def recEmax (r : Nat) : Nat := match r with | 0 => 6 | 1 => 2 | 2 => 448 | _ => 2

/-- The magnitude of a finite value. -/
def magNum : Num → Nat × Nat
  | .fin _ n d => (n, d)
  | .inf _ => (0, 1)
  | .nan _ => (0, 1)
/-- The value is finite. -/
def Num.isFin : Num → Bool
  | .fin .. => true
  | .inf _ => false
  | .nan _ => false

/-- The greatest magnitude of a list of values. -/
def maxMag (l : List Num) : Nat × Nat := l.foldl (fun m x => if fracLt m (magNum x) then magNum x else m) (0, 1)

/-- One block: the scale, and the elements with their flags (R118). The draws are the lanes'. -/
def packBlock (rc mode : Nat) (xs : List Num) (draws : List (Option Nat)) : Nat × List (Nat × BitVec 5) :=
  let f := recElem rc
  if xs.any fun x => !x.isFin then (0xFF00, xs.map fun _ => (canonZero f, fNV))
  else
    let m := maxMag xs
    if m.1 = 0 then (0, xs.map fun _ => (canonZero f, 0))
    else
      let sc := (roundTo 13 3 false none false (mkFin false m.1 (m.2 * recEmax rc))).1
      (sc, (xs.zip draws).map fun x => roundTo f mode false x.2 false (divNum x.1 (numOf 13 sc)))

/-- A record as bits: the scale, then its elements (R109). -/
def recordBits (rc sc : Nat) (e : List Nat) : Nat := sc + 2 ^ 16 * joinLanes (recBits rc) e

/-- n draws of the generator, and the generator after them. -/
def drawN : Nat → W32 → List Nat × W32
  | 0, g => ([], g)
  | n + 1, g => let g := nextGen g; let q := drawN n g; (g.toNat :: q.1, q.2)

/-- VPACKB (R118). -/
def execVpackb (h : VHead) (d : BitVec 10) (a : VCode) (part : BitVec 3) (rc : BitVec 2) (sr : Bool) (s : State) :
    Host.Outcome State Fault Refusal :=
  runOp (.vpackb h d a part rc sr) (fun t =>
    let r := rc.toNat
    let p := t.pr h.pred
    let v := t.vc 0 a
    let xs := (List.range 64).map fun l => numOf 0 (if predLane 32 p l then laneN 32 v l else 0)
    let dr := drawN 64 t.me.regs.gen
    let draws : List (Option Nat) := if sr then dr.1.map some else (List.range 64).map fun _ => none
    let b0 := packBlock r h.mode.toNat (xs.take 32) (draws.take 32)
    let b1 := packBlock r h.mode.toNat (xs.drop 32) (draws.drop 32)
    let w := 8 * recSize r
    let bits := recordBits r b0.1 (b0.2.map Prod.fst) + 2 ^ w * recordBits r b1.1 (b1.2.map Prod.fst)
    let base := 2 ^ (2 * w * part.toNat)
    let fl := (b0.2 ++ b1.2).foldl (fun f x => f ||| x.2) 0
    putV (t.utag (.vpackb h d a part rc sr)) 8 d.toNat (BitVec.ofNat 2048 ((2 ^ (2 * w) - 1) * base)) (BitVec.ofNat 2048 (bits * base)) fl
      (if sr then setGen dr.2 t else t)) s

/-- One element of a record as F32 (R119). -/
def unpackEl (rc mode sc e : Nat) : Nat × BitVec 5 :=
  let x := numOf 13 sc
  let y := numOf (recElem rc) e
  if x.isNaN then (0x7FC00000, 0)
  else if (magNum x).1 = 0 then (0, 0)
  else if y.isNaN then (0x7FC00000, 0)
  else roundTo 0 mode false none false (mulNum y x).1

/-- VUNPACKB (R119). -/
def execVunpackb (h : VHead) (d : BitVec 10) (a : VCode) (part : BitVec 3) (rc : BitVec 2) (s : State) :
    Host.Outcome State Fault Refusal :=
  runOp (.vunpackb h d a part rc) (fun t =>
    let r := rc.toNat
    let w := 8 * recSize r
    let v := (t.vc 0 a).toNat / 2 ^ (2 * w * part.toNat)
    let lane := fun (l : Nat) =>
      let b := v / 2 ^ (w * (l / 32))
      unpackEl r h.mode.toNat (b % 2 ^ 16) (b / 2 ^ (16 + recBits r * (l % 32)) % 2 ^ recBits r)
    putLanes (t.utag (.vunpackb h d a part rc)) 4 d 32 (t.pr h.pred) h.z ((List.range 64).map lane) t) s

/-! VBPACK (R120). -/

/-- BP format and bits of a code in a part. -/
def bpFmt (bp6 : Bool) : Nat := if bp6 then 7 else 6
/-- Bits of a code. -/
def bpWidth (bp6 : Bool) : Nat := if bp6 then 6 else 8

/-- VBPACK, pack (R120). -/
def execVbpackPack (h : VHead) (d : BitVec 10) (a : VCode) (part : BitVec 3) (k : SCode) (bp6 sr : Bool) (s : State) :
    Host.Outcome State Fault Refusal :=
  runOp (.vbpackPack h d a part k bp6 sr) (fun t =>
    let p := t.pr h.pred
    let v := t.vc 0 a
    let e := (t.sc k).toInt
    let f := bpFmt bp6
    let w := bpWidth bp6
    let xs := (List.range 64).map fun l => (laneN 32 v l, predLane 32 p l)
    let q := convertList (fun dr x => roundTo f h.mode.toNat false dr false (scaleNum (numOf 0 x) (-e))) sr t.me.regs.gen xs
    putPart (t.utag (.vbpackPack h d a part k bp6 sr)) 4 d w (64 * w * part.toNat) (canonZero f) h.z (xs.map Prod.snd) q.1 (setGen q.2 t)) s

/-- VBPACK.u, unpack (R120). -/
def execVbpackUnpack (h : VHead) (d : BitVec 10) (a : VCode) (part : BitVec 3) (k : SCode) (bp6 : Bool) (s : State) :
    Host.Outcome State Fault Refusal :=
  runOp (.vbpackUnpack h d a part k bp6) (fun t =>
    let v := t.vc 0 a
    let e := (t.sc k).toInt
    let w := bpWidth bp6
    let r := (List.range 64).map fun l =>
      roundTo 0 h.mode.toNat false none false (scaleNum (numOf (bpFmt bp6) (laneN w v (64 * part.toNat + l))) e)
    putLanes (t.utag (.vbpackUnpack h d a part k bp6)) 4 d 32 (t.pr h.pred) h.z r t) s

end Sys2Proof.Machine
end

