-- ==== Sys2Proof/Machine/Sfu.lean ====
section
/-! DEFINITION. Machine/Sfu.lean: the special-function unit (R98-R101). A result inside a bound is a free value of Config.sfu
where that value satisfies the bound, and the nearest F32 value of the function otherwise (log 7). The functions are
evaluated in fixed point with 128 fraction bits. -/

namespace Sys2Proof.Machine

/-- One, in fixed point. -/
def fxOne : Int := 2 ^ 128
/-- ln 2. -/
def fxLn2 : Int := 235865763225513294137944142764154484399
/-- log2 e. -/
def fxLog2e : Int := 490923683258796565746369346286093237521
/-- π/2. -/
def fxHalfPi : Int := 534514292032483373929840186580935391650

/-- The sum of a series whose term k follows from term k - 1 by f. -/
def series (f : Nat → Int → Int) : Nat → Nat → Int → Int
  | 0, _, _ => 0
  | n + 1, k, t => t + series f n (k + 1) (f (k + 1) t)

/-- e^t for |t| ≤ 1. -/
def fxExp (t : Int) : Int := series (fun k x => x * t / fxOne / k) 40 0 fxOne
/-- sin r for |r| ≤ 1. -/
def fxSin (r : Int) : Int := series (fun k x => -(x * r / fxOne * r / fxOne) / (2 * k * (2 * k + 1))) 20 0 r
/-- cos r for |r| ≤ 1. -/
def fxCos (r : Int) : Int := series (fun k x => -(x * r / fxOne * r / fxOne) / (2 * k * (2 * k - 1))) 20 0 fxOne

/-- A nonnegative fixed-point value times 2^k, as a fraction. -/
def fxFrac (m k : Int) : Nat × Nat :=
  let q := scaled m.toNat k
  (q.1, q.2 * 2 ^ 128)

/-- 2^y of a fixed-point value. -/
def fxExp2 (y : Int) : Nat × Nat := fxFrac (fxExp (y % fxOne * fxLn2 / fxOne)) (y / fxOne)

/-- ±n/d in fixed point. -/
def fxOf (neg : Bool) (n d : Nat) : Int := (if neg then -1 else 1) * ((n * 2 ^ 128 / d : Nat) : Int)

/-- The integer square root, bit by bit from bit k - 1 down. -/
def isqrtFrom (n : Nat) : Nat → Nat → Nat
  | 0, r => r
  | k + 1, r => if (r + 2 ^ k) * (r + 2 ^ k) ≤ n then isqrtFrom n k (r + 2 ^ k) else isqrtFrom n k r

/-- √(n/d) as a fraction with 200 fraction bits. -/
def sqrtFrac (n d : Nat) : Nat × Nat := (isqrtFrom (n * 2 ^ 400 / d) 300 0, 2 ^ 200)

/-- log2 (n/d) in fixed point: 2·atanh((m-1)/(m+1))/ln 2 for the significand m, plus the exponent. -/
def fxLog2 (n d : Nat) : Int :=
  let e := log2Frac n d
  let q := scaled d e
  -- m = n / (d · 2^e) = (n · q.2) / q.1
  let a : Int := (n * q.2 : Nat) - (q.1 : Nat)
  let b : Int := (n * q.2 : Nat) + (q.1 : Nat)
  let z := a * fxOne / b
  let ln := 2 * (List.range 50).foldr (fun k acc => fxOne / (2 * k + 1 : Nat) + acc * z / fxOne * z / fxOne) 0 * z / fxOne
  e * fxOne + ln * fxLog2e / fxOne

/-- sin of a fixed-point angle, a quarter turn added `q` times. -/
def fxSinQ (x : Int) (q : Int) : Int :=
  let k := (2 * x + fxHalfPi) / (2 * fxHalfPi)
  let r := x - k * fxHalfPi
  match ((k + q) % 4).toNat with
  | 0 => fxSin r | 1 => fxCos r | 2 => -fxSin r | _ => -fxCos r

/-- A signed fraction. -/
abbrev SFrac := Bool × Nat × Nat

/-- The exact function of a finite nonzero normal input, as a signed fraction (R100). -/
def sfuExact (op : Nat) (neg : Bool) (n d : Nat) : SFrac :=
  match op with
  | 1 => (neg, d, n)
  | 2 => (false, (sqrtFrac d n).1, (sqrtFrac d n).2)
  | 3 => (false, (sqrtFrac n d).1, (sqrtFrac n d).2)
  | 4 => let q := fxExp2 (fxOf neg n d); (false, q.1, q.2)
  | 5 => let v := fxLog2 n d; (decide (v < 0), v.natAbs, 2 ^ 128)
  | 6 =>
    let q := if 200 * d < n then (scaled 1 (if neg then 300 else -300)) else fxExp2 (-(fxOf neg n d) * fxLog2e / fxOne)
    (false, q.2, q.2 + q.1)
  | 7 =>
    if n * 256 < d then
      -- x - x³/3 + 2x⁵/15
      (neg, n * (15 * d ^ 4 - 5 * n ^ 2 * d ^ 2 + 2 * n ^ 4), 15 * d ^ 5)
    else if 50 * d < n then (neg, 2 ^ 60 - 1, 2 ^ 60)
    else let q := fxExp2 (2 * fxOf false n d * fxLog2e / fxOne); (neg, q.1 - q.2, q.1 + q.2)
  | 8 => let v := fxSinQ (fxOf neg n d) 0; (decide (v < 0), v.natAbs, 2 ^ 128)
  | _ => let v := fxSinQ (fxOf neg n d) 1; (decide (v < 0), v.natAbs, 2 ^ 128)

/-- |c - a| ≤ t for a finite F32 code. -/
def within (c : Nat) (a : SFrac) (t : Nat × Nat) : Bool :=
  match numOf 0 c with
  | .fin neg n d =>
    let x : Int := (if neg then -1 else 1) * (n * a.2.2 : Nat)
    let y : Int := (if a.1 then -1 else 1) * (a.2.1 * d : Nat)
    decide ((x - y).natAbs * t.2 ≤ t.1 * (d * a.2.2))
  | _ => false

/-- k units in the last place of F32 at a value. -/
def ulps (k : Nat) (a : SFrac) : Nat × Nat :=
  if a.2.1 = 0 then scaled k (-149)
  else let e := log2Frac a.2.1 a.2.2; scaled k ((if e < -126 then -126 else e) - 23)

/-- The bound of R100. -/
def sfuBound (op n d : Nat) (a : SFrac) : Nat × Nat :=
  match op with
  | 1 => ulps 1 a
  | 2 => ulps 1 a
  | 5 => if d ≤ 2 * n ∧ n ≤ 2 * d then (1, 2 ^ 22) else ulps 2 a
  | 8 => (1, 2 ^ 22)
  | 9 => (1, 2 ^ 22)
  | _ => ulps 2 a

/-- n is a power of two. -/
def isPow2 (n : Nat) : Bool := n != 0 && 2 ^ Nat.log2 n == n

/-- The result is exact, or correctly rounded, by R100. -/
def sfuIsExact (op : Nat) (n d : Nat) : Bool :=
  match op with
  | 1 => isPow2 n && isPow2 d
  | 2 => isPow2 n && isPow2 d && log2Frac n d % 2 == 0
  | 3 => true
  | 4 => d == 1
  | 5 => isPow2 n && isPow2 d
  | _ => false

/-- A subnormal code becomes a zero with its sign (R98). -/
def flush (c : Nat) : Nat := if c / 2 ^ 23 % 2 ^ 8 = 0 then c / 2 ^ 31 * 2 ^ 31 else c

/-- The nearest F32 code of a signed fraction. -/
def nearestF32 (a : SFrac) : Nat := (roundTo 0 0 false none false (mkFin a.1 a.2.1 a.2.2)).1

/-- The result for a finite nonzero normal input (R100, R101), given the free value. -/
def sfuFinite (op : Nat) (neg : Bool) (n d : Nat) (x free : Nat) : Nat × BitVec 5 :=
  if neg && (op == 2 || op == 3 || op == 5) then (0x7FC00000, fNV)
  else if op = 1 ∧ 2 ^ 126 * d < n then (if neg then 0x80000000 else 0, 0)
  else if op = 4 ∧ !neg ∧ 128 * d ≤ n then (0x7F800000, 0)
  else if op = 4 ∧ neg ∧ 126 * d < n then (0, 0)
  else if (op = 8 ∨ op = 9) ∧ n * 4096 < d then (if op = 8 then x else 0x3F800000, 0)
  else if (op = 8 ∨ op = 9) ∧ 2 ^ 16 * d < n then (flush (if within free (false, 0, 1) (1, 1) then free else 0), 0)
  else
    let a := sfuExact op neg n d
    let y := if !sfuIsExact op n d && within free a (sfuBound op n d a) then free else nearestF32 a
    (flush y, 0)

/-- One lane of an F word (R98, R101), given the free value. -/
def sfuLane (op x free : Nat) : Nat × BitVec 5 :=
  match numOf 0 (flush x) with
  | .nan _ => (0x7FC00000, 0)
  | .inf neg =>
    match op, neg with
    | 1, true => (0x80000000, 0) | 1, false => (0, 0)
    | 2, true => (0x7FC00000, fNV) | 2, false => (0, 0)
    | 3, true => (0x7FC00000, fNV) | 3, false => (0x7F800000, 0)
    | 4, true => (0, 0) | 4, false => (0x7F800000, 0)
    | 5, true => (0x7FC00000, fNV) | 5, false => (0x7F800000, 0)
    | 6, true => (0, 0) | 6, false => (0x3F800000, 0)
    | 7, true => (0xBF800000, 0) | 7, false => (0x3F800000, 0)
    | _, _ => (0x7FC00000, fNV)
  | .fin neg n d =>
    if n = 0 then
      match op with
      | 1 => (infCode 0 neg, fDZ)
      | 2 => (infCode 0 neg, fDZ)
      | 3 => (flush x, 0)
      | 4 => (0x3F800000, 0)
      | 5 => (0xFF800000, fDZ)
      | 6 => (0x3F000000, 0)
      | 7 => (flush x, 0)
      | 8 => (flush x, 0)
      | _ => (0x3F800000, 0)
    else sfuFinite op neg n d (flush x) free

/-- The free value of a lane of an issue (R100, log 7). -/
def sfuFree (s : State) (op l x : Nat) : Nat := (Config.sfu ((s.free * 64 + l) * 16 + op) (BitVec.ofNat 32 x)).toNat

/-- NOP.F (R11). -/
def execNopF (s : State) : Host.Outcome State Fault Refusal := runOp .nopF .ok s

/-- The unit takes an operation issued now at once: its queue is empty and it has taken nothing in the last 3 cycles (R99). -/
def sfuIdle (c : Core) : Bool :=
  c.sfuq.isEmpty && (match c.sfuLast with | some t => decide (t + 4 ≤ c.cycle) | none => true)

/-- The record of an F word enters the unit's queue, or is taken at once (R99). `id` is the record's identifier. -/
def sfuEnter (id : Nat) (s : State) : State :=
  s.modCore (coreOf s.issue.agent) fun c =>
    if sfuIdle c then { c with sfuLast := some c.cycle } else { c with sfuq := c.sfuq ++ [(s.issue.agent, id)] }

/-- An F word (R98): 64 F32 lanes, latency 16. -/
def sfuOp (i : Instr) (op : Nat) (d : BitVec 10) (a : VCode) (p : BitVec 4) (z : Bool) (s : State) : Host.Outcome State Fault Refusal :=
  runOp i (fun t =>
    let c := t.core (coreOf t.issue.agent)
    if 4 ≤ c.sfuq.length then .block .sfu else
    let v := t.vc 0 a
    let g := t.pr p
    let r := (List.range 64).map fun l => let x := laneN 32 v l; sfuLane op x (sfuFree t op l x)
    let m := laneMask 32 g
    let val := ofLanes 32 (r.map Prod.fst)
    let u := t.utag i
    (putRec 16 (t.destV u d.toNat) (if z then BitVec.allOnes 2048 else m) (if z then val &&& m else val) (keptFlags 32 g r) (sfuIdle c)
      (noteTag 1 d.toNat u t)).bind fun q => .ok (sfuEnter t.free q)) s

/-- FRCP (R98-R101). -/
def execFrcp (st : Bool) (d : BitVec 10) (a : VCode) (p : BitVec 4) (z : Bool) (s : State) := sfuOp (.frcp st d a p z) 1 d a p z s
/-- FRSQ. -/
def execFrsq (st : Bool) (d : BitVec 10) (a : VCode) (p : BitVec 4) (z : Bool) (s : State) := sfuOp (.frsq st d a p z) 2 d a p z s
/-- FSQRT. -/
def execFsqrt (st : Bool) (d : BitVec 10) (a : VCode) (p : BitVec 4) (z : Bool) (s : State) := sfuOp (.fsqrt st d a p z) 3 d a p z s
/-- FEXP2. -/
def execFexp2 (st : Bool) (d : BitVec 10) (a : VCode) (p : BitVec 4) (z : Bool) (s : State) := sfuOp (.fexp2 st d a p z) 4 d a p z s
/-- FLOG2. -/
def execFlog2 (st : Bool) (d : BitVec 10) (a : VCode) (p : BitVec 4) (z : Bool) (s : State) := sfuOp (.flog2 st d a p z) 5 d a p z s
/-- FSIG. -/
def execFsig (st : Bool) (d : BitVec 10) (a : VCode) (p : BitVec 4) (z : Bool) (s : State) := sfuOp (.fsig st d a p z) 6 d a p z s
/-- FTANH. -/
def execFtanh (st : Bool) (d : BitVec 10) (a : VCode) (p : BitVec 4) (z : Bool) (s : State) := sfuOp (.ftanh st d a p z) 7 d a p z s
/-- FSIN. -/
def execFsin (st : Bool) (d : BitVec 10) (a : VCode) (p : BitVec 4) (z : Bool) (s : State) := sfuOp (.fsin st d a p z) 8 d a p z s
/-- FCOS. -/
def execFcos (st : Bool) (d : BitVec 10) (a : VCode) (p : BitVec 4) (z : Bool) (s : State) := sfuOp (.fcos st d a p z) 9 d a p z s

end Sys2Proof.Machine
end

