-- ==== Sys2Proof/Machine/Order.lean ====
section
/-! DEFINITION. Machine/Order.lean: the accesses of an agent that have not performed (R158-R172): which must come first, the value that a
load fixes (R138, R148, R153), the lines that it fills and registers (R137-R147), and what an access does when it performs (R139, R149-R155,
R311). -/

namespace Sys2Proof.Machine

/-! What must come first. -/

/-- Two cell lists meet in a key. -/
def cellsMeet (a b : List (Nat × Nat × Byte)) : Bool := a.any fun x => b.any fun y => x.2.1 == y.2.1

/-- A virtual range meets cells. -/
def rangesMeet (rs : List (Nat × Nat)) (cs : List (Nat × Nat × Byte)) : Bool :=
  cs.any fun c => rs.any fun r => decide (r.1 ≤ c.1) && decide (c.1 < r.2)

/-- What the order sees of an access that has not performed: its class, its scope, whether it is a load or a read-modify-write. -/
structure Earlier where
  cls   : Option (BitVec 4)
  scope : Nat
  load  : Bool
  cells : List (Nat × Nat × Byte)
  deriving DecidableEq, Repr

/-- What the order sees of a later access of the agent: its class, the scope of a release over its class or over all classes (R157). -/
structure Later where
  cls   : Option (BitVec 4)
  rel   : Option Nat
  all   : Option Nat
  cells : List (Nat × Nat × Byte)
  deriving DecidableEq, Repr

/-- A later access that is no release. -/
def plainLater (cls : BitVec 4) (cells : List (Nat × Nat × Byte)) : Later := ⟨some cls, none, none, cells⟩

/-- Cells in host or peer memory (R409). -/
def farCells (cs : List (Nat × Nat × Byte)) : Bool := cs.any fun c => decide (2 ^ 65 ≤ c.2.1) && decide (c.2.1 < 2 ^ 80)

/-- A scope reaches beyond its agent for cells; those of host and peer memory are ordered at `.sys` alone (R156). -/
def reaches (scope : Nat) (cs : List (Nat × Nat × Byte)) : Bool := decide (1 ≤ scope) && (scope == 4 || !farCells cs)

/-- A fence mask holds a class. -/
def inMask (m : BitVec 16) (c : Option (BitVec 4)) : Bool := c.any fun c => m.getLsbD c.toNat

/-- The entry is a fence. -/
def Pend.isFence : Pend → Bool
  | .store .. => false
  | .access .. => false
  | .fenceC .. => true
  | .fenceR .. => true

/-- The fence covers an access (R169, R171): a load until it has performed, a store until it is visible in the fence's scope. -/
def Pend.covers (a : Earlier) : Pend → Bool
  | .store .. => false
  | .access .. => false
  | .fenceC sc m => (a.load || reaches sc a.cells) && inMask m a.cls
  | .fenceR sc rs _ => (a.load || reaches sc a.cells) && rangesMeet rs a.cells

/-- The fence holds back a later access. -/
def Pend.holds (b : Later) : Pend → Bool
  | .store .. => false
  | .access .. => false
  | .fenceC _ m => inMask m b.cls
  | .fenceR _ rs _ => rangesMeet rs b.cells

/-- An access must perform before a later one: they overlap (R159); they are of one class, and it is a load or its scope reaches beyond its
agent (R161); the later one is a release that covers it, for readers outside its scope too (R164, log 8); or a fence between them covers both (R169, R171). `fs` are the fences
between. -/
def mustPrecede (fs : List Pend) (a : Earlier) (b : Later) : Bool :=
  cellsMeet a.cells b.cells ||
    (a.cls.isSome && a.cls == b.cls && (a.load || reaches a.scope a.cells || b.rel.any fun sc => reaches sc a.cells)) ||
    b.all.any (fun sc => decide (1 ≤ sc) && (a.load || reaches sc a.cells)) ||
    fs.any fun f => f.covers a && f.holds b

/-- An access that has not performed, with its identifier. -/
def Pend.earlier : Pend → Option (Nat × Earlier)
  | .store id cls scope _ _ cells => some (id, ⟨some cls, scope, false, cells⟩)
  | .access id cls scope load _ cells _ => some (id, ⟨cls, scope, load, cells⟩)
  | .fenceC .. => none
  | .fenceR .. => none

/-- The identifiers of the accesses that must perform before a later one. -/
def mustFirst (b : Later) : List Pend → List Nat
  | [] => []
  | p :: r =>
    (match p.earlier with
     | some (id, a) => if mustPrecede (r.filter Pend.isFence) a b then [id] else []
     | none => []) ++ mustFirst b r

/-- The later-access view of an access; fences wait for nothing themselves. -/
def Pend.asLater : Pend → Later
  | .store _ cls scope rel _ cells => ⟨some cls, if rel then some scope else none, none, cells⟩
  | .access _ cls _ _ _ cells _ => ⟨cls, none, none, cells⟩
  | .fenceC .. => ⟨none, none, none, []⟩
  | .fenceR .. => ⟨none, none, none, []⟩

/-- The identifier of an access. -/
def Pend.sid (p : Pend) : Option Nat := p.earlier.map Prod.fst

/-- Fences that no earlier access stands before are dropped (R169); one that holds a range counter stays until it is released. -/
def dropFences : List Pend → List Pend
  | .fenceC .. :: r => dropFences r
  | .fenceR sc rs k :: r => if k then .fenceR sc rs k :: r else dropFences r
  | l => l

/-- The accesses of an agent that have not performed, changed. -/
def Ctx.modPend (f : List Pend → List Pend) (c : Ctx) : Ctx := { c with order := { c.order with pend := f c.order.pend } }

/-- An access or fence joins the agent's pending ones, the newest. -/
def Ctx.addPend (p : Pend) (c : Ctx) : Ctx := { c with order := { c.order with pend := c.order.pend ++ [p] } }

/-- An access of an identifier has performed. -/
def Ctx.dropPend (id : Nat) (c : Ctx) : Ctx :=
  { c with order := { c.order with
      pend := dropFences (c.order.pend.filter fun p => p.sid != some id), split := c.order.split.filter (· != id) } }

/-- The context that holds a pending access. -/
def State.holder (s : State) (id : Nat) : Option Nat :=
  (s.ctxs.find? fun x => x.2.order.pend.any fun p => p.sid == some id).map Prod.fst

/-- No access that must come first holds back a pending access. -/
def State.mayCome (s : State) (id : Nat) : Bool :=
  match s.holder id with
  | some a =>
    let l := (s.ctx a).order.pend
    (match l.find? fun p => p.sid == some id with
     | some p => (mustFirst p.asLater (l.takeWhile fun p => p.sid != some id)).isEmpty
     | none => true)
  | none => true

/-- An access that performs at another unit has performed. -/
def State.arrived (s : State) (id : Nat) : State :=
  match s.holder id with
  | some a => s.modCtx a (Ctx.dropPend id)
  | none => s

/-! Values. -/

/-- The copy that serves a read in the line of an address: it records read permission, and every byte that the access reads in the line is
registered (R138). -/
def lineServes (c : Cluster) (asid : BitVec 16) (ks : List (Nat × Option Nat)) (va : Nat) : Option L1Line :=
  (findL1 c asid (va / 128)).filter fun l => l.r && ks.all fun x => decide (x.1 / 128 ≠ va / 128) || l.mask.getLsbD (x.1 % 128)

/-- A byte of a copy. -/
def L1Line.byte (l : L1Line) (o : Nat) : Byte := BitVec.ofNat 8 (l.data.toNat / 2 ^ (8 * o))

/-- The byte that a plain load reads at a key: where a copy serves the access, the copy's, or, since a store through another address of the
line updates the home alone, the home's (R148, log 5), the same for each aligned 8 bytes; else the home's. -/
def State.loadByte (s : State) (agent : Nat) (asid : BitVec 16) (ks : List (Nat × Option Nat)) (va key : Nat) : Byte :=
  match lineServes (s.cluster (clusterOf agent)) asid ks va with
  | some l =>
    if l.key == key / 128 && Config.choice (s.free * 1024 + 900 + va / 8 % 64) % 2 == 0 then l.byte (key % 128) else s.byte key
  | none => s.byte key

/-- The value of an agent's load, little-endian; `sync` reads at the home (R153). -/
def loadAs (agent : Nat) (asid : BitVec 16) (sync : Bool) (ks : List (Nat × Option Nat)) (s : State) : Nat :=
  leNat (ks.map fun x =>
    match x.2 with
    | none => (0 : Byte)
    | some k => if sync then s.byte k else s.loadByte agent asid ks x.1 k)

/-- Sign- or zero-extend a loaded value of n bytes (R150). -/
def extLoad (sx : Bool) (n v : Nat) : W64 := if sx then BitVec.ofInt 64 (sext (8 * n) v) else BitVec.ofNat 64 v

/-- A vector of the loaded bytes at the governed offsets. -/
def spread (offs : List Nat) (v : Nat) : Vec :=
  BitVec.ofNat 2048 (offs.zipIdx.foldl (fun a x => a + v / 2 ^ (8 * x.2) % 256 * 2 ^ (8 * x.1)) 0)

/-- The result of a load. -/
def Shape.value : Shape → Nat → Vec
  | .scalar sx n, v => (extLoad sx n v).setWidth 2048
  | .vector offs, v => spread offs v

/-! Lines and registrations. -/

/-- Range entries in use at a home slice (R143). -/
def State.rangesAt (s : State) (h : Nat) : Nat :=
  (s.clusters.map fun x => ((x.2.l1.filter fun l => l.key != zeroLine && homeSlice l.key == h).map L1Line.entries).sum).sum +
    (s.cores.map fun x => (x.2.icache.filter fun l => homeSlice l.key == h).length).sum

/-- A copy that a home slice has registered: a line of a cluster's L1, or of a core's instruction cache (R176). -/
abbrev Copy := (Nat × L1Line) ⊕ (Nat × CodeLine)

/-- The copies that a home slice has registered. -/
def State.copiesAt (s : State) (h : Nat) : List Copy :=
  (s.clusters.flatMap fun x => (x.2.l1.filter fun l => l.key != zeroLine && homeSlice l.key == h).map fun l => .inl (x.1, l)) ++
    s.cores.flatMap fun x => (x.2.icache.filter fun l => homeSlice l.key == h).map fun l => .inr (x.1, l)

/-- When the newest registration of a copy was made. -/
def Copy.newest : Copy → Nat
  | .inl x => x.2.newest
  | .inr x => x.2.newest

/-- A copy of a line with several entries. -/
def Copy.merges (key : Nat) : Copy → Bool
  | .inl x => x.2.key == key && decide (1 < x.2.entries)
  | .inr _ => false

/-- A copy leaves: its cluster and physical line, and the state. -/
def Copy.invalidate (x : Copy) (s : State) : (Nat × Nat) × State :=
  match x with
  | .inl x => ((x.1, x.2.key), s.modCluster x.1 fun c => { c with l1 := c.l1.erase x.2 })
  | .inr x => ((x.1 / 8, x.2.key), s.modCore x.1 fun c =>
      { c with icache := c.icache.erase x.2, bodies := c.bodies.filter fun b => !b.keys.contains x.2.key })

/-- A copy becomes registered as a whole: the bytes that were not are the home's. -/
def L1Line.widen (home : BitVec 1024) (l : L1Line) : L1Line :=
  let kept : BitVec 1024 := (List.range 128).foldl (fun m j => if l.mask.getLsbD j then m ||| 0xFF#1024 <<< (8 * j) else m) 0
  { l with mask := BitVec.allOnes 128, entries := 1, data := l.data &&& kept ||| home &&& ~~~kept }

/-- A home slice frees entries (R143): those of one copy of the line become one entry for the whole line, or else the copy whose newest
registration is oldest is invalidated. -/
def freeRange (ctx va key : Nat) (s : State) : State :=
  match (s.copiesAt (homeSlice key)).find? (Copy.merges key) with
  | some (.inl x) =>
    traceLater x.1 10 1 ctx (.ofNat 64 va) (.ofNat 64 (key * 128)) (s.modCluster x.1 fun c => { c with
      l1 := c.l1.map fun l => if l = x.2 then l.widen (s.lineAt key) else l })
  | _ =>
    match (s.copiesAt (homeSlice key)).foldl (fun (b : Option Copy) x => match b with
        | none => some x
        | some y => if x.newest < y.newest then some x else some y) none with
    | some x =>
      let r := x.invalidate s
      traceLater r.1.1 10 2 ctx (.ofNat 64 va) (.ofNat 64 (r.1.2 * 128)) r.2
    | none => s

/-- Room for n registrations of a line at its home slice, which holds 4,096 (R143). Each freeing frees one entry at least. -/
def makeRange (ctx va key n : Nat) : Nat → State → State
  | 0, s => s
  | f + 1, s => if key = zeroLine || s.rangesAt (homeSlice key) + n ≤ 4096 then s else makeRange ctx va key n f (freeRange ctx va key s)

/-- The set of a fetch line in the instruction cache: VA[13:6] (R174). -/
def codeSet (line : Nat) : Nat := line % 256

/-- A fetch line stands first in a core's instruction cache; where its set of four ways is full, the line least recently used leaves (R174,
R178). -/
def Core.fillCode (l : CodeLine) (c : Core) : Core :=
  let rest := c.icache.filter fun x => !(x.asid == l.asid && x.line == l.line)
  let same := rest.filter fun x => codeSet x.line == codeSet l.line
  { c with icache := l :: (match same.getLast? with | some x => if 4 ≤ same.length then rest.erase x else rest | none => rest) }

/-- A fetch reads a line through the instruction cache: a miss fills and registers it, and is traced (R174, R176, R178). -/
def fetchCode (agent : Nat) (asid : BitVec 16) (line key : Nat) (s : State) : State :=
  let core := coreOf agent
  match (s.core core).icache.find? fun x => x.asid == asid && x.line == line && x.key == key / 128 with
  | some x => s.modCore core (Core.fillCode x)
  | none =>
    let va := line * 64
    let s := traceLater (core / 8) 10 0 (ctxNumber agent) (.ofNat 64 va) (.ofNat 64 (key / 128 * 128)) (makeRange (ctxNumber agent) va (key / 128) 1 1 s)
    (traffic 2 false [key] ((s.walked core asid va).touch (key / 128))).modCore core (Core.fillCode ⟨asid, line, key / 128, s.free⟩)

/-- A line stands first among a cluster's; where its set of eight ways is full, the line least recently used leaves (R137, R139). -/
def Cluster.fill (l : L1Line) (c : Cluster) : Cluster :=
  let rest := c.l1.filter fun x => !(x.asid == l.asid && x.vline == l.vline)
  let same := rest.filter fun x => l1Set x.vline == l1Set l.vline
  { c with l1 := l :: (match same.getLast? with | some x => if 8 ≤ same.length then rest.erase x else rest | none => rest) }

/-- An access to a line: one that its copy serves makes the copy the most recent; any other fills or refreshes the copy, and registers the
bytes m by n range entries (R138, R141). Lines of scratchpads, host and peers are never cached (R258, R409). -/
def State.register (s : State) (agent : Nat) (asid : BitVec 16) (va key : Nat) (m : BitVec 128) (n : Nat) (r w : Bool) : State :=
  let cl := clusterOf agent
  if !(isLocal (key * 128) || key == zeroLine) || m == 0 then s else
  match (findL1 (s.cluster cl) asid (va / 128)).filter fun l => l.key == key && l.r && (l.mask &&& m) == m with
  | some l => s.modCluster cl (Cluster.fill l)
  | none =>
    let s := traceLater cl 10 0 (ctxNumber agent) (.ofNat 64 va) (.ofNat 64 (key * 128)) (makeRange (ctxNumber agent) va key n n s)
    let old := (findL1 (s.cluster cl) asid (va / 128)).filter fun l => l.key == key
    s.modCluster cl (Cluster.fill ⟨asid, va / 128, key, r, w, m ||| (old.map L1Line.mask).getD 0, if key = zeroLine then 0 else s.lineAt key,
      n + (old.map L1Line.entries).getD 0, s.free⟩)

/-- The lines that an access's bytes lie in: the address of the first byte in each, its physical line, the bits of its bytes. -/
def linesOf (ks : List (Nat × Option Nat)) : List (Nat × Nat × BitVec 128) :=
  ks.foldl (fun acc x =>
    let m : BitVec 128 := 1#128 <<< (x.1 % 128)
    let k := match x.2 with | some k => k / 128 | none => zeroLine
    if acc.any (fun (y : Nat × Nat × BitVec 128) => y.1 / 128 == x.1 / 128) then
      acc.map fun y => if y.1 / 128 == x.1 / 128 then (y.1, y.2.1, y.2.2 ||| m) else y
    else acc ++ [(x.1, k, m)]) []

/-- The bytes of a line that the remaining issues of a sticky access would read, 128 elements at most (R39, R141): from issue to issue the bytes
read move by the step, and those of one issue span no more than 256. -/
def stepBits (step : Int) (ks : List (Nat × Option Nat)) (line : Nat) : BitVec 128 :=
  (List.range (if step = 0 then 1 else Nat.min 128 (512 / step.natAbs + 1))).foldl (fun m (j : Nat) => ks.foldl (fun (m : BitVec 128) x =>
    let o : Int := (x.1 : Int) + (j : Int) * step - (line : Int) * 128
    if 0 ≤ o ∧ o < 128 then m ||| 1#128 <<< o.toNat else m) m) 0

/-- The starts of elements form a progression. -/
def isProgression : List Nat → Bool
  | a :: b :: r => (b :: r).zipIdx.all fun x => (x.1 : Int) == a + ((x.2 : Int) + 1) * ((b : Int) - a)
  | _ => true

/-- The permissions of the leaf that an address is under, as its line records them (R138): a read-duplicate page takes no write. -/
def permsOf (s : State) (core : Nat) (asid : BitVec 16) (va : Nat) : Bool × Bool :=
  match s.lookup core asid va with
  | .leaf w _ _ => (leafR w, leafW w && leafV w && !leafRdup w)
  | .unmapped _ => (false, false)
  | .bad => (false, false)
  | .shut => (false, false)

/-- Register what a load reads (R141): its bytes in one range for each line, the progression of a sticky one, or, for the elements that
GATH reads, one for each, or one in all where they form a progression. -/
def registerAs (agent : Nat) (asid : BitVec 16) (step : Option Int) (starts : List Nat) (ks : List (Nat × Option Nat)) (s : State) : State :=
  (linesOf ks).foldl (fun s l =>
    let p := permsOf s (coreOf agent) asid l.1
    let extra := match step with | some d => stepBits d ks (l.1 / 128) | none => 0
    let mine := starts.filter fun a => a / 128 == l.1 / 128
    s.register agent asid l.1 l.2.1 (l.2.2 ||| extra) (if isProgression mine then 1 else mine.length) p.1 (p.2 && l.2.1 != zeroLine)) s

/-! Performing. -/

/-- The new value of an atomic operation on n bytes; none where nothing is written (R154). -/
def amoVal (aop n m x c : Nat) : Option Nat :=
  let w := 8 * n
  let x := x % 2 ^ w
  match aop with
  | 0 => some ((m + x) % 2 ^ w)
  | 1 => some (roundTo 0 0 false none false (addNum false (numOf 0 m) (numOf 0 x)).1).1
  | 2 => some (if sext w x < sext w m then x else m)
  | 3 => some (if sext w m < sext w x then x else m)
  | 4 => some (if x < m then x else m)
  | 5 => some (if m < x then x else m)
  | 6 => some (m &&& x)
  | 7 => some (m ||| x)
  | 8 => some (m ^^^ x)
  | 9 => some x
  | _ => if m = c % 2 ^ w then some x else none

/-- The combining operation of SCAT.ADD on elements of n bytes (R311). -/
def scatComb (fadd : Bool) (n u v : Nat) : Nat := if fadd then (amoVal 1 4 u v 0).getD 0 else (u + v) % 2 ^ (8 * n)

/-- The cells that a value of n bytes writes at keys. -/
def cellsAt (ks : List (Nat × Option Nat)) (v : Nat) : List (Nat × Nat × Byte) :=
  (ks.zipIdx).filterMap fun x => x.1.2.map fun k => (x.1.1, k, BitVec.ofNat 8 (v / 2 ^ (8 * x.2)))

/-- Fill a record whose value has arrived, live or set aside, wherever its context is (R199, R398, R399). -/
def fillRecord (id : Nat) (f : Vec → Vec) (s : State) : State :=
  let fill := fun (l : List Rec) => l.map fun r => if r.id = id then { r with val := f r.val, ready := true } else r
  { s with ctxs := s.ctxs.map fun x => (x.1, { x.2 with
      flow := { x.2.flow with records := fill x.2.flow.records }, saved := { x.2.saved with records := fill x.2.saved.records } }) }

/-- The cells of a plain store that it writes when it performs: only the barrier instructions and arrivals write a live granule, so a store
that meets one then leaves it (R277, log 35). -/
def State.notLive (s : State) (cells : List (Nat × Nat × Byte)) : List (Nat × Nat × Byte) :=
  cells.filter fun c => !(isPad c.2.1 && s.live c.2.1)

/-- A read-modify-write at the home, indivisibly (R154): the old value, and the state after. -/
def atHomeAs (agent : Nat) (asid : BitVec 16) (ks : List (Nat × Option Nat)) (f : Nat → Option Nat) (s : State) : Nat × State :=
  let m := loadAs agent asid true ks s
  let s := reach agent false (ks.filterMap Prod.snd) (traffic 2 false (ks.filterMap Prod.snd) s)
  match f m with
  | some v => (m, s.performBytes agent asid (s.notLive (cellsAt ks v)))
  | none => (m, s)

/-- A load fixes its value, registers what it read, and makes the traffic that it needs; the bytes that a copy serves do not reach the home
(R138, R145). -/
def loadNow (agent : Nat) (asid : BitVec 16) (sync lur : Bool) (step : Option Int) (starts : List Nat) (ks : List (Nat × Option Nat))
    (s : State) : Nat × State :=
  let l := (ks.filter fun x => sync || (lineServes (s.cluster (clusterOf agent)) asid ks x.1).isNone).filterMap Prod.snd
  (loadAs agent asid sync ks s, reach agent (!sync) l (traffic 2 lur l (registerAs agent asid step starts ks s)))

/-- What an access does when it performs. -/
def Act.perform (agent : Nat) (asid : BitVec 16) (s : State) : Act → State
  | .away => s
  | .load rec sync lur shape step starts ks =>
    let v := loadNow agent asid sync lur step starts ks s
    fillRecord rec (fun _ => shape.value v.1) v.2.tick
  | .amo rec aop n x c ks =>
    let r := atHomeAs agent asid ks (fun m => amoVal aop n m x c) s
    fillRecord rec (fun _ => BitVec.ofNat 2048 r.1) r.2
  | .add fadd n v ks => (atHomeAs agent asid ks (fun m => some (scatComb fadd n m v)) s).2
  | .line sys va key =>
    let s := s.dropL1 (clusterOf agent) asid (va / 128)
    if sys then traffic 2 false [key] (s.writeBack (key / 128)) else s
  | .fetch va key =>
    let p := permsOf s (coreOf agent) asid va
    traffic 2 false [key] (s.register agent asid va (key / 128) (BitVec.allOnes 128) 1 p.1 p.2)

/-- An access waits for an event of another unit. -/
def Pend.isAway : Pend → Bool
  | .access _ _ _ _ _ _ .away => true
  | _ => false

/-- The cells of a plain or release store perform (R139), with the traffic that they need (R130, R145). -/
def State.performStore (s : State) (agent : Nat) (rel : Bool) (asid : BitVec 16) (cells : List (Nat × Nat × Byte)) : State :=
  let l := cells.map fun (c : Nat × Nat × Byte) => c.2.1
  reach agent (!rel) l (traffic 2 false l (s.performBytes agent asid (s.notLive cells)))

/-- Perform one pending access of an agent, if its predecessors in the order allow it, and no other unit is to perform it. -/
def State.performOne (s : State) (agent id : Nat) : State :=
  let l := (s.ctx agent).order.pend
  match l.find? (fun p => p.sid == some id) with
  | none => s
  | some p =>
    if p.isAway || !(mustFirst p.asLater (l.takeWhile fun p => p.sid != some id)).isEmpty then s
    else
      (match p with
       | .store _ _ _ rel asid cells => s.performStore agent rel asid cells
       | .access _ _ _ _ asid _ act => act.perform agent asid s
       | .fenceC .. => s
       | .fenceR .. => s).modCtx agent (Ctx.dropPend id)

/-- Perform, oldest first, those of an agent's pending accesses that a list names, and what they must follow. -/
def State.force (s : State) (agent : Nat) (ids : List Nat) : State :=
  if ids.isEmpty then s else
  let last := ((s.ctx agent).order.pend.reverse.dropWhile fun p => !(match p.sid with | some i => ids.contains i | none => false)).reverse
  let need := last.foldr (fun p acc =>
    match p.sid with
    | some id => if acc.contains id then acc ++ mustFirst p.asLater (last.takeWhile fun q => q.sid != some id) else acc
    | none => acc) ids
  last.foldl (fun s p => match p.sid with | some i => if need.contains i then s.performOne agent i else s | none => s) s

/-- Accesses that a list names perform, wherever their contexts are. -/
def State.forceIds (s : State) (ids : List Nat) : State :=
  ids.foldl (fun s id => match s.holder id with | some a => s.force a [id] | none => s) s

/-- One of them has still to perform. -/
def State.anyPending (s : State) (ids : List Nat) : Bool := ids.any fun id => (s.holder id).isSome

/-- The pending accesses of the agent in issue that must perform before an access performs (R159, R161, R164, R169, R171) do so, as far as
other units do not have to perform them first (log 35). -/
def inOrder (b : Later) (s : State) : State := s.force s.issue.agent (mustFirst b s.me.order.pend)

/-- The accesses that still hold back one of the agent in issue: they wait for other units. -/
def heldBy (b : Later) (s : State) : List Nat := mustFirst b s.me.order.pend

/-- The aligned 8 bytes that an event performs of a plain store: those that a free value picks, if others remain (R165, log 5). -/
def partOf (s : State) (cells : List (Nat × Nat × Byte)) : List (Nat × Nat × Byte) × List (Nat × Nat × Byte) :=
  let pick := Config.bits (s.free * 1024 + 1001)
  let p := cells.partition fun c => pick.getLsbD (c.1 / 8 % 64)
  if p.1.isEmpty then (cells, []) else p

/-- What remains of an access still stands before every fence of a list that covers it. -/
def stillCovered (a : Earlier) (rest : List (Nat × Nat × Byte)) (fs : List Pend) : Bool :=
  fs.all fun f => !f.covers a || f.covers { a with cells := rest }

/-- Perform part of a plain store, in aligned 8 bytes; the whole of it, where a range fence after it would lose sight of the rest (R171). -/
def State.performPart (s : State) (agent id : Nat) : State :=
  let l := (s.ctx agent).order.pend
  match l.find? (fun p => p.sid == some id) with
  | some (.store i cls sc rel asid cells) =>
    let q := partOf s cells
    if rel || q.2.isEmpty || !stillCovered ⟨some cls, sc, false, cells⟩ q.2 ((l.dropWhile fun p => p.sid != some id).drop 1) then
      s.performOne agent id
    else if (mustFirst (Pend.store i cls sc rel asid cells).asLater (l.takeWhile fun p => p.sid != some id)).isEmpty then
      (s.performStore agent false asid q.1).modCtx agent fun c => { c with order := {
        pend := c.order.pend.map fun p => if p.sid == some id then .store i cls sc rel asid q.2 else p
        split := if c.order.split.contains id then c.order.split else id :: c.order.split } }
    else s
  | _ => s.performOne agent id

end Sys2Proof.Machine
end

