-- ==== Sys2Proof/Machine/Access.lean ====
section
/-! DEFINITION. Machine/Access.lean: the load, store, atomic and cache instructions (R149-R155), VSPILL and VFILL (R66-R69),
gather and scatter (R309-R311), and the access queues (R305). A load performs at its issue, or, where its data is late or an access that must
come first waits for another unit, later (R149, R161); a plain store performs later (log 8, log 9). -/

namespace Sys2Proof.Machine

/-- A computation that ends in the outcome of an attempt, or goes on with a value and the state. -/
abbrev Try (α : Type) := Except Res (α × State)

/-- The outcome of a computation whose value is a result. -/
def Try.run {α : Type} (t : Try α) (k : α → State → Res) : Res :=
  match t with
  | .ok (v, s) => k v s
  | .error r => r

/-- Go on with a computation. -/
def Try.next {α β : Type} (t : Try α) (k : α → State → Try β) : Try β :=
  match t with
  | .ok (v, s) => k v s
  | .error r => .error r

/-- The launch of an agent: an access program's is its starter's. -/
def launchOf (s : State) (a : Nat) : Nat :=
  if isAccess a then (match (s.core (coreOf a)).access with | some (o, _) => (s.ctx o).task.launch | none => 0)
  else (s.ctx a).task.launch

/-- An agent's launch maps a bank of its cluster (R261). -/
def bankOk (s : State) (a b : Nat) : Bool :=
  let e := mget 0 (s.cluster (clusterOf a)).banks b
  e % 4 != 0 && e / 4 == launchOf s a

/-- Wait for an answer where the inputs say that the translation is not at hand (R140). -/
def awaitWalk (va : Nat) (need : Need) (s : State) : Try Unit :=
  if inWindow va || !canonical va || (heldTr (s.core (coreOf s.issue.agent)).tlb s.me.ctl.asid va).isSome then .ok ((), s)
  else
    match s.env.walks with
    | true :: _ => .error (.block (.trans s.issue.slot va need))
    | false :: r => .ok ((), { s with env := { s.env with walks := r } })
    | [] => .ok ((), s)

/-- The cause that a place raises, or its key; none reads as zeros. A write that commits its tile first does so (R355); an empty
pool raises 0x0C marked so (R356). -/
def placeKey (va : Nat) (need : Need) (s : State) (p : Place) : Try (Option Nat) :=
  match p with
  | .at k => .ok (some k, s.holdTr (coreOf s.issue.agent) s.me.ctl.asid va)
  | .zero => .ok (none, s)
  | .commit entry w =>
    (match commitAs 2 s.me.ctl.asid va entry s with
     | .error c => .error (.trap (s.poolTrap c va w))
     | .ok s' =>
       match s'.place s'.issue.agent s'.me.ctl.asid (bankOk s' s'.issue.agent) va need with
       | .at k => .ok (some k, s'.holdTr (coreOf s.issue.agent) s.me.ctl.asid va)
       | .zero => .error (.trap (s.cause 0x09 0 (BitVec.ofNat 64 va) true))
       | .commit _ _ => .error (.trap (s.cause 0x09 0 (BitVec.ofNat 64 va) true))
       | .cause c w => .error (.trap (s.cause c 0 (BitVec.ofNat 64 va) w)))
  | .cause c w => .error (.trap (s.cause c 0 (BitVec.ofNat 64 va) w))

/-- Translate one address of the agent in issue. -/
def resolve (va : Nat) (need : Need) (s : State) : Try (Option Nat) :=
  (awaitWalk va need s).next fun _ s =>
    placeKey va need (s.walked (coreOf s.issue.agent) s.me.ctl.asid va) (s.place s.issue.agent s.me.ctl.asid (bankOk s s.issue.agent) va need)

/-- The address of a byte of an access. -/
def vaAt (a : W64) (o : Nat) : Nat := (a.toNat + o) % 2 ^ 64

/-- The pages of 64 KiB that the governed bytes of an access touch, with the first such byte of each. -/
def pagesOf (a : W64) (offs : List Nat) : List Nat :=
  (offs.foldl (fun acc o => match acc with
    | [] => [o]
    | p :: r => if vaAt a p / 65536 = vaAt a o / 65536 then p :: r else o :: p :: r) []).reverse

/-- What the agent's L1 copy of the line of a byte gives to an access that it serves without a translation (R138): a read whose bytes in
the line are all registered, a store to a line with write permission. -/
def hitOf (s : State) (need : Need) (vas : List Nat) (va : Nat) : Option (Option Nat) :=
  let l := findL1 (s.cluster (clusterOf s.issue.agent)) s.me.ctl.asid (va / 128)
  (l.filter fun l => match need with
    | .read => l.r && vas.all fun x => decide (x / 128 ≠ va / 128) || l.mask.getLsbD (x % 128)
    | .write => l.w
    | .home => false
    | .both => false
    | .exec => false
    | .ahead => false
    | .slot => false).map fun l => if l.key = zeroLine then none else some (l.key * 128 + va % 128)

/-- The first governed byte whose channel takes no access (R135). -/
def closedByte (ks : List (Nat × Option Nat)) (s : State) : Option Nat :=
  (ks.find? fun x => match x.2 with | some k => isLocal k && s.shut k | none => false).map Prod.fst

/-- The keys of the governed bytes of an access, page by page: (address, key). A page with no governed byte is not accessed (R151), and a
page whose bytes the L1 serves is not translated (R138). -/
def spanKeys (need : Need) (a : W64) (offs : List Nat) : List Nat → State → Try (List (Nat × Option Nat))
  | [], s => .ok ([], s)
  | p :: ps, s =>
    let mine := (offs.filter fun o => vaAt a o / 65536 == vaAt a p / 65536).map (vaAt a)
    let go := fun (ks : List (Nat × Option Nat)) (s' : State) =>
      match closedByte ks s' with
      | some x => .error (.trap (s.cause 0x0A 0 (BitVec.ofNat 64 x) (need == .write || need == .both)))
      | none => (spanKeys need a offs ps s').next fun r s => .ok (ks ++ r, s)
    match mine.find? fun va => (hitOf s need mine va).isNone with
    | none => go (mine.map fun va => (va, (hitOf s need mine va).getD none)) s
    | some q => (resolve q need s).next fun k s' => go (mine.map fun va => (va, (hitOf s need mine va).getD (k.map fun k => k + va - q))) s'

/-- The keys of the bytes of an access at a list of offsets (log 34). -/
def keysOf (need : Need) (a : W64) (offs : List Nat) (s : State) : Try (List (Nat × Option Nat)) :=
  spanKeys need a offs (pagesOf a offs) s

/-- The cells of an access, with zeros for values: what the order compares (R159, R171). -/
def cellsOf (ks : List (Nat × Option Nat)) : List (Nat × Nat × Byte) :=
  ks.filterMap fun x => x.2.map fun k => (x.1, k, 0)

/-- The next load's data is late, if the inputs say so (R149). -/
def takeLate (s : State) : Bool × State :=
  match s.env.late with
  | [] => (false, s)
  | b :: r => (b, { s with env := { s.env with late := r } })

/-- The value of the loaded bytes of the agent in issue, little-endian; `sync` reads at the home (R153). -/
def loadValue (sync : Bool) (ks : List (Nat × Option Nat)) (s : State) : Nat := loadAs s.issue.agent s.me.ctl.asid sync ks s

/-- The base value of an access: latched for a re-issue of a sticky access (R39). -/
def accBase (b : SCode) (s : State) : W64 := if s.issue.fresh then s.sc b else s.issue.base
/-- The class of an access (R31, R39). -/
def accCls (h : MHead) (s : State) : BitVec 4 := if s.issue.fresh then h.cls.getD s.issue.clsdef else s.issue.cls
/-- The address of an access (R39). -/
def accAddr {n m : Nat} (base : W64) (ofs : BitVec n) (stride : BitVec m) (size count : Nat) : W64 :=
  base + (ofs.signExtend 64 + BitVec.ofNat 64 count * stride.signExtend 64) * BitVec.ofNat 64 size

/-- Cause 0x0D for an address that is no multiple of an alignment (R149); FINFO.WR says whether the access is a write (R391). -/
def aligned (wr : Bool) (a : W64) (n : Nat) (s : State) : Try Unit :=
  if a.toNat % n ≠ 0 then .error (.trap (s.cause 0x0D 0 a wr)) else .ok ((), s)

/-- A load whose keys are known puts its result, of a latency, a destination and a mask, into the in-flight buffer. The accesses that must
come first perform; the load then performs, or, where its data is late (R149) or such an access waits for another unit (R161), joins the
agent's pending accesses. -/
def loadRec (sync lur : Bool) (cls : BitVec 4) (scope : Nat) (shape : Shape) (step : Option Int) (starts : List Nat)
    (ks : List (Nat × Option Nat)) (lat : Nat) (d : Dest) (mask : Vec) (s : State) : Res :=
  let b := plainLater cls (cellsOf ks)
  let l := takeLate (inOrder b s)
  let s := l.2
  if l.1 || !(heldBy b s).isEmpty then
    let id := s.free
    (putRec lat d mask 0 0 false s).bind fun t =>
      .ok (t.modMe (Ctx.addPend (.access id (some cls) scope true s.me.ctl.asid (cellsOf ks) (.load id sync lur shape step starts ks))))
  else
    let v := loadNow s.issue.agent s.me.ctl.asid sync lur step starts ks s
    putRec lat d mask (shape.value v.1) 0 true v.2

/-- The lowest address of a live granule that a store would write (R278). -/
def liveHit (ks : List (Nat × Option Nat)) (s : State) : Option Nat :=
  (ks.filter fun x => match x.2 with | some k => isPad k && s.live k | none => false).foldl (fun m x => match m with
    | none => some x.1
    | some a => some (Nat.min a x.1)) none

/-- A plain or release store of cells enters the agent's pending stores (R139, R158); a live granule raises 0x0E. -/
def storeCells (cls : BitVec 4) (scope : Nat) (rel : Bool) (ks : List (Nat × Option Nat)) (v : Nat → Byte) (s : State) : Res :=
  match liveHit ks s with
  | some a => .trap (s.cause 0x0E 0 (BitVec.ofNat 64 a) true)
  | none =>
    let cells := ks.zipIdx.filterMap fun x => x.1.2.map fun k => (x.1.1, k, v x.2)
    if cells.isEmpty then .ok s
    else .ok (s.tick.modMe (Ctx.addPend (.store s.free cls scope rel s.me.ctl.asid cells)))

/-- The stride in bytes of a sticky access (R141). -/
def stickyStep (i : Instr) (stride : Int) (size : Nat) : Option Int := if (info i).sticky then some (stride * size) else none

/-- LD and LDA (R150, R153). -/
def loadScalar (i : Instr) (sync lur : Bool) (lat : Nat) (h : MHead) (d : BitVec 5) (base : SCode) (n : Nat) (sx : Bool)
    (stride : BitVec 11) (ofs : BitVec 14) (s : State) : Host.Outcome State Fault Refusal :=
  runSlot i (accBase base s) (accCls h s) (fun t =>
    let a := accAddr (accBase base t) ofs stride n t.issue.count
    ((aligned false a n t).next fun _ t => keysOf (if sync then .home else .read) a (List.range n) t).run fun ks t =>
      loadRec sync lur (accCls h t) h.scope.toNat (.scalar sx n) (stickyStep i stride.toInt n) [] ks lat (t.destS (slotTag i t) d)
        (BitVec.allOnes 2048) (noteTag 0 d.toNat (slotTag i t) t)) s

/-- LD (R150). -/
def execLd (st : Bool) (h : MHead) (d : BitVec 5) (base : SCode) (lur : Bool) (size : BitVec 2) (sx : Bool) (stride : BitVec 11)
    (ofs : BitVec 14) (s : State) : Host.Outcome State Fault Refusal :=
  loadScalar (.ld st h d base lur size sx stride ofs) false lur 10 h d base (2 ^ size.toNat) sx stride ofs s

/-- LDA (R153): it reads at the home. -/
def execLda (h : MHead) (d : BitVec 5) (base : SCode) (lur : Bool) (size : BitVec 2) (sx : Bool) (ofs : BitVec 14) (s : State) :
    Host.Outcome State Fault Refusal :=
  loadScalar (.lda h d base lur size sx ofs) true lur 32 h d base (2 ^ size.toNat) sx 0 ofs s

/-- A store has an axis conflict (R341): the data is tagged with a level that the address is not. -/
def axisConflict (data addr : BitVec 3) : Bool := (data &&& ~~~addr) != 0

/-- The slot of tag u acts in this issue for the last time in its bundle (R336, R341). -/
def lastToAct (u : BitVec 3) (s : State) : Bool := (actors s.me.flow.lift s.issue.tag u).getLast? == some s.issue.flat

/-- The store of R341: in an axis conflict the `.last` bit must be set, and only the last enabled instance in issue order stores. `u` is the
slot's tag. -/
def underAxis (u data addr : BitVec 3) (last : Bool) (s : State) (k : State → Res) : Res :=
  if axisConflict data addr then
    if !last then .trap (s.cause 0x12)
    else if lastToAct u s then k s else .ok s
  else k s

/-- ST and STREL (R150, R153). -/
def storeScalar (i : Instr) (rel : Bool) (h : MHead) (x : SCode) (base : SCode) (lur : Bool) (n : Nat) (stride : BitVec 11)
    (ofs : BitVec 14) (s : State) : Host.Outcome State Fault Refusal :=
  runSlot i (accBase base s) (accCls h s) (fun t =>
    let l := t.me.flow.lift
    let a := accAddr (accBase base t) ofs stride n t.issue.count
    let v := t.sc x
    underAxis (slotTag i t) (tagOfS l x) (tagOfS l base) lur t fun t =>
      ((aligned true a n t).next fun _ t => keysOf .write a (List.range n) t).run fun ks t =>
        storeCells (accCls h t) h.scope.toNat rel ks (fun o => v.extractLsb' (8 * o) 8) t) s

/-- ST (R150). -/
def execSt (st : Bool) (h : MHead) (x : SCode) (base : SCode) (lur : Bool) (size : BitVec 2) (stride : BitVec 11) (ofs : BitVec 14)
    (s : State) : Host.Outcome State Fault Refusal :=
  storeScalar (.st st h x base lur size stride ofs) false h x base lur (2 ^ size.toNat) stride ofs s

/-- STREL (R153): a release over its class at its scope. -/
def execStrel (h : MHead) (x : SCode) (base : SCode) (lur : Bool) (size : BitVec 2) (ofs : BitVec 14) (s : State) :
    Host.Outcome State Fault Refusal :=
  storeScalar (.strel h x base lur size ofs) true h x base lur (2 ^ size.toNat) 0 ofs s

/-- The bytes that a predicate governs. -/
def govern (p : Pred) : List Nat := (List.range 256).filter fun b => p.getLsbD b

/-- VLD (R151). -/
def execVld (st : Bool) (h : MHead) (p : BitVec 4) (d : BitVec 10) (base : SCode) (lur : Bool) (stride ofs : BitVec 14) (s : State) :
    Host.Outcome State Fault Refusal :=
  let i := Instr.vld st h p d base lur stride ofs
  runSlot i (accBase base s) (accCls h s) (fun t =>
    let a := accAddr (accBase base t) ofs stride 256 t.issue.count
    let g := t.pr p
    ((aligned false a 64 t).next fun _ t => keysOf .read a (govern g) t).run fun ks t =>
      loadRec false lur (accCls h t) h.scope.toNat (.vector (govern g)) (stickyStep i stride.toInt 256) [] ks 14
        (t.destV (slotTag i t) d.toNat) (byteMask g) (noteTag 1 d.toNat (slotTag i t) t)) s

/-- VST (R151). -/
def execVst (st : Bool) (h : MHead) (p : BitVec 4) (x : VCode) (base : SCode) (lur : Bool) (stride ofs : BitVec 14) (s : State) :
    Host.Outcome State Fault Refusal :=
  let i := Instr.vst st h p x base lur stride ofs
  runSlot i (accBase base s) (accCls h s) (fun t =>
    let l := t.me.flow.lift
    let a := accAddr (accBase base t) ofs stride 256 t.issue.count
    let v := t.vc 0 x
    let g := govern (t.pr p)
    underAxis (slotTag i t) (tagOfVC l x) (tagOfS l base) lur t fun t =>
      ((aligned true a 64 t).next fun _ t => keysOf .write a g t).run fun ks t =>
        storeCells (accCls h t) h.scope.toNat false ks (fun n => v.extractLsb' (8 * g.getD n 0) 8) t) s

/-! VLDC (R128, R129, R152). -/

/-- A vector result. -/
def putLoadV (u : BitVec 3) (lat : Nat) (d : BitVec 10) (mask v : Vec) (ready : Bool) (s : State) : Res :=
  putRec lat (s.destV u d.toNat) mask v 0 ready (noteTag 1 d.toNat u s)

/-- The cells by which the order and the range fences see a VLDC: its addresses, and keys that no other access has, since R159 excepts it. -/
def vldcCells (a : W64) (id : Nat) : List (Nat × Nat × Byte) :=
  (List.range 256).map fun o => (vaAt a o, 2 ^ 91 + 256 * id + o, 0)

/-- VLDC (R152): its value is what memory holds at its slot, which CALENDAR_SLOT brings; an uncommitted tile reads as zeros. Until then it is
an access of its agent that has not performed (R157, R161). -/
def execVldc (st : Bool) (h : MHead) (p : BitVec 4) (d : BitVec 10) (base : SCode) (stride ofs : BitVec 14) (s : State) :
    Host.Outcome State Fault Refusal :=
  let i := Instr.vldc st h p d base stride ofs
  runSlot i (accBase base s) (accCls h s) (fun t =>
    let a := accAddr (accBase base t) ofs stride 256 t.issue.count
    let u := slotTag i t
    let m := byteMask (t.pr p)
    if inWindow a.toNat && a.toNat % 256 == 0 then .trap (t.cause 0x0A 0 a) else
    ((aligned false a 256 t).next fun _ t => resolve a.toNat .slot t).run fun k t =>
      match k with
      | none => putLoadV u 240 d m 0 true t
      | some k =>
        if !isLocal k then .trap (t.cause 0x0A 0 a) else
        let id := t.free
        (putLoadV u 240 d m 0 false t).bind fun t =>
          .ok ((t.modMe (Ctx.addPend (.access id (some (accCls h t)) h.scope.toNat true t.me.ctl.asid (vldcCells a id) .away))).modChannel
            (channelOf k) fun c => { c with reqs := c.reqs ++ [(t.time, t.issue.agent, id, k)] })) s

/-! AMO (R154). -/

/-- An atomic operation of the agent in issue at the home. -/
def atHome (ks : List (Nat × Option Nat)) (f : Nat → Option Nat) (s : State) : Nat × State := atHomeAs s.issue.agent s.me.ctl.asid ks f s

/-- The keys lie in this device's memory or in a scratchpad: not in host or peer memory. -/
def allHere (ks : List (Nat × Option Nat)) : Bool := ks.all fun x => x.2.all fun k => decide (k < 2 ^ 65)

/-- AMO (R154): like a load it performs at its issue, or later (R149, R161). -/
def execAmo (h : MHead) (aop : BitVec 4) (src base cmp : SCode) (rd : BitVec 5) (size : BitVec 2) (ofs : BitVec 14) (s : State) :
    Host.Outcome State Fault Refusal :=
  let i := Instr.amo h aop src base cmp rd size ofs
  runSlot i 0 0 (fun t =>
    let n := 2 ^ size.toNat
    let a := accAddr (t.sc base) ofs (0 : BitVec 14) n 0
    let x := (t.sc src).toNat
    let c := (t.sc cmp).toNat
    ((aligned true a n t).next fun _ t => keysOf .both a (List.range n) t).run fun ks t =>
      if !allHere ks then .trap (t.cause 0x0A 0 a true) else
      let b := plainLater (accCls h t) (cellsOf ks)
      let l := takeLate (inOrder b (noteTag 0 rd.toNat (slotTag i t) t))
      let t := l.2
      let d := t.destS (slotTag i t) rd
      if l.1 || !(heldBy b t).isEmpty then
        let id := t.free
        (putRec 40 d (BitVec.allOnes 2048) 0 0 false t).bind fun q =>
          .ok (q.modMe (Ctx.addPend (.access id (some (accCls h t)) h.scope.toNat true t.me.ctl.asid (cellsOf ks) (.amo id aop.toNat n x c ks))))
      else
        let r := atHome ks (fun m => amoVal aop.toNat n m x c) t
        putRec 40 d (BitVec.allOnes 2048) (.ofNat 2048 r.1) 0 true r.2) s

/-! Cache maintenance (R155). -/

/-- A cache instruction performs, or joins the pending accesses behind those that wait for other units; CFLUSH counts as a store, CINV and
CPREF as loads (R157). -/
def lineAct (h : MHead) (load : Bool) (cells : List (Nat × Nat × Byte)) (act : Act) (s : State) : State :=
  let b := plainLater (accCls h s) cells
  let s := inOrder b s
  if (heldBy b s).isEmpty then act.perform s.issue.agent s.me.ctl.asid s
  else s.tick.modMe (Ctx.addPend (.access s.free (some (accCls h s)) h.scope.toNat load s.me.ctl.asid cells act))

/-- The cells of the line of an address. -/
def lineCells (va k : Nat) : List (Nat × Nat × Byte) := (List.range 128).map fun o => (va / 128 * 128 + o, k / 128 * 128 + o, 0)

/-- CFLUSH and CINV (R155): the earlier stores to the line perform, the copy is dropped, and at `.sys` the home writes the line to
memory. Scratchpad, host and peer lines are at no level (R259, R409). -/
def lineOp (i : Instr) (load : Bool) (h : MHead) (base : SCode) (stride ofs : BitVec 14) (s : State) : Host.Outcome State Fault Refusal :=
  runSlot i (accBase base s) (accCls h s) (fun t =>
    let a := accAddr (accBase base t) ofs stride 128 t.issue.count
    if inWindow a.toNat then .ok t else
    (resolve a.toNat .read t).run fun k t =>
      match k with
      | none => .ok (lineAct h load [] (.line false a.toNat 0) t)
      | some k => if !isLocal k then .ok t else .ok (lineAct h load (lineCells a.toNat k) (.line (h.scope == 4) a.toNat k) t)) s

/-- CFLUSH (R155). -/
def execCflush (st : Bool) (h : MHead) (base : SCode) (stride ofs : BitVec 14) (s : State) : Host.Outcome State Fault Refusal :=
  lineOp (.cflush st h base stride ofs) false h base stride ofs s
/-- CINV (R155). -/
def execCinv (st : Bool) (h : MHead) (base : SCode) (stride ofs : BitVec 14) (s : State) : Host.Outcome State Fault Refusal :=
  lineOp (.cinv st h base stride ofs) true h base stride ofs s

/-- CPREF (R155): it never faults; at `.ctx` and `.core` the whole line is registered. -/
def execCpref (st : Bool) (h : MHead) (base : SCode) (stride ofs : BitVec 14) (s : State) : Host.Outcome State Fault Refusal :=
  runSlot (.cpref st h base stride ofs) (accBase base s) (accCls h s) (fun t =>
    let a := accAddr (accBase base t) ofs stride 128 t.issue.count
    if inWindow a.toNat then .ok t else
    match resolve a.toNat .ahead t with
    | .ok (some k, t) =>
      if 2 ≤ h.scope.toNat || !isLocal k then .ok t else .ok (lineAct h true (lineCells a.toNat k) (.fetch a.toNat k) t)
    | .ok (none, t) => .ok (if 2 ≤ h.scope.toNat then t else lineAct h true [] (.fetch a.toNat (zeroLine * 128)) t)
    | .error (.block b) => .block b
    | .error (.ok t) => .ok t
    | .error (.trap _) => .ok t
    | .error .stall => .ok t) s

/-- NOP.M (R11). -/
def execNopM (s : State) : Host.Outcome State Fault Refusal := runOp .nopM .ok s

/-! VSPILL and VFILL (R66-R69). -/

/-- The progress count of the slot of the issue (R69). -/
def progress (s : State) : Nat := if s.issue.slot = 6 then s.me.flow.g0 else s.me.flow.g1
/-- Set it. -/
def setProgress (g : Nat) (s : State) : State :=
  s.modMe fun c => { c with flow := if s.issue.slot = 6 then { c.flow with g0 := g } else { c.flow with g1 := g } }

/-- One move of VSPILL: the register of the current instance, read after the landings. -/
def spillMove (h : MHead) (a : W64) (n : Nat) (s : State) : Res :=
  let v := s.vnum s.me n
  (keysOf .write a (List.range 256) s).run fun ks s =>
    storeCells (accCls h s) h.scope.toNat false ks (fun o => v.extractLsb' (8 * o) 8) s

/-- The part of a faulting VSPILL register below the failing page boundary: each aligned 8 bytes holds one of the old contents and
the register's (R69, log 5). -/
def spillPart (h : MHead) (a : W64) (n : Nat) (s : State) : State :=
  let v := s.vnum s.me n
  let offs := (List.range 256).filter fun o =>
    vaAt a o / 65536 == a.toNat / 65536 && Config.choice (s.free * 1024 + 768 + o / 8) % 2 == 0
  match keysOf .write a offs s with
  | .ok (ks, s') =>
    (match storeCells (accCls h s') h.scope.toNat false ks (fun x => v.extractLsb' (8 * offs.getD x 0) 8) s' with
     | .ok t => t
     | .trap _ => s
     | .block _ => s
     | .stall => s).tick
  | .error _ => s

/-- One move of VFILL into vN: it enters no queue (R56) and makes a killed register live. Late data, or an access that must come first and
waits for another unit, holds the move. -/
def fillMove (h : MHead) (lur : Bool) (a : W64) (u : BitVec 3) (n : Nat) (s : State) : Res :=
  match s.env.late with
  | true :: _ => .block .late
  | _ =>
    (keysOf .read a (List.range 256) s).run fun ks s =>
      let b := plainLater (accCls h s) (cellsOf ks)
      let s := inOrder b (takeLate s).2
      match heldBy b s with
      | id :: r => .block (.order (id :: r))
      | [] =>
        let v := loadNow s.issue.agent s.me.ctl.asid false lur none [] ks s
        let s := v.2
        let p := s.physV u n
        let s := noteTag 1 n u s
        .ok (s.tick.modMe fun c =>
          let pair := (((mget none c.flow.prefill p).map Prod.fst).getD (s.vraw c p), BitVec.ofNat 2048 v.1)
          { writeV s c p (BitVec.allOnes 2048) pair.2 with flow := { c.flow with prefill := mset none c.flow.prefill p (some pair) } })

/-- What a VFILL that starts is to write is noted by register: the value before, and what its bytes of memory hold now; other slots, and moves of
the other M slot, may read either (R68). -/
def noteFills (i : Instr) (s : State) : State :=
  match i with
  | .vfill _ v base _ n1 ofs =>
    let a := accAddr (s.sc base) ofs (0 : BitVec 14) 256 0
    let u := slotTag i s
    (List.range (n1.toNat + 1 - progress s)).foldl (fun t d =>
      let j := progress s + d
      let p := s.physV u (v.toNat + j)
      let now := match keysOf .read (a + BitVec.ofNat 64 (256 * j)) (List.range 256) s with
        | .ok (ks, _) => BitVec.ofNat 2048 (loadAs s.issue.agent s.me.ctl.asid false ks s)
        | .error _ => s.vraw s.me p
      t.modMe fun c => { c with flow := { c.flow with prefill := mset none c.flow.prefill p (some (s.vraw s.me p, now)) } }) s
  | _ => s

/-- The moves of one cycle in a slot: at most two, from the progress count on (R67). The trap, if a move faults, comes with the
state in which the earlier moves stand. -/
def moveCycle (move : Nat → State → Res) (part : Nat → State → State) (n : Nat) : Nat → State → State × Option Res
  | 0, s => (s, none)
  | k + 1, s =>
    let g := progress s
    if n ≤ g then (s, none)
    else
      match move g s with
      | .ok s' => moveCycle move part n k (setProgress (g + 1) s')
      | .trap t => (part g s, some (.trap t))
      | .block b => (s, some (.block b))
      | .stall => (s, some .stall)

/-- The address from which the slot of the issue moves: formed once, before the first move of the issue (R68). -/
def moveBase (base : SCode) (ofs : BitVec 14) (s : State) : W64 × State :=
  match mget none s.me.moveAt s.issue.slot with
  | some a => (a, s)
  | none =>
    let a := accAddr (s.sc base) ofs (0 : BitVec 14) 256 0
    (a, s.modMe fun c => { c with moveAt := mset none c.moveAt s.issue.slot (some a) })

/-- The cycle of a VSPILL or VFILL word, after its alignment check (R66); none for other words. -/
def spillCycle (i : Instr) (s : State) : State × Option Res :=
  match i with
  | .vspill h v base _ n1 ofs =>
    let b := moveBase base ofs s
    let a := b.1
    if a.toNat % 64 ≠ 0 then (s, some (.trap (s.cause 0x0D 0 a true)))
    else
      let l := s.me.flow.lift
      let at' := fun (j : Nat) => a + BitVec.ofNat 64 (256 * j)
      let rn := fun (j : Nat) => s.physV (tagOfV l (v.toNat + j)) (v.toNat + j)
      moveCycle (fun j s => spillMove h (at' j) (rn j) s) (fun j s => spillPart h (at' j) (rn j) s) (n1.toNat + 1) 2 b.2
  | .vfill h v base lur n1 ofs =>
    let b := moveBase base ofs s
    let a := b.1
    if a.toNat % 64 ≠ 0 then (s, some (.trap (s.cause 0x0D 0 a)))
    else
      let u := slotTag i s
      moveCycle (fun j s => fillMove h lur (a + BitVec.ofNat 64 (256 * j)) u (v.toNat + j) s) (fun _ s => s) (n1.toNat + 1) 2 b.2
  | _ => (s, none)

/-- VSPILL and VFILL: the moves of one cycle. A fault of a move keeps the moves before it (R69). -/
def spillSlot (i : Instr) (s : State) : Host.Outcome State Fault Refusal :=
  match preTrap i s with
  | some t => finish s (.trap t)
  | none =>
    let r := spillCycle i (afterReads i s)
    match r.2 with
    | none => .next (stickyAfter i 0 0 r.1)
    | some e => finish r.1 e

/-- VSPILL (R66-R69): in an axis conflict only the last enabled instance is stored, where the bit is set (R341). -/
def execVspill (h : MHead) (v : BitVec 10) (base : SCode) (lur : Bool) (n1 : BitVec 10) (ofs : BitVec 14) (s : State) :
    Host.Outcome State Fault Refusal :=
  let i := Instr.vspill h v base lur n1 ofs
  let l := s.me.flow.lift
  let data := orTags ((List.range (n1.toNat + 1)).map fun j => tagOfV l (v.toNat + j))
  match underAxis (slotTag i s) data (tagOfS l base) lur s .ok with
  | .trap t => finish s (.trap ((preTrap i s).getD t))
  | _ =>
    if axisConflict data (tagOfS l base) && !lastToAct (slotTag i s) s then runOp i (fun t => .ok (setProgress (n1.toNat + 1) t)) s
    else spillSlot i s

/-- VFILL (R66-R69). -/
def execVfill (h : MHead) (v : BitVec 10) (base : SCode) (lur : Bool) (n1 : BitVec 10) (ofs : BitVec 14) (s : State) :
    Host.Outcome State Fault Refusal :=
  spillSlot (.vfill h v base lur n1 ofs) s

/-! Gather and scatter (R309-R311). -/

/-- Lanes of a size. -/
def laneCount (n : Nat) : Nat := 256 / n

/-- The lanes in use (R310). -/
def gatherCount (n : Nat) (cnt : SCode) (s : State) : Nat :=
  if cnt = .s 0 then laneCount n else Nat.min (s.sc cnt).toNat (laneCount n)

/-- The address of a lane (R310). -/
def gatherAddr (b : W64) (n : Nat) (idx : Option Vec) (l : Nat) : W64 :=
  let x : Int := match idx with | none => l | some v => sext 32 (laneN 32 v l)
  b + BitVec.ofInt 64 (x * n)

/-- The keys of the elements of a list of lanes. -/
def laneKeys (need : Nat → Need) (n : Nat) (at' : Nat → W64) : List Nat → State → Try (List (List (Nat × Option Nat)))
  | [], s => .ok ([], s)
  | l :: ls, s =>
    (keysOf (need l) (at' l) (List.range n) s).next fun k s =>
      (laneKeys need n at' ls s).next fun r s => .ok (k :: r, s)

/-- GATH (R310). -/
def execGath (h : MHead) (d : BitVec 10) (base : SCode) (lur : Bool) (sz : BitVec 2) (idx : Option VCode) (cnt : SCode) (s : State) :
    Host.Outcome State Fault Refusal :=
  runSlot (.gath h d base lur sz idx cnt) 0 0 (fun t =>
    let n := 2 ^ sz.toNat
    let b := t.sc base
    let c := gatherCount n cnt t
    let at' := gatherAddr b n (idx.map fun x => t.vc 0 x)
    ((aligned false b n t).next fun _ t => laneKeys (fun _ => .read) n at' (List.range c) t).run fun ks t =>
      loadRec false lur (accCls h t) h.scope.toNat (.vector (List.range (c * n))) none ((List.range c).map fun l => (at' l).toNat) ks.flatten 24
        (t.destV 0 d.toNat) (.ofNat 2048 (2 ^ (8 * n * c) - 1)) (noteTag 1 d.toNat 0 t)) s

/-- Store the elements of lanes, one store each, in ascending order. -/
def storeLanes (cls : BitVec 4) (scope : Nat) (v : Vec) (n : Nat) : List (Nat × List (Nat × Option Nat)) → State → Res
  | [], s => .ok s
  | (l, ks) :: r, s =>
    (storeCells cls scope false ks (fun o => v.extractLsb' (8 * (n * l + o)) 8) s).bind fun s => storeLanes cls scope v n r s

/-- SCAT (R310): an element in a live granule raises 0x0E at the lowest such address (R278). -/
def execScat (h : MHead) (x : VCode) (base : SCode) (lur : Bool) (sz : BitVec 2) (idx : Option VCode) (cnt : SCode) (s : State) :
    Host.Outcome State Fault Refusal :=
  runSlot (.scat h x base lur sz idx cnt) 0 0 (fun t =>
    let n := 2 ^ sz.toNat
    let b := t.sc base
    let iv := idx.map fun x => t.vc 0 x
    let ls := List.range (gatherCount n cnt t)
    ((aligned true b n t).next fun _ t => laneKeys (fun _ => .write) n (gatherAddr b n iv) ls t).run fun ks t =>
      match liveHit ks.flatten t with
      | some a => .trap (t.cause 0x0E 0 (BitVec.ofNat 64 a) true)
      | none => storeLanes (accCls h t) h.scope.toNat (t.vc 0 x) n (ls.zip ks) t) s

/-- The distinct addresses of a scatter in order of their lowest lanes, each with the combined data (R311). -/
def combineLanes (fadd : Bool) (n : Nat) : List (W64 × List (Nat × Option Nat) × Nat) → List (W64 × List (Nat × Option Nat) × Nat)
  | l => l.foldl (fun acc x =>
      if acc.any (fun y => y.1 == x.1) then acc.map fun y => if y.1 == x.1 then (y.1, y.2.1, scatComb fadd n y.2.2 x.2.2) else y
      else acc ++ [x]) []

/-- The elements of SCAT.ADD join the agent's pending accesses, one for each address, in order. -/
def addLanes (cls : BitVec 4) (scope : Nat) (fadd : Bool) (n : Nat) : List (W64 × List (Nat × Option Nat) × Nat) → State → State
  | [], s => s
  | (_, ks, v) :: r, s =>
    addLanes cls scope fadd n r (s.tick.modMe (Ctx.addPend
      (.access s.free (some cls) scope false s.me.ctl.asid (cellsOf ks) (.add fadd n v ks))))

/-- SCAT.ADD (R311): each of its read-modify-writes performs later, as a plain store does (R157). Scratchpad elements need no read permission
(R259); host and peer elements raise 0x0A as for AMO (log 9). -/
def execScatAdd (h : MHead) (x : VCode) (base : SCode) (lur : Bool) (sz : BitVec 2) (idx : Option VCode) (cnt : SCode) (fadd : Bool)
    (s : State) : Host.Outcome State Fault Refusal :=
  runSlot (.scatAdd h x base lur sz idx cnt fadd) 0 0 (fun t =>
    let n := 2 ^ sz.toNat
    let b := t.sc base
    let v := t.vc 0 x
    let ls := List.range (gatherCount n cnt t)
    let at' := gatherAddr b n (idx.map fun x => t.vc 0 x)
    let need := fun (l : Nat) => if inWindow (at' l).toNat then Need.write else Need.both
    ((aligned true b n t).next fun _ t => laneKeys need n at' ls t).run fun ks t =>
      match liveHit ks.flatten t with
      | some a => .trap (t.cause 0x0E 0 (BitVec.ofNat 64 a) true)
      | none =>
        if !allHere ks.flatten then .trap (t.cause 0x0A 0 b true) else
        .ok (addLanes (accCls h t) h.scope.toNat fadd n
          (combineLanes fadd n ((ls.zip ks).map fun y => (at' y.1, y.2, laneN (8 * n) v y.1))) t)) s

/-! The access queues (R304, R305). -/

/-- Entries of a queue of a core. -/
def queueOf (s : State) (core q : Nat) : List Vec := mget [] (s.core core).aq q
/-- Set them. -/
def setQueue (core q : Nat) (l : List Vec) (s : State) : State := s.modCore core fun c => { c with aq := mset [] c.aq q l }

/-- QPUSH (R305): `.core` is a release over all classes (R306). -/
def execQpush (core : Bool) (x : VCode) (q : BitVec 2) (s : State) : Host.Outcome State Fault Refusal :=
  runOp (.qpush core x q) (fun t =>
    let k := coreOf t.issue.agent
    let l := queueOf t k q.toNat
    if 64 ≤ l.length then .block (.aq q.toNat true) else
    let v := t.vc 0 x
    let r : Later := ⟨none, none, if core then some 1 else none, []⟩
    let t := inOrder r t
    match heldBy r t with
    | id :: ids => .block (.order (id :: ids))
    | [] => .ok (setQueue k q.toNat (l ++ [v]) t)) s

/-- QPOP (R305). -/
def execQpop (st : Bool) (p : BitVec 4) (d : BitVec 10) (q : BitVec 2) (s : State) : Host.Outcome State Fault Refusal :=
  runOp (.qpop st p d q) (fun t =>
    let k := coreOf t.issue.agent
    match queueOf t k q.toNat with
    | [] => .block (.aq q.toNat false)
    | v :: r => putLoadV (slotTag (.qpop st p d q) t) 4 d (byteMask (t.pr p)) v true (setQueue k q.toNat r t)) s

end Sys2Proof.Machine
end

