-- ==== Sys2Proof/Machine/Engine.lean ====
section
/-! DEFINITION. Machine/Engine.lean: engine commands: their queues (R206, R239, R269, R300, R384), their tokens at issue (R282,
R340), their accesses to memory (R165, R166, R211), and the tensor-identifier entries (R212-R215). A command's accesses take
place when it completes (log 9). -/

namespace Sys2Proof.Machine

/-! Queues. -/

/-- The queue of an engine instruction: 0 array, 1 latch, 2 tree, 3 copy, 4 merge and access, 5 task commands, 6 none. -/
def unitOf : Instr → Nat
  | .mmaScratchpad .. | .mmaVector .. | .mmas .. | .mzero .. | .msave .. | .mload .. => 0
  | .lde .. => 1
  | .tla .. | .tld .. | .tsa .. | .tsd .. | .tdsc .. | .tcellCommit .. | .tcellRelease .. => 2
  | .copy .. | .rlay .. => 3
  | .mgset .. | .mgpush .. | .mgfin .. | .astart .. | .astartPost .. => 4
  | .launch .. | .taskset .. | .taskdec .. => 5
  | _ => 6

/-- Entries of a queue; the last has no bound. -/
def unitCap (u : Nat) : Nat := match u with | 0 => 8 | 1 => 4 | 2 => 8 | 3 => 8 | 4 => 8 | 5 => 4 | _ => 2 ^ 32

/-- The commands of a queue, the oldest first: an entry is freed when its command starts (R216). -/
def waitingIn (c : Core) (u : Nat) : List Cmd := c.cmds.filter fun m => unitOf m.op == u && !m.started

/-- The commands of a queue that have started. -/
def runningIn (c : Core) (u : Nat) : List Cmd := c.cmds.filter fun m => unitOf m.op == u && m.started

/-- Every consumed token of a command has completed (R282). -/
def Cmd.ready (m : Cmd) : Bool := m.deps.all fun d => match d with | .wait _ => false | .done => true | .err .. => true

/-- The first error among the consumed tokens (R284). -/
def Cmd.depErr (m : Cmd) : Option (BitVec 8 × W64) :=
  m.deps.findSome? fun d => match d with | .err c a => some (c, a) | .wait _ => none | .done => none

/-- A command's accesses come after the accesses that fences order before it, which perform (R165). -/
def afterFences (m : Cmd) (s : State) : State := s.forceIds m.waits

/-- The command may start: its consumed tokens have completed, and no access that a fence orders before it waits for another unit (R165,
R206). -/
def mayStart (s : State) (m : Cmd) : Bool := m.ready && !(afterFences m s).anyPending m.waits

/-- The oldest command of a queue of a core that may start (R206). -/
def nextIn (s : State) (core u : Nat) : Option Cmd := (waitingIn (s.core core) u).find? (mayStart s)

/-- Change the command of an identifier. -/
def modCmd (core id : Nat) (f : Cmd → Cmd) (s : State) : State :=
  s.modCore core fun c => { c with cmds := c.cmds.map fun m => if m.id == id then f m else m }

/-- A command leaves its core: its token completes, the tile it set busy is clear (R208, R284). -/
def endCmd (core : Nat) (m : Cmd) (err : Option (BitVec 8 × W64)) (s : State) : State :=
  let clear := (info m.op).tile.elim 0 fun t => 1#8 <<< t.toNat
  let s := s.modCore core fun c =>
    { c with cmds := c.cmds.filter fun x => x.id != m.id
             busy := if unitOf m.op = 0 then c.busy &&& ~~~clear else c.busy }
  completeToken m.agent m.out err m.id s

/-- A command starts, or, when a token it consumed completed with error, ends without acting (R284). -/
def startCmd (core : Nat) (m : Cmd) (k : State → State) (s : State) : State :=
  match m.depErr with
  | some e => endCmd core m (some e) s
  | none => k (modCmd core m.id (fun x => { x with started := true }) s)

/-! Issue. -/

/-- The pending accesses of a context that fences order before an engine instruction, which counts as an access of every class and in every
range (R165). -/
def fencedAccesses : List Pend → List Nat
  | [] => []
  | p :: r =>
    (match p.earlier with
     | some (id, a) => if r.any (Pend.covers a) then [id] else []
     | none => []) ++ fencedAccesses r

/-- The consumed tokens at issue, captured before KOUT is produced (R282). A command of a later instance that consumes KOUT
itself waits for what the first instance's command waits for (R340). -/
def captureDeps (ins : List (BitVec 5)) (out : Option (BitVec 5)) (later : Bool) (s : State) : List Dep :=
  ins.map fun x =>
    let t := mget ({} : Token) s.me.toks x.toNat
    if later && out == some x then
      match (s.core (coreOf s.issue.agent)).cmds.find? fun m => m.out == some (x.toNat, t.inst) with
      | some m => m.deps.getD (ins.findIdx (· == x)) .done
      | none => if t.err then .err t.cause t.eaddr else .done
    else depOf t

/-- An engine instruction sends a command (R32, R206, R282): a full queue blocks the bundle; the tokens are captured and produced;
one instance of KOUT counts the commands of every instance of a widened bundle (R340). `fill` gives the captured operands. -/
def sendAs (i : Instr) (ins : List (BitVec 5)) (out : Option (BitVec 5)) (u : BitVec 3) (fill : Cmd → Cmd) (s : State) : Res :=
  let a := s.issue.agent
  let core := coreOf a
  if unitCap (unitOf i) ≤ (waitingIn (s.core core) (unitOf i)).length then .block (.queue (unitOf i))
  else
    let l := s.me.flow.lift
    let on := actors l s.issue.tag u
    let first := u = 0 || on.head? == some s.issue.flat
    let deps := captureDeps ins out (!first) s
    let s := match out with
      | some k => if first then produce a k.toNat (if u = 0 then 1 else on.length) s else s
      | none => s
    let m := fill { id := s.free, agent := a, op := i, asid := s.me.ctl.asid,
                    out := out.map fun k => (k.toNat, (mget ({} : Token) s.me.toks k.toNat).inst), deps := deps,
                    waits := fencedAccesses s.me.order.pend, pc := s.issue.here }
    .ok (s.tick.modCore core fun c => { c with cmds := c.cmds ++ [m] })

/-- An engine instruction with T = 1 sends its command. -/
def sendCmd (i : Instr) (k : Tok) (u : BitVec 3) (fill : Cmd → Cmd) (s : State) : Res := sendAs i k.ins (some k.out) u fill s

/-- The scalars of an instruction, captured at issue (R32). -/
def captured (cs : List SCode) (s : State) : List W64 := cs.map s.sc

/-- A captured scalar. -/
def Cmd.cap (m : Cmd) (n : Nat) : W64 := m.caps.getD n 0

/-! Accesses of a command. -/

/-- A computation of a command that ends with a value, or stops with an error for its token: the cause and the address. -/
abbrev Eng (α : Type) := Except (BitVec 8 × W64) (α × State)

/-- Go on with a computation. -/
def Eng.next {α β : Type} (t : Eng α) (k : α → State → Eng β) : Eng β :=
  match t with
  | .ok (v, s) => k v s
  | .error e => .error e

/-- The activity of a command's traffic (R130): the copy engine's, Woad's, or L2's. -/
def actOf (m : Cmd) : Nat :=
  match m.op with
  | .copy .. | .rlay .. | .stage .. => 0
  | _ => if unitOf m.op = 2 then 1 else 2

/-- The key of a byte that a command accesses; none reads as zero (R140). An auto-commit tile is committed (R355). -/
def engResolve (m : Cmd) (va : Nat) (need : Need) (s : State) : Eng (Option Nat) :=
  let go := fun (s : State) => s.place m.agent m.asid (bankOk s m.agent) va need
  let bad := fun (c : Nat) => ((.ofNat 8 c, .ofNat 64 va) : BitVec 8 × W64)
  let s := s.walked (coreOf m.agent) m.asid va
  match go s with
  | .at k => .ok (some k, s.holdTr (coreOf m.agent) m.asid va)
  | .zero => .ok (none, s)
  | .commit entry _ =>
    (match commitAs (actOf m) m.asid va entry s with
     | .error c => .error (bad c)
     | .ok s' =>
       match go s' with
       | .at k => .ok (some k, s'.holdTr (coreOf m.agent) m.asid va)
       | .zero => .error (bad 0x09)
       | .commit _ _ => .error (bad 0x09)
       | .cause c _ => .error (bad c))
  | .cause c _ => .error (bad c)

/-- The virtual address of a cluster scratchpad address (R211, R258). -/
def padVa (a : Nat) : Nat := spw + a % 2 ^ 22

/-- The address of byte o of an access: virtual, or in the scratchpad window (R211). -/
def engVa (sp : Bool) (a : W64) (o : Nat) : Nat := if sp then padVa (vaAt a o) else vaAt a o

/-- The keys of the bytes of a command's access, page by page; a byte in a closed channel stops it (R135). -/
def engSpan (m : Cmd) (sp : Bool) (need : Need) (a : W64) (offs : List Nat) : List Nat → State → Eng (List (Nat × Option Nat))
  | [], s => .ok ([], s)
  | p :: ps, s =>
    (engResolve m (engVa sp a p) need s).next fun k s =>
      let ks := (offs.filter fun o => vaAt a o / 65536 == vaAt a p / 65536).map fun o => (engVa sp a o, k.map fun k => k + o - p)
      match closedByte ks s with
      | some x => .error (0x0A, .ofNat 64 x)
      | none => (engSpan m sp need a offs ps s).next fun r s => .ok (ks ++ r, s)

/-- The keys of n bytes of a command's access. -/
def engKeys (m : Cmd) (sp : Bool) (need : Need) (a : W64) (n : Nat) (s : State) : Eng (List (Nat × Option Nat)) :=
  engSpan m sp need a (List.range n) (pagesOf a (List.range n)) s

/-- The bytes at keys, at the home (R144). -/
def bytesAt (ks : List (Nat × Option Nat)) (s : State) : List Byte :=
  ks.map fun x => match x.2 with | some k => s.byte k | none => 0

/-- The last-use-of-row bit of a command's accesses: CTL[10] of a copy's descriptor, which the command keeps (R132, R266). -/
def rowBit (m : Cmd) : Bool :=
  match m.op with
  | .copy .. | .stage .. => (m.vecs.getD 0 0).getLsbD 10
  | _ => false

/-- A command's access reaches the home slices and banks of its bytes (R130, R147, R264); the windows of R145 count plain accesses alone. -/
def engReach (m : Cmd) (ks : List (Nat × Option Nat)) (s : State) : State :=
  let l := ks.filterMap Prod.snd
  let lines := l.foldl (fun (acc : List Nat) k => if isLocal k && !acc.contains (k / 128) then acc ++ [k / 128] else acc) []
  useBanks m.agent l (traffic (actOf m) (rowBit m) l (lines.foldl State.touch s))

/-- A command reads n bytes. -/
def engRead (m : Cmd) (sp : Bool) (a : W64) (n : Nat) (s : State) : Eng (List Byte) :=
  (engKeys m sp .read a n s).next fun ks s => .ok (bytesAt ks s, engReach m ks s)

/-- A command reads a little-endian number of n bytes. -/
def engReadN (m : Cmd) (sp : Bool) (a : W64) (n : Nat) (s : State) : Eng Nat :=
  (engRead m sp a n s).next fun bs s => .ok (leNat bs, s)

/-- A command writes bytes; a live granule stops it (R278). -/
def engWrite (m : Cmd) (sp : Bool) (a : W64) (bs : List Byte) (s : State) : Eng Unit :=
  (engKeys m sp .write a bs.length s).next fun ks s =>
    match liveHit ks s with
    | some x => .error (0x0E, .ofNat 64 x)
    | none =>
      .ok ((), engReach m ks
        (s.performBytes m.agent m.asid ((ks.zip bs).filterMap fun x => x.1.2.map fun k => (x.1.1, k, x.2))))

/-- The pieces of n bytes at an address that lie in one aligned 8 bytes each: offset and length. -/
def pieces8 (a n : Nat) : List (Nat × Nat) :=
  ((List.range ((a % 8 + n + 7) / 8)).map fun w => let o := 8 * w - a % 8; (o, Nat.min (8 * w + 8 - a % 8) n - o)).filter fun x => x.2 != 0

/-- Where a write fails, each aligned 8 bytes of it that can be written holds one of the old contents and the new bytes (R224, R268,
log 5). -/
def engPart (m : Cmd) (sp : Bool) (a : W64) (bs : List Byte) (s : State) : State :=
  (pieces8 a.toNat bs.length).foldl (fun s x =>
    if Config.choice (s.free * 1024 + x.1) % 2 = 0 then s else
    match engWrite m sp (a + .ofNat 64 x.1) ((bs.drop x.1).take x.2) s with
    | .ok (_, t) => t
    | .error _ => s) s

/-- The outcome of an event. -/
def event (r : Res) (s : State) : Host.Outcome State Fault Refusal :=
  match r with
  | .ok t => .next t
  | .trap _ => .next s
  | .block _ => .next s
  | .stall => .next s

/-! Tensor-identifier entries (R212-R214). -/

/-- A field of an entry in bytes. -/
def tiN (e : BitVec 1024) (ofs n : Nat) : Nat := e.toNat / 2 ^ (8 * ofs) % 2 ^ (8 * n)
/-- FMT. -/
def tiFmt (e : BitVec 1024) : Nat := e.toNat % 16
/-- KIND. -/
def tiKind (e : BitVec 1024) : Nat := e.toNat / 2 ^ 4 % 16
/-- NDIM. -/
def tiDim (e : BitVec 1024) : Nat := e.toNat / 2 ^ 8 % 8
/-- SPAD. -/
def tiPad (e : BitVec 1024) : Bool := e.toNat / 2 ^ 11 % 2 == 1
/-- RFMT. -/
def tiRec (e : BitVec 1024) : Nat := e.toNat / 2 ^ 12 % 4
/-- SCALE. -/
def tiScale (e : BitVec 1024) : Int := sext 8 (e.toNat / 2 ^ 16 % 256)
/-- BASE. -/
def tiBase (e : BitVec 1024) : Nat := tiN e 8 8
/-- TH. -/
def tiTh (e : BitVec 1024) : Nat := tiN e 16 4
/-- EXT[d]. -/
def tiExt (e : BitVec 1024) (d : Nat) : Nat := tiN e (32 + 4 * d) 4
/-- STRIDE[d]. -/
def tiStride (e : BitVec 1024) (d : Nat) : Int := sext 64 (tiN e (64 + 8 * d) 8)
/-- KSP. -/
def tiKsp (e : BitVec 1024) : Nat := tiN e 112 16
/-- The entry is record-blocked. -/
def tiIsRec (e : BitVec 1024) : Bool := tiKind e == 2
/-- A 4-bit format. -/
def nibble (f : Nat) : Bool := f == 5 || f == 12
/-- The bytes of an element of a format of 8 bits or more. -/
def fmtBytes (f : Nat) : Nat := fmtWidth f / 8

/-- The checks of R215 that do not depend on the instruction, for the kinds of R214 and the bitmap kind. -/
def tiSound (e : BitVec 1024) : Bool :=
  let k := tiKind e
  let f := tiFmt e
  1 ≤ tiDim e && decide (tiDim e ≤ 6) && decide (f ≤ 13) &&
    e.toNat / 2 ^ 14 % 4 == 0 && e.toNat / 2 ^ 24 % 2 ^ 40 == 0 && tiN e 20 12 == 0 && tiN e 56 8 == 0 &&
    (k == 2 || tiRec e == 0) && (tiKsp e == 0 || k == 3 || k == 4 || k == 5) &&
    (k != 2 || (f == recElem (tiRec e) && tiStride e 0 == recSize (tiRec e))) &&
    (k != 1 || (if nibble f then tiStride e 0 == 0 else (List.range 6).all fun d => tiStride e d % fmtBytes f == 0))

/-- The entry passes R215 for an instruction that allows the kinds listed, in scratchpad or not. -/
def tiOk (e : BitVec 1024) (kinds : List Nat) (pad : Bool) : Bool := kinds.contains (tiKind e) && tiPad e == pad && tiSound e

/-- The parameters of a tree entry (R229, R230): axes, levels, root blocks per axis as a logarithm, the distance of directories. -/
def treeLev (e : BitVec 1024) : Nat := tiKsp e % 32
/-- RBL. -/
def treeRbl (e : BitVec 1024) : Nat := tiKsp e / 2 ^ 8 % 16
/-- The detail format of a level. -/
def treeFmt (e : BitVec 1024) (l : Nat) : Nat := tiKsp e / 2 ^ (12 + 4 * l) % 16
/-- DSTRIDE. -/
def treeDir (e : BitVec 1024) : Nat := tiKsp e / 2 ^ 96

/-- The entry is a sound tree entry (R215, R229, R230). -/
def treeOk (e : BitVec 1024) : Bool :=
  let a := tiDim e
  let l := treeLev e
  let r := treeRbl e
  tiKind e == 3 && tiSound e && decide (a ≤ 3) && !tiPad e && tiScale e == 0 && tiBase e % 128 == 0 &&
    (List.range 6).all (fun d => tiExt e d == (if d < a then l + r else 0) && tiStride e d == 0) &&
    decide (1 ≤ l) && decide (l ≤ 20) && tiKsp e / 2 ^ 5 % 8 == 0 && tiKsp e / 2 ^ 12 % 16 == 0 && decide (a * r ≤ 16) &&
    decide (a * (l + r) ≤ 60) && (r == 0 || treeDir e != 0) &&
    (List.range 20).all fun j => decide (j < l) || treeFmt e (j + 1) == 0

/-- The entry is a sound CSR or COO entry (R313). -/
def csrOk (e : BitVec 1024) (kinds : List Nat) : Bool :=
  kinds.contains (tiKind e) && tiSound e && tiDim e == 2 && decide (tiFmt e ≤ 2) &&
    (List.range 6).all (fun d => tiStride e d == 0 && (decide (d < 3) || tiExt e d == 0)) &&
    tiBase e % 4 == 0 && tiKsp e % 4 == 0 && tiKsp e / 2 ^ 64 % 4 == 0

/-- An entry of an agent. -/
def tiOf (s : State) (a n : Nat) : BitVec 1024 := mget 0 (s.ctx a).tis n

/-- The index of a dimension: at or above NDIM it is 0 (R214). -/
def tiIdx (e : BitVec 1024) (x : List Nat) (d : Nat) : Nat := if d < tiDim e then x.getD d 0 else 0

/-- An index tuple lies inside the tensor (R214). -/
def tiInside (e : BitVec 1024) (x : List Nat) : Bool := (List.range (tiDim e)).all fun d => decide (x.getD d 0 < tiExt e d)

/-- The address of an element, or of its record (R214), modulo 2^64. -/
def tiAddr (e : BitVec 1024) (b : W64) (x : List Nat) : W64 :=
  let rest : Int := (List.range 6).foldl (fun a d => if d = 0 then a else a + (tiIdx e x d : Int) * tiStride e d) 0
  let x0 : Int := tiIdx e x 0
  let first : Int :=
    if tiIsRec e then x0 / 32 * tiStride e 0 else if nibble (tiFmt e) then x0 / 2 else x0 * tiStride e 0
  BitVec.ofNat 64 (tiBase e) + b + BitVec.ofInt 64 (first + rest)

/-- The bits of an element from the bytes at its address (R103, R109). -/
def tiPick (e : BitVec 1024) (x0 : Nat) (bytes : Nat) : Nat :=
  if tiIsRec e then
    let w := recBits (tiRec e)
    bytes / 2 ^ (16 + w * (x0 % 32)) % 2 ^ w
  else if nibble (tiFmt e) then bytes / 2 ^ (4 * (x0 % 2)) % 16
  else bytes % 2 ^ fmtWidth (tiFmt e)

/-- Bytes read for an element. -/
def tiBytes (e : BitVec 1024) : Nat := if tiIsRec e then recSize (tiRec e) else if nibble (tiFmt e) then 1 else fmtBytes (tiFmt e)

/-- An element: its code, and the code of its record's scale; none outside the tensor, which is not accessed (R214). -/
def tiRead (m : Cmd) (e : BitVec 1024) (b : W64) (x : List Nat) (s : State) : Eng (Option (Nat × Nat)) :=
  if !tiInside e x then .ok (none, s)
  else
    (engReadN m (tiPad e) (tiAddr e b x) (tiBytes e) s).next fun v s => .ok (some (tiPick e (x.getD 0 0) v, v % 2 ^ 16), s)

/-- The value of an element read through an entry (R109, R213): 2^SCALE times its coded value. -/
def tiValue (e : BitVec 1024) (c : Option (Nat × Nat)) : Num :=
  match c with
  | none => .fin false 0 1
  | some (el, sc) =>
    let v := numOf (tiFmt e) el
    let v := if tiIsRec e then (match numOf 13 sc with | .fin _ 0 _ => .fin false 0 1 | q => (mulNum v q).1) else v
    scaleNum v (tiScale e)

end Sys2Proof.Machine
end

