-- ==== Sys2Proof/Machine/Fence.lean ====
section
/-! DEFINITION. Machine/Fence.lean: FENCE.C and FENCE.R (R168-R173). -/

namespace Sys2Proof.Machine

/-- One of a list of pending accesses is covered by a fence: it has not performed toward the fence's scope. A store of an agent has always
performed toward the agent itself, so at `.ctx` a fence waits for loads alone (R172, log 8). -/
def coversAny (f : Pend) (l : List Pend) : Bool := l.any fun p => match p.earlier with | some x => f.covers x.2 | none => false

/-- FENCE.C (R168, R169): it enters the order when it covers an earlier access of the agent that has not performed. -/
def execFenceC (scope : BitVec 3) (mask : BitVec 16) (s : State) : Host.Outcome State Fault Refusal :=
  runOp (.fenceC scope mask) (fun t =>
    let f := Pend.fenceC scope.toNat mask
    .ok (if coversAny f t.me.order.pend then t.modMe (Ctx.addPend f) else t)) s

/-- The bounding interval of an entry of kind 1 or 2 (R170): offsets from BASE, the end exclusive; none when an extent is 0. -/
def tiBounds (e : BitVec 1024) : Option (Int × Int) :=
  if (List.range (tiDim e)).any fun d => tiExt e d == 0 then none
  else
    let span : Nat → Int := fun d =>
      let n : Int := (tiExt e d - 1 : Nat)
      if d = 0 && tiIsRec e then n / 32 * tiStride e 0 else if d = 0 && nibble (tiFmt e) then n / 2 else n * tiStride e d
    let r := (List.range (tiDim e)).map span
    some (r.foldl (fun a x => if x < 0 then a + x else a) 0, r.foldl (fun a x => if 0 < x then a + x else a) 0 + tiBytes e)

/-- The intervals that a tensor identifier covers (R170), the ends exclusive. -/
def tiRanges (e : BitVec 1024) : List (Nat × Nat) :=
  let b := tiBase e
  let at' := fun (x : Int) => (x + (if tiPad e then (spw : Int) else 0)).toNat
  let iv := fun (a n : Nat) => (at' (a : Int), at' ((a + n : Nat) : Int))
  match tiKind e with
  | 1 | 2 => (match tiBounds e with | none => [] | some (lo, hi) => [(at' (b + lo), at' (b + hi))])
  | 3 => [iv b ((2 ^ (tiDim e * treeRbl e) - 1) * treeDir e * 128 + 32 * (treeLev e + 1))]
  | 4 => [iv b (4 * (tiExt e 0 + 1)), iv (tiKsp e % 2 ^ 64) (4 * tiExt e 2), iv (tiKsp e / 2 ^ 64) (fmtBytes (tiFmt e) * tiExt e 2)]
  | 5 => [iv b (4 * tiExt e 2), iv (tiKsp e % 2 ^ 64) (4 * tiExt e 2), iv (tiKsp e / 2 ^ 64) (fmtBytes (tiFmt e) * tiExt e 2)]
  | _ =>
    if tiExt e 1 = 0 then [] else
    let far : Int := (tiExt e 1 - 1 : Nat) * tiStride e 1
    let row : Int := (16 + (tiExt e 0 * fmtWidth (tiFmt e) + 7) / 8 : Nat)
    [(at' (b + (if far < 0 then far else 0)), at' (b + (if 0 < far then far else 0) + row))]

/-- The range of registers n and n + 1, cut at 2^57 (R170). -/
def regRange (s : State) (n : BitVec 5) : List (Nat × Nat) :=
  let a := (s.sc (.s n)).toNat
  let e := Nat.min (a + (s.sc (.s (n + 1))).toNat) (2 ^ 57)
  if a < e then [(a, e)] else []

/-- The entry of a FENCE.R operand is valid (R170). -/
def fenceEntryOk (e : BitVec 1024) : Bool :=
  match tiKind e with
  | 3 => treeOk e
  | 4 | 5 => csrOk e [4, 5]
  | k => (k == 1 || k == 2 || k == 6) && tiSound e

/-- The ranges of an operand. -/
def opdRanges (s : State) : FOpd → List (Nat × Nat)
  | .ti n => tiRanges (tiOf s s.issue.agent n.toNat)
  | .range n => regRange s n

/-- A range fence that finds no counter counts in FALLBACK, with a trace event at an address (R172, R173). -/
def fellBack (a : Nat) (addr : W64) (s : State) : State :=
  let s := s.modCtx a fun c => { c with ctl := { c.ctl with fallback := c.ctl.fallback + 1 } }
  traceRec (clusterOf a) 9 0 (ctxNumber a) addr ((s.ctx a).ctl.fallback.setWidth 64) s

/-- FENCE.R takes a counter, or falls back (R172). -/
def rangeFence (scope : Nat) (u : List (Nat × Nat)) (s : State) : State :=
  let core := coreOf s.issue.agent
  let f := Pend.fenceR scope u true
  if !coversAny f s.me.order.pend then s
  else if (s.core core).counters < 16 then (s.modCore core fun c => { c with counters := c.counters + 1 }).modMe (Ctx.addPend f)
  else (fellBack s.issue.agent s.issue.here s).modMe (Ctx.addPend (.fenceC scope 0xFFFF))

/-- FENCE.R (R170-R172). -/
def execFenceR (scope : BitVec 3) (o : FOpd) (os : List FOpd) (s : State) : Host.Outcome State Fault Refusal :=
  runOp (.fenceR scope o os) (fun t =>
    if (info (.fenceR scope o os)).tis.any fun n => !fenceEntryOk (tiOf t t.issue.agent n.toNat) then .trap (t.cause 0x18)
    else .ok (rangeFence scope.toNat ((o :: os).flatMap (opdRanges t)) t)) s

/-- The counters of fences that cover no access before them are freed (R172): what remains, and how many are freed. -/
def freeCounters : List Pend → List Pend → List Pend × Nat
  | _, [] => ([], 0)
  | before, p :: r =>
    let q := freeCounters (before ++ [p]) r
    match p with
    | .fenceR _ _ true => if coversAny p before then (p :: q.1, q.2) else (q.1, q.2 + 1)
    | _ => (p :: q.1, q.2)

/-- Release an agent's finished counters (R172). -/
def releaseCounters (a : Nat) (s : State) : State :=
  let q := freeCounters [] (s.ctx a).order.pend
  if q.2 = 0 then s else
  let s := s.modCtx a fun c => { c with order := { c.order with pend := q.1 } }
  if (s.ctx a).mode = .saved ∨ (s.ctx a).mode = .saving then s else s.modCore (coreOf a) fun c => { c with counters := c.counters - q.2 }

/-- RANGE_COUNTER_RELEASE (R172): the counters of the core's agents whose counts are zero. -/
def execRangeCounterRelease (core : Nat) (s : State) : Host.Outcome State Fault Refusal :=
  .next ([4 * core, 4 * core + 1, 4 * core + 2, 4 * core + 3, 2048 + core].foldl (fun s a => releaseCounters a s) s)

/-- The counters of an agent's live fences are taken again (R172): a fence for which none is free behaves as FENCE.C with every class. What
remains, the counters taken, the fences that fell back. -/
def takeAgain (free : Nat) : List Pend → List Pend × Nat × Nat
  | [] => ([], 0, 0)
  | .fenceR sc u true :: r =>
    if 0 < free then (let q := takeAgain (free - 1) r; (.fenceR sc u true :: q.1, q.2.1 + 1, q.2.2))
    else (let q := takeAgain 0 r; (.fenceC sc 0xFFFF :: q.1, q.2.1, q.2.2 + 1))
  | p :: r => let q := takeAgain free r; (p :: q.1, q.2)

/-- The accesses of a program that returns to a core, and behind them what the agent has issued since: the fences that return take counters
(R172, R173), those that are there hold theirs. -/
def retakeCounters (a : Nat) (back left : List Pend) (s : State) : State :=
  let q := takeAgain (16 - (s.core (coreOf a)).counters) (freeCounters [] back).1
  let s := (s.modCtx a (Ctx.modPend fun _ => q.1 ++ left)).modCore (coreOf a) fun c => { c with counters := c.counters + q.2.1 }
  (List.range q.2.2).foldl (fun s _ => fellBack a (s.ctx a).pc s) s

/-- STORE_PERFORM (R139): a pending store, or an aligned part of it (R165), performs when the order lets it. -/
def execStorePerform (agent id : Nat) (s : State) : Host.Outcome State Fault Refusal := .next (s.performPart agent id).tick

end Sys2Proof.Machine
end

