-- ==== Sys2Proof/Machine/AddressSpace.lean ====
section
/-! DEFINITION. Machine/AddressSpace.lean: COMMIT and DECOMMIT (R358-R360), ALLOC and FREE (R362-R364) and TLBINV (R365). -/

namespace Sys2Proof.Machine

/-! COMMIT and DECOMMIT. -/

/-- The cells that an access to every byte of a range of addresses has in common with the order of an agent: those of the accesses
that it meets, and one for each fence whose ranges it meets. -/
def rangeCells (lo hi : Nat) (l : List Pend) : List (Nat × Nat × Byte) :=
  l.flatMap fun p => match p with
    | .store _ _ _ _ _ cells => cells.filter fun c => decide (lo ≤ c.1) && decide (c.1 < hi)
    | .access _ _ _ _ _ cells _ => cells.filter fun c => decide (lo ≤ c.1) && decide (c.1 < hi)
    | .fenceR _ rs _ => rs.filterMap fun r => if r.1 < hi ∧ lo < r.2 then some (Nat.max r.1 lo, 2 ^ 90, 0) else none
    | .fenceC .. => []

/-- The level-0 leaf of a tile: its entry's address and value (R359): 0x09 if none, 0x0A if it is not sparse, mapped or
not (log 33). -/
def tileLeaf (va : Nat) (s : State) : Except Nat (Nat × Nat) :=
  if !canonical va || inWindow va then .error 0x09
  else
    match s.walk s.me.ctl.asid.toNat (va % 2 ^ 57) with
    | .leaf w bits entry => if bits != 16 then .error 0x09 else if leafSparse w then .ok (entry, w) else .error 0x0A
    | .unmapped leaf => .error (if leaf then 0x0A else 0x09)
    | .bad => .error 0x09
    | .shut => .error 0x0A

/-- A tile's translations, copies and code lines of the ASID of the agent in issue go, in every core and cluster (R359). -/
def dropTile (va : Nat) (s : State) : State := s.dropVA (fun _ => true) (· == s.me.ctl.asid) va (va + 2 ^ 16)

/-- One tile's step of COMMIT (R359). -/
def commitOne (va : Nat) (s : State) : Except Trap State :=
  match tileLeaf va s with
  | .error c => .error (s.cause c 0 (.ofNat 64 va) true)
  | .ok (entry, w) =>
    if leafV w then .ok (dropTile va s)
    else match commitAs 2 s.me.ctl.asid va entry s with
      | .error c => .error (s.poolTrap c va w)
      | .ok t => .ok t

/-- A cell lies in the tile at a physical address. -/
def inPage (p k : Nat) : Bool := decide (p ≤ k) && decide (k < p + 2 ^ 16)

/-- Keys outside the tile; a byte inside reads as zero, and is not written. -/
def outKeys (p : Nat) (ks : List (Nat × Option Nat)) : List (Nat × Option Nat) := ks.map fun x => (x.1, x.2.filter fun k => !inPage p k)

/-- What an access does, once the tile is gone. -/
def Act.leavePage (p : Nat) : Act → Act
  | .load rec sync lur shape step starts ks => .load rec sync lur shape step starts (outKeys p ks)
  | .amo rec aop n x c ks => .amo rec aop n x c (outKeys p ks)
  | .add fadd n v ks => .add fadd n v (outKeys p ks)
  | .fetch va key => if inPage p key then .line false va key else .fetch va key
  | .line sys va key => .line sys va key
  | .away => .away

/-- A pending access, once the tile is gone. -/
def Pend.leavePage (p : Nat) : Pend → Pend
  | .store id cls sc rel asid cells => .store id cls sc rel asid (cells.filter fun c => !inPage p c.2.1)
  | .access id cls sc load asid cells act => .access id cls sc load asid (cells.filter fun c => !inPage p c.2.1) (act.leavePage p)
  | .fenceC sc m => .fenceC sc m
  | .fenceR sc rs k => .fenceR sc rs k

/-- The pending accesses of every agent that meet a tile, by its physical address. -/
def pageIds (p : Nat) (s : State) : List Nat :=
  s.ctxs.flatMap fun x => x.2.order.pend.filterMap fun q => match q.earlier with
    | some (id, e) => if e.cells.any fun c => inPage p c.2.1 then some id else none
    | none => none

/-- The accesses in flight to a tile that is to be decommitted perform first; what cannot is lost with it (R360, log 36). -/
def State.emptyPage (p : Nat) (s : State) : State :=
  let s := s.forceIds (pageIds p s)
  { s with
    ctxs := mmap (fun _ c => Ctx.modPend (List.map (Pend.leavePage p)) c) s.ctxs
    dev := { s.dev with frees := s.dev.frees.map fun f => { f with block := if f.block.any (inPage p) then [] else f.block } } }

/-- The state in which a tile is decommitted: nothing in flight meets the page that is freed. -/
def tileClear (va : Nat) (s : State) : State :=
  match tileLeaf va s with
  | .ok (_, w) => if leafV w then s.emptyPage (leafPA w) else s
  | .error _ => s

/-- One tile's step of DECOMMIT (R359, R360) (log 36). -/
def decommitOne (unmap : Bool) (va : Nat) (s : State) : Except Trap State :=
  let s := tileClear va s
  match tileLeaf va s with
  | .error c => .error (s.cause c 0 (.ofNat 64 va) true)
  | .ok (entry, w) =>
    if !leafV w then .ok (dropTile va s)
    else match s.poolPush (s.poolAt (leafPool w)) (leafPA w) with
      | none => .error (s.cause 0x0A 0 (.ofNat 64 va) true)
      | some s => .ok (dropTile va (s.homeLE entry 8 (w - 1 - (if unmap then 2 ^ 5 else 0))))

/-- The tiles in ascending order, from the t-th on: the state after those done, how many those are, and the trap of the one that faults, if any
(R359). -/
def tileSteps (step : Nat → State → Except Trap State) (base : W64) : Nat → Nat → State → State × Nat × Option Res
  | 0, t, s => (s, t, none)
  | n + 1, t, s =>
    match step (vaAt base (t * 65536)) s with
    | .error e => (s, t, some (.trap e))
    | .ok s => tileSteps step base n (t + 1) s

/-- The tiles of the bundle in issue that a DECOMMIT with `.unmap` in its slot did before it faulted (R359). -/
def tilesDone (s : State) : Nat :=
  match mget none s.me.flow.unmapped s.issue.slot with
  | some (at', n) => if at' = s.issue.here then n else 0
  | none => 0

/-- Note them, or that there are none. -/
def noteTiles (n : Option Nat) (s : State) : State :=
  s.modMe fun c => { c with flow := { c.flow with unmapped := mset none c.flow.unmapped s.issue.slot (n.map fun n => (s.issue.here, n)) } }

/-- COMMIT and DECOMMIT, after the checks that stand before their own: the state after the tiles done, and what stops them. The steps come after
the accesses that a store of the class to every byte of the tiles must follow. -/
def tileCycle (i : Instr) (s : State) : State × Option Res :=
  let go := fun (cls : Option (BitVec 4)) (cnt base : SCode) (unmap : Bool) (step : Nat → State → Except Trap State) =>
    let b := s.sc base
    let n := if cnt = .s 0 then 1 else (s.sc cnt).toNat
    if b.toNat % 65536 ≠ 0 then (s, some (.trap (s.cause 0x0D 0 b)))
    else if 65536 < n then (s, some (.trap (s.cause 0x0A 0 b)))
    else
      let x := plainLater (cls.getD s.issue.clsdef) (rangeCells b.toNat (b.toNat + 65536 * n) s.me.order.pend)
      let s := inOrder x s
      match heldBy x s with
      | id :: ids => (s, some (.block (.order (id :: ids))))
      | [] =>
        let done := if unmap then tilesDone s else 0
        let r := tileSteps step b (n - done) done s
        (if unmap then noteTiles (r.2.2.map fun _ => r.2.1) r.1 else r.1, r.2.2)
  match i with
  | .commit cls cnt base => go cls cnt base false commitOne
  | .decommit cls cnt base unmap => go cls cnt base unmap (decommitOne unmap)
  | _ => (s, none)

/-- COMMIT and DECOMMIT: a fault keeps the tiles before it (R46, R359). -/
def tileSlot (i : Instr) (s : State) : Host.Outcome State Fault Refusal :=
  match preTrap i s with
  | some t => finish s (.trap t)
  | none =>
    let r := tileCycle i (afterReads i s)
    match r.2 with
    | none => .next (stickyAfter i 0 0 r.1)
    | some e => finish r.1 e

/-- COMMIT (R358, R359). -/
def execCommit (cls : Option (BitVec 4)) (cnt base : SCode) (s : State) : Host.Outcome State Fault Refusal :=
  tileSlot (.commit cls cnt base) s
/-- DECOMMIT (R358, R359). -/
def execDecommit (cls : Option (BitVec 4)) (cnt base : SCode) (unmap : Bool) (s : State) : Host.Outcome State Fault Refusal :=
  tileSlot (.decommit cls cnt base unmap) s

/-! ALLOC and FREE. -/

/-- A heap pool's descriptor breaks R362. -/
def heapBad (bs : List Byte) : Bool :=
  let l := (bs.getD 8 0).toNat
  decide (l < 6) || decide (30 < l) || ((bs.drop 9).take 3).any (· != 0) || ((bs.drop 40).take 24).any (· != 0)

/-- The little-endian number of n bytes at an offset of a byte list. -/
def numAt (bs : List Byte) (ofs n : Nat) : Nat := leNat ((bs.drop ofs).take n)

/-- Read a heap pool's descriptor at its home: its keys and bytes; one that breaks R362 raises 0x0A (R363). The read waits for accesses that
must come first. -/
def heapRead (cls : BitVec 4) (a : W64) (s : State) : Try (List (Nat × Option Nat) × List Byte) :=
  if a.toNat % 64 ≠ 0 then .error (.trap (s.cause 0x0A 0 a))
  else
    (keysOf .both a (List.range 64) s).next fun ks s =>
      let x := plainLater cls (cellsOf ks)
      let s := inOrder x s
      match heldBy x s with
      | id :: ids => .error (.block (.order (id :: ids)))
      | [] =>
        let bs := ks.map fun x => match x.2 with | some k => s.byte k | none => 0
        if heapBad bs || !allHere ks then .error (.trap (s.cause 0x0A 0 a)) else .ok ((ks, bs), s)

/-- The cells of a field of a descriptor with a new value. -/
def fieldCells (ks : List (Nat × Option Nat)) (ofs n v : Nat) : List (Nat × Nat × Byte) := cellsAt ((ks.drop ofs).take n) v

/-- ALLOC (R363). -/
def execAlloc (h : MHead) (base : SCode) (rd : BitVec 5) (s : State) : Host.Outcome State Fault Refusal :=
  runOp (.alloc h base rd) (fun t =>
    let cls := h.cls.getD t.issue.clsdef
    let u := slotTag (.alloc h base rd) t
    (heapRead cls (t.sc base) t).run fun d t =>
      let put := fun (cells : List (Nat × Nat × Byte)) (r : Nat) (t : State) =>
        putS u 40 rd (.ofNat 64 r) (reach t.issue.agent false (d.1.filterMap Prod.snd) (traffic 2 false (d.1.filterMap Prod.snd)
          (t.performBytes t.issue.agent t.me.ctl.asid cells)))
      let head := numAt d.2 16 8
      if head = 0 then put (fieldCells d.1 32 8 (numAt d.2 32 8 + 1)) 0 t
      else
        (keysOf .read (.ofNat 64 head) (List.range 8) t).run fun ks t =>
          let x := plainLater cls (cellsOf ks)
          let t := inOrder x t
          match heldBy x t with
          | id :: ids => .block (.order (id :: ids))
          | [] =>
            let next := loadValue true ks t
            put (fieldCells d.1 16 8 next ++ fieldCells d.1 24 8 ((numAt d.2 24 8 + 2 ^ 64 - 1) % 2 ^ 64)) head t) s

/-- FREE (R363): the block joins the list once the agent's earlier accesses to it have performed (FREE_APPLY); until then it is an access of
its agent that has not performed. -/
def execFree (h : MHead) (src base : SCode) (s : State) : Host.Outcome State Fault Refusal :=
  runOp (.free h src base) (fun t =>
    let a := t.sc src
    let cls := h.cls.getD t.issue.clsdef
    (heapRead cls (t.sc base) t).run fun d t =>
      let b := numAt d.2 0 8
      let size := 2 ^ (d.2.getD 8 0).toNat
      if a.toNat < b ∨ b + numAt d.2 12 4 * size ≤ a.toNat ∨ (a.toNat - b) % size ≠ 0 then .trap (t.cause 0x0A 0 a)
      else
        (keysOf .write a (List.range 8) t).run fun ks t =>
          let cells := cellsOf (d.1 ++ ks)
          let meets := t.me.order.pend.filterMap fun p => match p.earlier with
            | some (id, e) => if rangesMeet [(a.toNat, a.toNat + size)] e.cells then some id else none
            | none => none
          let waits := meets ++ mustFirst (plainLater cls cells) t.me.order.pend
          let f : FreeReq := ⟨waits, t.free, t.issue.agent, t.me.ctl.asid, t.sc base, d.1.filterMap Prod.snd, a, ks.filterMap Prod.snd⟩
          .ok ((t.tick.modMe (Ctx.addPend (.access t.free (some cls) h.scope.toNat false t.me.ctl.asid cells .away))).modDev fun v =>
            { v with frees := v.frees ++ [f] })) s

/-- Cells of a little-endian number at keys that follow an address. -/
def cellsFrom (va : Nat) (ks : List Nat) (v : Nat) : List (Nat × Nat × Byte) :=
  ks.zipIdx.map fun x => (va + x.2, x.1, .ofNat 8 (v / 2 ^ (8 * x.2)))

/-- FREE_APPLY (R363): the oldest free of an agent takes effect, indivisibly, once the accesses that come first have performed. -/
def execFreeApply (agent : Nat) (s : State) : Host.Outcome State Fault Refusal :=
  match s.dev.frees.find? fun f => f.agent == agent with
  | none => .next s
  | some f =>
    let s := s.forceIds f.waits
    if s.anyPending f.waits then .next s else
    let s := s.modDev fun v => { v with frees := v.frees.erase f }
    let d := f.desc.map s.byte
    let cells := cellsFrom f.blockVA.toNat f.block (numAt d 16 8) ++
      cellsFrom (f.descVA.toNat + 16) ((f.desc.drop 16).take 8) f.blockVA.toNat ++
      cellsFrom (f.descVA.toNat + 24) ((f.desc.drop 24).take 8) ((numAt d 24 8 + 1) % 2 ^ 64)
    .next ((reach agent false (f.desc ++ f.block) (traffic 2 false (f.desc ++ f.block) (s.performBytes agent f.asid cells))).arrived f.own)

/-! TLBINV. -/

/-- A core lies in the scope of an agent (R156). -/
def coreInScope (scope agent core : Nat) : Bool :=
  match scope with
  | 0 => false
  | 1 => core == coreOf agent
  | 2 => core / 8 == clusterOf agent
  | _ => true

/-- The region of TLBINV (R365), the end exclusive. -/
def invRegion (size : BitVec 2) (base : W64) : Nat × Nat :=
  let n := match size.toNat with | 0 => 2 ^ 16 | 1 => 2 ^ 21 | 2 => 2 ^ 30 | _ => 2 ^ 64
  (base.toNat / n * n, base.toNat / n * n + n)

/-- The pending accesses of an agent in a region, under the ASIDs named. -/
def inRegion (asidOk : BitVec 16 → Bool) (lo hi : Nat) (l : List Pend) : List Nat :=
  l.filterMap fun p => match p with
    | .store id _ _ _ asid cells => if asidOk asid && rangesMeet [(lo, hi)] cells then some id else none
    | .access id _ _ _ asid cells _ => if asidOk asid && rangesMeet [(lo, hi)] cells then some id else none
    | .fenceC .. => none
    | .fenceR .. => none

/-- A FENCE.C at `.dev` or wider, which orders entry stores before a TLBINV (R354). -/
def Pend.isWide : Pend → Bool
  | .fenceC sc _ => decide (3 ≤ sc)
  | .fenceR .. => false
  | .store .. => false
  | .access .. => false

/-- The accesses that such a fence orders before a TLBINV. -/
def beforeTlbinv : List Pend → List Nat
  | [] => []
  | p :: r =>
    (match p.earlier with
     | some (id, a) => if r.any fun f => f.isWide && f.covers a then [id] else []
     | none => []) ++ beforeTlbinv r

/-- What a TLBINV names goes, in the cores of its scope, once the accesses in flight under it, and others named, have performed; else the state
in which they have as far as they can (R365). -/
def dropNamed (inS : Nat → Bool) (v base : W64) (size : BitVec 2) (also : List Nat) (s : State) :
    Except (List Nat × State) State :=
  let ok := fun (a : BitVec 16) => v.getLsbD 16 || a == v.extractLsb' 0 16
  let r := invRegion size base
  let ids := (s.ctxs.flatMap fun c => if inS (coreOf c.1) then inRegion ok r.1 r.2 c.2.order.pend else []) ++ also
  let t := s.forceIds ids
  match ids.filter fun i => t.anyPending [i] with
  | id :: more => .error (id :: more, t)
  | [] => .ok (t.dropVA inS ok r.1 r.2)

/-- The other devices that a TLBINV at `.sys` goes to: those that the route table names (R365, R408, log 48). -/
def peersOf (s : State) : List Nat := (s.dev.routes.map Prod.fst).filter (· != s.dev.devno.toNat)

/-- A TLBINV at `.sys` goes to a device; it has performed once that is done (R416). -/
def sendInval (dev : Nat) (s : State) : State :=
  ((s.modDev fun d => { d with signals := d.signals ++ [.inval (some s.free) dev] }).modMe
    (Ctx.addPend (.access s.free none 4 true s.me.ctl.asid [] .away))).tick

/-- TLBINV (R365): the accesses in flight under the translations that it drops perform first, and so do those that a fence orders before it
(R354). At `.sys` it goes to the other devices too (R416). -/
def execTlbinv (scope : BitVec 3) (asid base : SCode) (size : BitVec 2) (s : State) : Host.Outcome State Fault Refusal :=
  runOp (.tlbinv scope asid base size) (fun t =>
    match dropNamed (coreInScope scope.toNat t.issue.agent) (t.sc asid) (t.sc base) size (beforeTlbinv t.me.order.pend) t with
    | .error q => .block (.order q.1)
    | .ok q => .ok (if scope = 4 then (peersOf q).foldl (fun q d => sendInval d q) q else q)) s

end Sys2Proof.Machine
end

