-- ==== Sys2Proof/Machine/Matrix.lean ====
section
/-! DEFINITION. Machine/Matrix.lean: the matrix array and the edge latches (R204-R228): MMA, MMAS, LDE, MZERO, MSAVE, MLOAD, and
the start and completion of their commands. A product reads the latch's state at its start, and its operands as it ends or is interrupted
(log 9). -/

namespace Sys2Proof.Machine

/-! Issue. -/

/-- A tile named by a command, as the key of its instance plus one, or 0 for the core's own tile (R334). -/
def tileRef (u : BitVec 3) (m : BitVec 3) (s : State) : Nat :=
  if u = 0 then 0 else instKey m.toNat u (flatIndex u 0 s.me.flow.lift.levels s.xs 0) + 1

/-- Set the busy bit of a tile (R208). -/
def setBusy (m : BitVec 3) (s : State) : State :=
  s.modCore (coreOf s.issue.agent) fun c => { c with busy := c.busy ||| (1#8 <<< m.toNat) }

/-- A command on a tile, which takes a tag and an instance: a full queue blocks; a busy tile stalls (R23, R206, R208). -/
def onTile (i : Instr) (ins : List (BitVec 5)) (out : Option (BitVec 5)) (m : BitVec 3) (dst : Nat) (fill : Cmd → Cmd) (s : State) : Res :=
  (sendAs i ins out (slotTag i s) (fun c => fill { c with dst := dst }) s).bind fun t =>
    if tileBusy m s then .stall else .ok (setBusy m t)

/-- A command on a tile that it writes, which takes the slot's tag (R339). -/
def tileCmd (i : Instr) (ins : List (BitVec 5)) (out : Option (BitVec 5)) (m : BitVec 3) (fill : Cmd → Cmd) (s : State) : Res :=
  let u := slotTag i s
  let s := noteTag 3 m.toNat u (seedM u m s)
  onTile i ins out m (tileRef u m s) fill s

/-- NOP.X (R52). -/
def execNopX (s : State) : Host.Outcome State Fault Refusal := runOp .nopX .ok s

/-- A format that the array accepts as an operand (R115). -/
def arrayFmt (f : Nat) : Bool := decide (f ≤ 7) || f == 10 || f == 11 || f == 12

/-- An address operand in scratchpad with a bit at or above 22 (R211). -/
def padTrap (a : W64) (s : State) : Option Trap := if 2 ^ 22 ≤ a.toNat then some (s.cause 0x0A 0 a) else none

/-- An access to elements 0 to n - 1 of dimension 0 ends inside a record (R110). -/
def cutsRecord (e : BitVec 1024) (n : Nat) : Bool := tiIsRec e && Nat.min n (tiExt e 0) % 32 != 0

/-- The checks at issue of a product (R110, R219), in the order of the model's choice (log 26). A record A where none is allowed raises 0x0F, if
it is sound otherwise. -/
def mmaTrap (kinds : List Nat) (pad : Option W64) (tia : BitVec 6) (kf : BitVec 8) (s : State) : Option Trap :=
  let e := tiOf s s.issue.agent tia.toNat
  let sound := fun (ks : List Nat) => match pad with | some _ => tiOk e ks true | none => ks.contains (tiKind e) && tiSound e
  if !sound (2 :: kinds) then some (s.cause 0x18)
  else if (tiIsRec e && (!kinds.contains 2 || kf.toNat % 32 != 0 || cutsRecord e kf.toNat)) || !arrayFmt (tiFmt e) then some (s.cause 0x0F)
  else match pad with | some a => padTrap a s | none => none

/-- A product command. -/
def product (i : Instr) (k : Tok) (md : BitVec 3) (tia : BitVec 6) (trap : State → Option Trap) (fill : State → Cmd → Cmd) (s : State) :
    Host.Outcome State Fault Refusal :=
  runOp i (fun t =>
    match trap t with
    | some x => .trap x
    | none => tileCmd i k.ins (some k.out) md (fun c => fill t { c with ti := tiOf t t.issue.agent tia.toNat }) t) s

/-- MMA from scratchpad (R219, R221). -/
def execMmaScratchpad (k : Tok) (md : BitVec 3) (eb : BitVec 2) (tia : BitVec 6) (base : SCode) (kf : BitVec 8) (s : State) :
    Host.Outcome State Fault Refusal :=
  product (.mmaScratchpad k md eb tia base kf) k md tia (fun t => mmaTrap [1, 2] (some (t.sc base)) tia kf t)
    (fun t c => { c with caps := [t.sc base] }) s

/-- MMA from vectors (R219, R221): the run is captured. -/
def execMmaVector (k : Tok) (md : BitVec 3) (eb : BitVec 2) (tia : BitVec 6) (v : BitVec 10) (kf : BitVec 8) (s : State) :
    Host.Outcome State Fault Refusal :=
  product (.mmaVector k md eb tia v kf) k md tia (fun t => mmaTrap [1] none tia kf t)
    (fun t c =>
      let reg := fun (j : Nat) => t.vnum t.me (t.physV (tagOfV t.me.flow.lift (v.toNat + j)) (v.toNat + j))
      { c with vecs := (List.range (t.vectorRun tia kf)).map reg }) s

/-- MMAS (R219, R222). -/
def execMmas (k : Tok) (md : BitVec 3) (eb : BitVec 2) (tia : BitVec 6) (base : SCode) (kf : BitVec 8) (s : State) :
    Host.Outcome State Fault Refusal :=
  product (.mmas k md eb tia base kf) k md tia (fun t => mmaTrap [6] (some (t.sc base)) tia kf t)
    (fun t c => { c with caps := [t.sc base] }) s

/-- The cores whose latch LDE writes: those of the mask in the cluster, or the issuing core alone (R218). -/
def latchCores (core : Nat) (mask : BitVec 8) : List Nat :=
  if mask = 0 then [core] else ((List.range 8).filter fun c => mask.getLsbD c).map fun c => core / 8 * 8 + c

/-- A latch is allotted to a context of a launch on a core (R218). -/
def latchHeld (s : State) (launch core eb : Nat) : Bool :=
  (List.range 4).any fun c =>
    let x := s.ctx (4 * core + c)
    x.allot.launch == some launch && x.allot.latches.getLsbD eb

/-- LDE (R218): a tagged base raises 0x12 (R339). -/
def execLde (k : Tok) (eb : BitVec 2) (tib : BitVec 6) (cmask : BitVec 8) (base : SCode) (s : State) : Host.Outcome State Fault Refusal :=
  runOp (.lde k eb tib cmask base) (fun t =>
    let a := t.issue.agent
    let e := tiOf t a tib.toNat
    let bad := (latchCores (coreOf a) cmask).find? fun c => !latchHeld t t.me.task.launch c eb.toNat
    if tagOfS t.me.flow.lift base ≠ 0 then .trap (t.cause 0x12)
    else if !tiOk e [1, 2] true then .trap (t.cause 0x18)
    else if !arrayFmt (tiFmt e) || cutsRecord e (tiExt e 0) then .trap (t.cause 0x0F)
    else match padTrap (t.sc base) t with
      | some x => .trap x
      | none => match bad with
        | some c => .trap (t.cause 0x0A 0 (.ofNat 64 c))
        | none => sendCmd (.lde k eb tib cmask base) k 0 (fun c => { c with caps := [t.sc base], ti := e }) t) s

/-- MZERO (R224): T is 0, the tile is left untagged. -/
def execMzero (ks : List (BitVec 5)) (mt : BitVec 3) (s : State) : Host.Outcome State Fault Refusal :=
  runOp (.mzero ks mt) (fun t => tileCmd (.mzero ks mt) ks none mt id t) s

/-- The address of MSAVE and MLOAD, and its checks (R224). -/
def rowsAddr (sp : Bool) (base : SCode) (ofs : BitVec 13) (s : State) : W64 × Option Trap :=
  let a := s.sc base + ofs.signExtend 64 * 256
  (a, if a.toNat % 256 ≠ 0 then some (s.cause 0x0D 0 a) else if sp then padTrap a s else none)

/-- MSAVE (R224): a tagged tile with an untagged base is an axis conflict, which has no `.last` form (R339, R341). -/
def execMsave (k : Tok) (mt : BitVec 3) (sp : Bool) (base : SCode) (ofs : BitVec 13) (s : State) : Host.Outcome State Fault Refusal :=
  runOp (.msave k mt sp base ofs) (fun t =>
    let l := t.me.flow.lift
    let a := rowsAddr sp base ofs t
    match a.2 with
    | some x => .trap x
    | none =>
      if axisConflict (tagOfM l mt) (tagOfS l base) then .trap (t.cause 0x12)
      else onTile (.msave k mt sp base ofs) k.ins (some k.out) mt (tileRef (tagOfM l mt) mt t) (fun c => { c with caps := [a.1] }) t) s

/-- MLOAD (R224): the tile takes the tag of its base (R339). -/
def execMload (k : Tok) (mt : BitVec 3) (sp : Bool) (base : SCode) (ofs : BitVec 13) (s : State) : Host.Outcome State Fault Refusal :=
  runOp (.mload k mt sp base ofs) (fun t =>
    let a := rowsAddr sp base ofs t
    match a.2 with
    | some x => .trap x
    | none => tileCmd (.mload k mt sp base ofs) k.ins (some k.out) mt (fun c => { c with caps := [a.1] }) t) s

/-! The product (R115, R220-R222). -/

/-- The group size of a pair of operand formats, each a format and whether it is a record (R115, R204); none where the array
refuses the pair (R220), or the part is in reduced service (R420). -/
def pairGroup (reduced : Bool) (fa : Nat) (ra : Bool) (fb : Nat) (rb : Bool) : Option Nat :=
  let small := fun f => f == 3 || f == 4 || f == 5 || f == 6 || f == 7
  let int := fun f => f == 10 || f == 11 || f == 12
  if ra && rb then (if reduced then none else some 32)
  else if ra || rb then none
  else if small fa && small fb then (if reduced then none else some 8)
  else if int fa && int fb then (if reduced then none else some 8)
  else if (fa == 1 || fa == 2) && (fb == 1 || fb == 2) then some 4
  else if fa == 0 && fb == 0 then some 1
  else none

/-- An operand element: its value, and its scale. -/
abbrev Operand := Num × Num

/-- Zero outside the tensor. -/
def zeroOp : Operand := (.fin false 0 1, .fin false 1 1)

/-- An operand element of a record from its code and its scale's: a zero scale makes the element zero (R109). -/
def recOp (f el sc : Nat) : Operand :=
  match numOf 13 sc with
  | .fin neg 0 d => (.fin false 0 1, .fin neg 0 d)
  | q => (numOf f el, q)

/-- Element (k, j) of a latch, or zero past its rows (R209, R221). -/
def latchOp (l : Latch) (k j : Nat) : Operand :=
  if l.kl ≤ k then zeroOp
  else
    let el := (mget 0 l.rows k).toNat / 2 ^ (32 * j) % 2 ^ fmtWidth l.fmt
    if l.recf.isSome then recOp l.fmt el (mget 0 l.scales (128 * (k / 32) + j)).toNat else (numOf l.fmt el, .fin false 1 1)

/-- The exact scaled sum of a group (R115, R221). -/
def groupSum (x : Int) (ops : List (Operand × Operand)) : Num :=
  let s := ops.foldl (fun a o => (addNum false a (mulNum o.1.1 o.2.1).1).1) (.fin false 0 1)
  let sc := match ops with | o :: _ => (mulNum o.1.2 o.2.2).1 | [] => .fin false 1 1
  scaleNum (mulNum s sc).1 x

/-- The accumulation of a group's sum into an F32 or I32 element (R115, R221). -/
def accInto (int : Bool) (x : Int) (c : Nat) (ops : List (Operand × Operand)) : Nat :=
  if int then
    let v := ops.foldl (fun (a : Int) o =>
      match (mulNum o.1.1 o.2.1).1 with
      | .fin neg n _ => a + (if neg then -(n : Int) else n)
      | _ => a) 0
    let v := match x with | .ofNat k => v * 2 ^ k | .negSucc k => v / 2 ^ (k + 1)
    wrap 32 (c + v)
  else
    match groupSum x ops with
    | .fin neg n d => if n = 0 then c else (roundTo 0 0 false none true (addNum false (numOf 0 c) (.fin neg n d)).1).1
    | q => (roundTo 0 0 false none true (addNum false (numOf 0 c) q).1).1

/-- One element of the product: the groups of a list, in order. -/
def productEl (int : Bool) (x : Int) (g k : Nat) (a b : Nat → Operand) (c : Nat) (groups : List Nat) : Nat :=
  groups.foldl (fun c q => accInto int x c ((List.range (Nat.min g (k - q * g))).map fun t => (a (q * g + t), b (q * g + t)))) c

/-- Element (i, j) of a tile. -/
def tileEl (t : Tile) (i j : Nat) : Nat := laneN 32 (mget 0 t (i + 128 * (j / 64))) (j % 64)

/-- A tile from its elements. -/
def tileFrom (f : Nat → Nat → Nat) : Tile :=
  (List.range 256).foldl (fun t q => mset 0 t q (ofLanes 32 ((List.range 64).map fun l => f (q % 128) (64 * (q / 128) + l)))) []

/-- The A operand of MMA from scratchpad: rows of columns, i major, as read (R221). -/
def readA (m : Cmd) (e : BitVec 1024) (b : W64) (i : Nat) : List Nat → State → Eng (List Operand)
  | [], s => .ok ([], s)
  | k :: ks, s =>
    (tiRead m e b [k, i] s).next fun c s =>
      (readA m e b i ks s).next fun r s =>
        let o : Operand := match c with
          | none => zeroOp
          | some (el, sc) => if tiIsRec e then recOp (tiFmt e) el sc else (numOf (tiFmt e) el, .fin false 1 1)
        .ok (o :: r, s)

/-- The rows of A. -/
def readRows (row : Nat → State → Eng (List Operand)) : List Nat → State → Eng (List (List Operand))
  | [], s => .ok ([], s)
  | i :: is, s => (row i s).next fun r s => (readRows row is s).next fun rs s => .ok (r :: rs, s)

/-- A row of A in bitmap form (R222): its present elements, packed in ascending k. Mask bits at and past min(K, EXT[0]) count as absent, and what
may stand for them is not read. -/
def readMasked (m : Cmd) (e : BitVec 1024) (b : W64) (kmax i : Nat) (s : State) : Eng (List Operand) :=
  if tiExt e 1 ≤ i then .ok (List.replicate kmax zeroOp, s)
  else
    let a := BitVec.ofNat 64 (tiBase e) + b + BitVec.ofInt 64 (i * tiStride e 1)
    (engReadN m true a 16 s).next fun mask s =>
      let w := fmtWidth (tiFmt e)
      let on := (List.range (Nat.min kmax (tiExt e 0))).filter fun k => decide (mask / 2 ^ k % 2 = 1)
      (engReadN m true (a + 16) ((on.length * w + 7) / 8) s).next fun v s =>
        let pos := fun (k : Nat) => (on.filter fun q => decide (q < k)).length
        .ok ((List.range kmax).map fun k =>
          if on.contains k then (numOf (tiFmt e) (v / 2 ^ (w * pos k) % 2 ^ w), .fin false 1 1) else zeroOp, s)

/-- The counts of present elements in a row of A, by group (R222). -/
def groupCounts (m : Cmd) (e : BitVec 1024) (b : W64) (g kmax i : Nat) (s : State) : Eng (List Nat) :=
  if tiExt e 1 ≤ i then .ok (List.replicate ((kmax + g - 1) / g) 0, s)
  else
    (engReadN m true (BitVec.ofNat 64 (tiBase e) + b + BitVec.ofInt 64 (i * tiStride e 1)) 16 s).next fun mask s =>
      .ok ((List.range ((kmax + g - 1) / g)).map fun q =>
        ((List.range g).filter fun t =>
          let k := q * g + t
          decide (mask / 2 ^ k % 2 = 1) && decide (k < Nat.min kmax (tiExt e 0))).length, s)

/-- The rows' counts. -/
def readCounts (row : Nat → State → Eng (List Nat)) : List Nat → State → Eng (List (List Nat))
  | [], s => .ok ([], s)
  | i :: is, s => (row i s).next fun r s => (readCounts row is s).next fun rs s => .ok (r :: rs, s)

/-- STEPS and IDLE from the counts of the rows (R222, R223). -/
def spidle (rows : List (List Nat)) : Nat × Nat × List Nat :=
  let groups := (rows.headD []).length
  let t := (List.range groups).map fun g => rows.foldl (fun a r => Nat.max a (r.getD g 0)) 0
  let idle := rows.map fun r => (t.zip r).foldl (fun a x => a + (x.1 - x.2)) 0
  (t.sum, idle.sum, idle)

/-- The tile that a command names. -/
def cmdTile (core : Nat) (mt : BitVec 3) (m : Cmd) (s : State) : Tile :=
  if m.dst = 0 then mget [] (s.core core).tiles mt.toNat
  else
    let c := s.ctx m.agent
    mget [] (if c.ctl.priv then c.saved else c.flow).lift.tileAt (m.dst - 1)

/-- Write it. While the context is in its handler, the instances stand in the set-aside trap part (R392). -/
def setCmdTile (core : Nat) (mt : BitVec 3) (m : Cmd) (v : Tile) (s : State) : State :=
  if m.dst = 0 then s.modCore core fun c => { c with tiles := mset [] c.tiles mt.toNat v }
  else s.modCtx m.agent fun c =>
    if c.ctl.priv then { c with saved := { c.saved with lift := { c.saved.lift with tileAt := mset [] c.saved.lift.tileAt (m.dst - 1) v } } }
    else { c with flow := { c.flow with lift := { c.flow.lift with tileAt := mset [] c.flow.lift.tileAt (m.dst - 1) v } } }

/-- The operand rows of a product command (R221, R222): A, and for MMAS the counts of present elements. -/
def productRows (m : Cmd) (g k : Nat) (s : State) : Eng (List (List Operand) × List (List Nat)) :=
  match m.op with
  | .mmaVector _ _ _ _ _ _ =>
    let w := fmtWidth (tiFmt m.ti)
    let all := joinLanes 2048 (m.vecs.map BitVec.toNat)
    .ok (((List.range 128).map fun i => (List.range k).map fun q =>
      ((numOf (tiFmt m.ti) (all / 2 ^ ((q * 128 + i) * w) % 2 ^ w), .fin false 1 1) : Operand), []), s)
  | .mmas _ _ _ _ _ _ =>
    (readRows (readMasked m m.ti (m.cap 0) k) (List.range 128) s).next fun a s =>
      (readCounts (groupCounts m m.ti (m.cap 0) g k) (List.range 128) s).next fun n s => .ok ((a, n), s)
  | _ => (readRows (fun i => readA m m.ti (m.cap 0) i (List.range k)) (List.range 128) s).next fun a s => .ok ((a, []), s)

/-- The latch, the tile and KF of a product. -/
def productParts (i : Instr) : BitVec 3 × BitVec 2 × BitVec 8 :=
  match i with
  | .mmaScratchpad _ md eb _ _ kf => (md, eb, kf)
  | .mmaVector _ md eb _ _ kf => (md, eb, kf)
  | .mmas _ md eb _ _ kf => (md, eb, kf)
  | _ => (0, 0, 0)

/-- Rows of a latch (R209). -/
def latchRows (f : Nat) : Nat := if fmtWidth f ≤ 8 then 128 else if fmtWidth f = 16 then 64 else 32

/-- What a command of the latch queue leaves in a latch, apart from its rows (R218). -/
def ldeState (e : BitVec 1024) (rows : FMap (BitVec 4096)) (scales : FMap (BitVec 16)) : Latch :=
  { fmt := tiFmt e, recf := if tiIsRec e then some (tiRec e) else none, kl := Nat.min (tiExt e 0) (latchRows (tiFmt e)), scx := tiScale e
    rows := rows, scales := scales }

/-- A row of B (R218): element codes, and scale codes; the canonical zero outside the tensor. -/
def readB (m : Cmd) (e : BitVec 1024) (b : W64) (k : Nat) : List Nat → State → Eng (List (Nat × Nat))
  | [], s => .ok ([], s)
  | j :: js, s =>
    (tiRead m e b [k, j] s).next fun c s =>
      (readB m e b k js s).next fun r s => .ok ((c.getD (canonZero (tiFmt e), 0)) :: r, s)

/-- The rows of B, written into a latch (R218). -/
def readLatch (m : Cmd) (e : BitVec 1024) (b : W64) : List Nat → Latch → State → Eng Latch
  | [], l, s => .ok (l, s)
  | k :: ks, l, s =>
    (readB m e b k (List.range 128) s).next fun r s =>
      let l := { l with rows := mset 0 l.rows k (.ofNat 4096 (joinLanes 32 (r.map Prod.fst))) }
      let l := if tiIsRec e && k % 32 == 0 then
          { l with scales := (r.zipIdx).foldl (fun f x => mset 0 f (128 * (k / 32) + x.2) (.ofNat 16 x.1.2)) l.scales } else l
      readLatch m e b ks l s

/-- The latch that an LDE loads. -/
def loadLatch (m : Cmd) (s : State) : Eng Latch :=
  let l := ldeState m.ti [] []
  readLatch m m.ti (m.cap 0) (List.range l.kl) l s

/-- The state that an LDE in progress leaves in a latch, over the rows that stand there; one that fails leaves the latch (R210). -/
def stateAfter (m : Cmd) (now : Latch) (s : State) : Latch :=
  match loadLatch m s with
  | .ok (l, _) => ldeState m.ti now.rows l.scales
  | .error _ => now

/-- The latch that an LDE writes, of a core. -/
def ldeWrites (own : Nat) (m : Cmd) (core e : Nat) : Bool :=
  match m.op with | .lde _ eb _ cmask _ => (latchCores own cmask).contains core && eb.toNat == e | _ => false

/-- The LDE that is writing a latch of a core: its core and command (R210). -/
def writingLatch (s : State) (core e : Nat) : Option Cmd :=
  ((List.range 8).map fun c => core / 8 * 8 + c).findSome? fun c => (runningIn (s.core c) 1).find? fun m => ldeWrites c m core e

/-- A latch as a product reads it: its state as at the start, its rows one by one as they were then, or as they are now, or as an LDE that is
writing them leaves them; a free value chooses where they differ (R210, R226, log 5). -/
def latchSeen (core e : Nat) (start : Latch) (s : State) : Latch :=
  let now := mget ({} : Latch) (s.core core).latches e
  let next := match writingLatch s core e with
    | some m => (match loadLatch m s with | .ok (l, _) => l | .error _ => now)
    | none => now
  let pick := fun (k : Nat) => match Config.choice (s.free * 1024 + k) % 3 with | 0 => start | 1 => now | _ => next
  { start with rows := (List.range 128).foldl (fun r k => mset 0 r k (mget 0 (pick k).rows k)) [] }

/-- The k and the group size of a product that has started. -/
def productSize (m : Cmd) (l : Latch) : Nat × Nat :=
  let kf := (productParts m.op).2.2
  (if kf = 0 then l.kl else kf.toNat, (pairGroup false (tiFmt m.ti) (tiIsRec m.ti) l.fmt l.recf.isSome).getD 1)

/-- The groups of a product from the command's next one up to a last one, summed into its tile (R115, R221): the tile, and the counts of
present elements. -/
def productTo (core : Nat) (m : Cmd) (last : Option Nat) (s : State) : Eng (Tile × List (List Nat)) :=
  let p := productParts m.op
  let start := m.latch.getD {}
  let z := productSize m start
  let l := latchSeen core p.2.1.toNat start s
  let groups := (List.range (last.getD ((z.1 + z.2 - 1) / z.2))).filter fun q => decide (m.group ≤ q)
  (productRows m z.2 z.1 s).next fun r s =>
    let x := tiScale m.ti + l.scx
    let int := tiFmt m.ti == 10 || tiFmt m.ti == 11 || tiFmt m.ti == 12
    let old := cmdTile core p.1 m s
    let new := tileFrom fun i j =>
      productEl int x z.2 z.1 (fun q => (r.1.getD i []).getD q zeroOp) (fun q => latchOp l q j) (tileEl old i j) groups
    .ok ((new, r.2), s.tick)

/-- An array command ends: its record gives the cycles charged to it (R228, R406). -/
def endArray (core : Nat) (m : Cmd) (err : Option (BitVec 8 × W64)) (s : State) : State :=
  let m := ((s.core core).cmds.find? fun x => x.id == m.id).getD m
  let w := pack ((List.range 4).map fun c => (16, Nat.min 65535 (mget 0 m.cycles c)))
  endCmd core m err (traceRec (core / 8) 6 0 (ctxNumber m.agent) m.pc (.ofNat 64 w) s)

/-- A product starts (R220, R221): one that a pre-emption interrupted goes on with the latch that it read (R226); another reads the state of its latch, as an LDE that is writing it has found it or leaves it (R210); a pair that the
array refuses, or rows of A that end inside a record (R110, K being KL), complete with error. -/
def startProduct (core : Nat) (m : Cmd) (s : State) : State :=
  let e := (productParts m.op).2.1.toNat
  let now := mget ({} : Latch) (s.core core).latches e
  let l := m.latch.getD (match writingLatch s core e with
    | some x => if Config.choice s.free % 2 = 0 then now else stateAfter x now s
    | none => now)
  let pair := pairGroup s.dev.reduced (tiFmt m.ti) (tiIsRec m.ti) l.fmt l.recf.isSome
  if m.latch.isNone && (pair.isNone || cutsRecord m.ti (productSize m l).1) then endArray core m (some (0x0F, 0)) s
  else (modCmd core m.id (fun x => { x with started := true, latch := some l }) (afterFences m s)).tick

/-- ARRAY_COMMAND_START (R206): one command at a time; one that a consumed token's error ends does not act (R284). -/
def execArrayCommandStart (core : Nat) (s : State) : Host.Outcome State Fault Refusal :=
  if !(runningIn (s.core core) 0).isEmpty then .next s else
  match nextIn s core 0 with
  | none => .next s
  | some m =>
    match m.depErr, m.op with
    | some e, _ => .next (endArray core m (some e) s)
    | none, .mmaScratchpad .. | none, .mmaVector .. | none, .mmas .. => .next (startProduct core m s)
    | none, _ => .next (startCmd core m (afterFences m) s)

/-- The address of row q of a tile in memory (R224). -/
def rowAddr (m : Cmd) (q : Nat) : W64 := m.cap 0 + .ofNat 64 (512 * q)
/-- The 512 bytes of row q. -/
def rowBytes (t : Tile) (q : Nat) : List Byte := leBytes 512 ((mget 0 t q).toNat + 2 ^ 2048 * (mget 0 t (q + 128)).toNat)
/-- Row q of a tile becomes 512 bytes. -/
def setRow (t : Tile) (q v : Nat) : Tile := mset 0 (mset 0 t q (.ofNat 2048 v)) (q + 128) (.ofNat 2048 (v / 2 ^ 2048))

/-- Rows of a tile are written to memory (R224). -/
def saveRows (m : Cmd) (sp : Bool) (t : Tile) : List Nat → State → Eng Unit
  | [], s => .ok ((), s)
  | q :: r, s => (engWrite m sp (rowAddr m q) (rowBytes t q) s).next fun _ s => saveRows m sp t r s

/-- Rows of a tile are read from memory (R224). -/
def loadRows (m : Cmd) (sp : Bool) : List Nat → Tile → State → Eng Tile
  | [], t, s => .ok (t, s)
  | q :: r, t, s => (engReadN m sp (rowAddr m q) 512 s).next fun v s => loadRows m sp r (setRow t q v) s

/-- After a failed MSAVE each aligned 8 bytes of the region holds one of the old contents and the tile's (R224, log 5). -/
def savePart (m : Cmd) (sp : Bool) (t : Tile) (s : State) : State :=
  (List.range 128).foldl (fun s q => (engPart m sp (rowAddr m q) (rowBytes t q) s).tick) s

/-- After a failed MLOAD each row holds one of its old value and the loaded one (R224, log 5). -/
def loadPart (m : Cmd) (sp : Bool) (t : Tile) (s : State) : Tile :=
  (List.range 128).foldl (fun t q =>
    if Config.choice (s.free * 1024 + q) % 2 = 0 then t else
    match engReadN m sp (rowAddr m q) 512 s with
    | .ok (v, _) => setRow t q v
    | .error _ => t) t

/-- A product completes (R221); an MMAS leaves its counts in MSPIDLE (R223). -/
def endProduct (core : Nat) (m : Cmd) (s : State) : State :=
  match productTo core m none s with
  | .error e => endArray core m (some e) s
  | .ok ((tile, counts), s) =>
    let s := setCmdTile core (productParts m.op).1 m tile s
    match m.op with
    | .mmas .. =>
      let z := spidle counts
      let s := s.modCtx m.agent fun c => { c with ctl := { c.ctl with msteps := .ofNat 32 z.1, midle := .ofNat 32 z.2.1 } }
      let w := z.1 % 2 ^ 32 * 2 ^ 32 + z.2.1 % 2 ^ 32
      endArray core m none (traceIdle (core / 8) z.2.2 (traceRec (core / 8) 7 0 (ctxNumber m.agent) m.pc (.ofNat 64 w) s))
    | _ => endArray core m none s

/-- ARRAY_COMMAND_COMPLETE (R205, R221, R224). -/
def execArrayCommandComplete (core : Nat) (s : State) : Host.Outcome State Fault Refusal :=
  match (runningIn (s.core core) 0).head? with
  | none => .next s
  | some m =>
    match m.op with
    | .mzero _ mt => .next (endArray core m none (setCmdTile core mt m [] s))
    | .msave _ mt sp _ _ =>
      let t := cmdTile core mt m s
      (match saveRows m sp t (List.range 128) s with
       | .ok (_, s) => .next (endArray core m none s)
       | .error e => .next (endArray core m (some e) (savePart m sp t s)))
    | .mload _ mt sp _ _ =>
      let t := cmdTile core mt m s
      (match loadRows m sp (List.range 128) t s with
       | .ok (v, s) => .next (endArray core m none (setCmdTile core mt m v s))
       | .error e => .next (endArray core m (some e) (setCmdTile core mt m (loadPart m sp t s) s.tick)))
    | _ => .next (endProduct core m s)

/-! The latches (R218). -/

/-- LATCH_COMMAND_START (R206): one LDE runs at a time. -/
def execLatchCommandStart (core : Nat) (s : State) : Host.Outcome State Fault Refusal :=
  if !(runningIn (s.core core) 1).isEmpty then .next s else
  match nextIn s core 1 with
  | none => .next s
  | some m => .next (startCmd core m (afterFences m) s)

/-- LDE_COMPLETE (R218): every target latch holds every row. -/
def execLdeComplete (core : Nat) (s : State) : Host.Outcome State Fault Refusal :=
  match (runningIn (s.core core) 1).head? with
  | none => .next s
  | some m =>
    match m.op with
    | .lde _ eb _ cmask _ =>
      (match loadLatch m s with
       | .error e => .next (endCmd core m (some e) s)
       | .ok (l, s) =>
         let s := (latchCores core cmask).foldl (fun s c => s.modCore c fun q => { q with latches := mset {} q.latches eb.toNat l }) s
         .next (endCmd core m none s))
    | _ => .next s

end Sys2Proof.Machine
end

