-- ==== Sys2Proof/Machine/Tree.lean ====
section
/-! DEFINITION. Machine/Tree.lean: coefficient trees (R229-R257): the tree instructions, and the accesses that the home Woad unit
performs, each indivisible (R249). Values of approximations are F32 bit patterns. -/

namespace Sys2Proof.Machine

/-! Issue (R237-R239). -/

/-- Nodes of a level in one root block (R233). -/
def blockNodes (e : BitVec 1024) (l : Nat) : Nat := 2 ^ (tiDim e * (treeLev e - l))
/-- Nodes of a level across all root blocks. -/
def levelNodes (e : BitVec 1024) (l : Nat) : Nat := blockNodes e l * 2 ^ (tiDim e * treeRbl e)
/-- Detail bands of a node (R232). -/
def bands (e : BitVec 1024) : Nat := 2 ^ tiDim e - 1

/-- The checks of a tree instruction at issue (R238). -/
def treeTrap (ti : BitVec 6) (lvl : BitVec 5) (low : Bool) (node : W64) (s : State) : Option Trap :=
  let e := tiOf s s.issue.agent ti.toNat
  if !treeOk e then some (s.cause 0x18)
  else if 2 < tiFmt e || (List.range (treeLev e)).any fun j => 4 < treeFmt e (j + 1) then some (s.cause 0x1A)
  else if treeLev e < lvl.toNat || (low && lvl == 0) || decide (levelNodes e lvl.toNat ≤ node.toNat) then some (s.cause 0x19)
  else none

/-- A tree instruction: its checks, then its command with node, entry and predicate captured (R238). -/
def treeOp (i : Instr) (k : Tok) (p : BitVec 4) (ti : BitVec 6) (lvl : BitVec 5) (low : Bool) (node : SCode)
    (trap : State → Option Trap) (note : BitVec 3 → State → State) (fill : BitVec 3 → State → Cmd → Cmd) (s : State) :
    Host.Outcome State Fault Refusal :=
  runOp i (fun t =>
    let u := slotTag i t
    match (treeTrap ti lvl low (t.sc node) t).orElse fun _ => trap t with
    | some x => .trap x
    | none =>
      let c0 := fun (c : Cmd) => { c with caps := [t.sc node], pred := t.pr p, ti := tiOf t t.issue.agent ti.toNat }
      sendCmd i k u (fun c => fill u t (c0 c)) (note u t)) s

/-- TLA (R241). -/
def execTla (k : Tok) (p : BitVec 4) (lvl : BitVec 5) (node : SCode) (v : BitVec 10) (ti : BitVec 6) (s : State) :
    Host.Outcome State Fault Refusal :=
  treeOp (.tla k p lvl node v ti) k p ti lvl false node (fun _ => none) (noteTag 1 v.toNat)
    (fun u t c => { c with dst := t.physV u v.toNat }) s
/-- TLD (R241). -/
def execTld (k : Tok) (p : BitVec 4) (lvl : BitVec 5) (node : SCode) (v : BitVec 10) (ti : BitVec 6) (band : BitVec 3) (s : State) :
    Host.Outcome State Fault Refusal :=
  treeOp (.tld k p lvl node v ti band) k p ti lvl true node (fun _ => none) (noteTag 1 v.toNat)
    (fun u t c => { c with dst := t.physV u v.toNat }) s

/-- A tree store has an axis conflict, and no `.last` form (R339, R341). -/
def treeAxis (x : VCode) (node : SCode) (s : State) : Option Trap :=
  if axisConflict (tagOfVC s.me.flow.lift x) (tagOfS s.me.flow.lift node) then some (s.cause 0x12) else none

/-- TSA (R242). -/
def execTsa (k : Tok) (p : BitVec 4) (lvl : BitVec 5) (node : SCode) (x : VCode) (ti : BitVec 6) (s : State) :
    Host.Outcome State Fault Refusal :=
  treeOp (.tsa k p lvl node x ti) k p ti lvl false node (treeAxis x node) (fun _ t => t)
    (fun _ t c => { c with vecs := [t.vc 0 x] }) s
/-- TSD (R243). -/
def execTsd (k : Tok) (p : BitVec 4) (lvl : BitVec 5) (node : SCode) (x : VCode) (ti : BitVec 6) (band : BitVec 3) (s : State) :
    Host.Outcome State Fault Refusal :=
  treeOp (.tsd k p lvl node x ti band) k p ti lvl true node (treeAxis x node) (fun _ t => t)
    (fun _ t c => { c with vecs := [t.vc 0 x] }) s

/-- The predicate instance that a command writes, as its key plus one, or 0 for the register itself (R334). -/
def predRef (u : BitVec 3) (p : BitVec 4) (s : State) : Nat :=
  if u = 0 || p = 0 then 0 else instKey p.toNat u (flatIndex u 0 s.me.flow.lift.levels s.xs 0) + 1

/-- TDSC (R244): the threshold is captured. -/
def execTdsc (k : Tok) (p : BitVec 4) (lvl : BitVec 5) (node : SCode) (pd : BitVec 4) (ti : BitVec 6) (te : Bool) (s : State) :
    Host.Outcome State Fault Refusal :=
  treeOp (.tdsc k p lvl node pd ti te) k p ti lvl true node (fun _ => none) (fun u t => noteTag 2 pd.toNat u (seedP u pd t))
    (fun u t c => { c with dst := predRef u pd t, aux := if te then tiTh c.ti else t.me.regs.th.toNat }) s
/-- TCELL.c (R245). -/
def execTcellCommit (k : Tok) (lvl : BitVec 5) (node : SCode) (ti : BitVec 6) (s : State) : Host.Outcome State Fault Refusal :=
  treeOp (.tcellCommit k lvl node ti) k 0 ti lvl true node (fun _ => none) (fun _ t => t) (fun _ _ c => c) s
/-- TCELL.r (R245). -/
def execTcellRelease (k : Tok) (lvl : BitVec 5) (node : SCode) (ti : BitVec 6) (s : State) : Host.Outcome State Fault Refusal :=
  treeOp (.tcellRelease k lvl node ti) k 0 ti lvl true node (fun _ => none) (fun _ t => t) (fun _ _ c => c) s

/-! The transform (R234). -/

/-- An F32 result, rounded to nearest. -/
def f32 (x : Num) : Nat := (roundTo 0 0 false none true x).1
/-- The F32 value of a code of a format, widened exactly. -/
def widen (f c : Nat) : Nat := if f = 0 then c else f32 (numOf f c)

/-- One axis of a transform: every pair of values along axis d. -/
def haarStep (op : Nat → Nat → Nat × Nat) (x : List Nat) (d : Nat) : List Nat :=
  (List.range x.length).map fun k =>
    let hi := decide (k / 2 ^ d % 2 = 1)
    let j := if hi then k - 2 ^ d else k
    let p := op (x.getD j 0) (x.getD (j + 2 ^ d) 0)
    if hi then p.2 else p.1

/-- Halves of the sum and of the difference, each rounded once. -/
def halves (a b : Nat) : Nat × Nat :=
  (f32 (scaleNum (addNum false (numOf 0 a) (numOf 0 b)).1 (-1)), f32 (scaleNum (addNum false (numOf 0 a) (negNum (numOf 0 b))).1 (-1)))
/-- The sum and the difference. -/
def sumDiff (a b : Nat) : Nat × Nat :=
  (f32 (addNum false (numOf 0 a) (numOf 0 b)).1, f32 (addNum false (numOf 0 a) (negNum (numOf 0 b))).1)

/-- forward of R234: the average, then the details. -/
def haarForward (axes : Nat) (c : List Nat) : List Nat := (List.range axes).foldl (haarStep halves) c
/-- inverse of R234. -/
def haarInverse (axes : Nat) (x : List Nat) : List Nat := (List.range axes).reverse.foldl (haarStep sumDiff) x

/-! Reading a tree (R231-R235). -/

/-- A directory entry breaks R231; `l` is its level. -/
def dirBad (e : BitVec 1024) (l : Nat) (bs : List Byte) : Bool :=
  let cb := numAt bs 0 8
  let mp := numAt bs 8 8
  cb % 128 != 0 || mp % 8 != 0 || (l == 0 && (cb != 0 || mp != 0)) || (l != treeLev e && numAt bs 16 4 != 0) || ((bs.drop 20).take 12).any (· != 0)

/-- The address of the directory of a root block (R231). -/
def dirAddr (e : BitVec 1024) (r : Nat) : Nat := tiBase e + r * treeDir e * 128

/-- The directory entry of a level of a root block: CBASE, MAP, ROOT. An entry that a command needs and that breaks R231 is an error (R247). -/
def readDir (m : Cmd) (r l : Nat) (s : State) : Eng (Nat × Nat × Nat) :=
  let e := m.ti
  let a := BitVec.ofNat 64 (dirAddr e r + 32 * l)
  (engRead m false a 32 s).next fun bs s =>
    if dirBad e l bs then .error (0x1A, a) else .ok ((numAt bs 0 8, numAt bs 8 8, numAt bs 16 4), s)

/-- Bytes of a detail of a level. -/
def detBytes (e : BitVec 1024) (l : Nat) : Nat := fmtBytes (treeFmt e l)
/-- Bytes of a cell (R232). -/
def cellBytes (e : BitVec 1024) (l : Nat) : Nat := bands e * 64 * detBytes e l
/-- The address of a detail (R232). -/
def detAddr (e : BitVec 1024) (l cbase q b : Nat) : W64 :=
  BitVec.ofNat 64 (cbase + q / 64 * cellBytes e l + (b - 1) * 64 * detBytes e l + q % 64 * detBytes e l)

/-- The cell of a node is present. -/
def present (m : Cmd) (map q : Nat) (s : State) : Eng Bool :=
  let c := q / 64
  (engReadN m false (BitVec.ofNat 64 (map + c / 8)) 1 s).next fun v s => .ok (v / 2 ^ (c % 8) % 2 == 1, s)

/-- The stored details of a node, band by band; +0 in an absent cell (R232). -/
def readDets (m : Cmd) (l cbase q : Nat) : List Nat → State → Eng (List Nat)
  | [], s => .ok ([], s)
  | b :: bs, s =>
    (engReadN m false (detAddr m.ti l cbase q b) (detBytes m.ti l) s).next fun v s =>
      (readDets m l cbase q bs s).next fun r s => .ok (v :: r, s)

/-- Details of a global node of a level, as stored, of a list of bands. -/
def nodeDets (m : Cmd) (l n : Nat) (bs : List Nat) (s : State) : Eng (List Nat) :=
  let e := m.ti
  let q := n % blockNodes e l
  (readDir m (n / blockNodes e l) l s).next fun d s =>
    (present m d.2.1 q s).next fun on s =>
      if on then readDets m l d.1 q bs s else .ok (bs.map fun _ => 0, s)

/-- All its bands. -/
def allBands (e : BitVec 1024) : List Nat := (List.range (bands e)).map (· + 1)

/-- The approximation of a global node `gap` levels below the root, from the coefficients (R235). -/
def approx (m : Cmd) : Nat → Nat → State → Eng Nat
  | 0, n, s => (readDir m n (treeLev m.ti) s).next fun d s => .ok (d.2.2, s)
  | gap + 1, n, s =>
    let e := m.ti
    let l := treeLev e - gap
    let parent := n / 2 ^ tiDim e
    (approx m gap parent s).next fun avg s =>
      (nodeDets m l parent (allBands e) s).next fun ds s =>
        .ok ((haarInverse (tiDim e) (avg :: ds.map (widen (treeFmt e l)))).getD (n % 2 ^ tiDim e) 0, s)

/-- The approximation of a node of a level. -/
def approxAt (m : Cmd) (l n : Nat) (s : State) : Eng Nat := approx m (treeLev m.ti - l) n s

/-- The values of a list of nodes. -/
def mapNodes {α : Type} (f : Nat → State → Eng α) : List Nat → State → Eng (List α)
  | [], s => .ok ([], s)
  | n :: ns, s => (f n s).next fun v s => (mapNodes f ns s).next fun r s => .ok (v :: r, s)

/-! Writing a tree (R242-R246). -/

/-- Commit the uncommitted tiles under a range, whatever AC holds (R245). -/
def commitUnder (m : Cmd) : List Nat → State → Eng Unit
  | [], s => .ok ((), s)
  | va :: r, s =>
    match s.walk m.asid.toNat (va % 2 ^ 57) with
    | .leaf w _ entry =>
      if leafV w then commitUnder m r s
      else (match commitAs 1 m.asid va entry s with
        | .error c => .error (.ofNat 8 c, .ofNat 64 va)
        | .ok s => commitUnder m r s)
    | .unmapped _ => .error (0x09, .ofNat 64 va)
    | .shut => .error (0x0A, .ofNat 64 va)
    | .bad => .error (0x09, .ofNat 64 va)

/-- The tiles under a range of bytes. -/
def tilesOf (a n : Nat) : List Nat := (List.range ((a % 65536 + n + 65535) / 65536)).map fun t => Nat.max a (a / 65536 * 65536 + t * 65536)

/-- Set or clear the presence bit of a cell. -/
def setPresent (m : Cmd) (map c : Nat) (on : Bool) (s : State) : Eng Unit :=
  let a := BitVec.ofNat 64 (map + c / 8)
  (engReadN m false a 1 s).next fun v s =>
    let b := 2 ^ (c % 8)
    engWrite m false a [BitVec.ofNat 8 (v - v / b % 2 * b + (if on then b else 0))] s

/-- Commit an absent cell (R245). -/
def commitCell (m : Cmd) (l cbase map q : Nat) (s : State) : Eng Unit :=
  let n := cellBytes m.ti l
  let a := cbase + q / 64 * n
  (commitUnder m (tilesOf a n) s).next fun _ s =>
    (engWrite m false (BitVec.ofNat 64 a) (List.replicate n 0) s).next fun _ s => setPresent m map (q / 64) true s

/-- A detail to be stored: level, global node, band, bits. -/
abbrev Coef := Nat × Nat × Nat × Nat

/-- Store details: a value other than ±0 in an absent cell commits the cell first (R246). -/
def storeDets (m : Cmd) : List Coef → State → Eng Unit
  | [], s => .ok ((), s)
  | (l, n, b, v) :: r, s =>
    let e := m.ti
    let q := n % blockNodes e l
    let zero := v % 2 ^ (8 * detBytes e l - 1) == 0
    (readDir m (n / blockNodes e l) l s).next fun d s =>
      (present m d.2.1 q s).next fun on s =>
        if !on && zero then storeDets m r s
        else
          (if on then .ok ((), s) else commitCell m l d.1 d.2.1 q s : Eng Unit).next fun _ s =>
            (engWrite m false (detAddr e l d.1 q b) (leBytes (detBytes e l) v) s).next fun _ s => storeDets m r s

/-- Store root averages of blocks. -/
def storeRoots (m : Cmd) : List (Nat × Nat) → State → Eng Unit
  | [], s => .ok ((), s)
  | (r, v) :: rs, s =>
    let e := m.ti
    (readDir m r (treeLev e) s).next fun _ s =>
      (engWrite m false (BitVec.ofNat 64 (dirAddr e r + 32 * treeLev e + 16)) (leBytes 4 v) s).next fun _ s =>
        storeRoots m rs s

/-- The parents of nodes, each once, in order. -/
def parentsOf (axes : Nat) (ns : List (Nat × Nat)) : List Nat :=
  (ns.foldl (fun acc x => let p := x.1 / 2 ^ axes; if acc.contains p then acc else p :: acc) []).reverse

/-- The path update from the changed approximations of a level up (R242): the details to store, and the new root averages. `gap` is the
number of levels above. -/
def pathUp (m : Cmd) : Nat → List (Nat × Nat) → State → Eng (List Coef × List (Nat × Nat))
  | 0, ap, s => .ok (([], ap), s)
  | gap + 1, ap, s =>
    let e := m.ti
    let a := tiDim e
    let l := treeLev e - gap
    (mapNodes (fun p s =>
      (mapNodes (fun n s => match ap.find? fun x => x.1 == n with
          | some x => .ok (x.2, s)
          | none => approxAt m (l - 1) n s) ((List.range (2 ^ a)).map (p * 2 ^ a + ·)) s).next fun c s =>
        .ok ((p, haarForward a c), s)) (parentsOf a ap) s).next fun ps s =>
      let here := ps.flatMap fun p => (p.2.drop 1).zipIdx.map fun x =>
        ((l, p.1, x.2 + 1, (roundTo (treeFmt e l) 0 false none false (numOf 0 x.1)).1) : Coef)
      (pathUp m gap (ps.map fun p => (p.1, p.2.getD 0 0)) s).next fun r s => .ok ((here ++ r.1, r.2), s)

/-! What each command does at its home (R240-R247). -/

/-- The lanes of a width that a command's predicate selects and whose nodes exist (R240). -/
def treeLanes (m : Cmd) (w l : Nat) : List Nat :=
  (List.range (2048 / w)).filter fun i => predLane w m.pred i && decide ((m.cap 0).toNat + i < levelNodes m.ti l)

/-- A vector result of a tree load: the selected lanes are written, those past the level with +0 (R240). -/
def putTreeV (m : Cmd) (w : Nat) (vals : List (Nat × Nat)) (s : State) : State :=
  let v := ofLanes w ((List.range (2048 / w)).map fun i => match vals.find? fun x => x.1 == i with | some x => x.2 | none => 0)
  s.setCtx m.agent (writeV s (s.ctx m.agent) m.dst (laneMask w m.pred) v)

/-- A predicate result of TDSC (R244). -/
def putTreeP (m : Cmd) (pd : BitVec 4) (mask v : Pred) (s : State) : State :=
  if pd = 0 then s
  else if m.dst = 0 then s.modCtx m.agent fun c =>
    { c with regs := { c.regs with p := mset 0 c.regs.p pd.toNat (mergeBits mask v (mget 0 c.regs.p pd.toNat)) } }
  else
    let put := fun (f : Flow) => { f with lift := { f.lift with
      predAt := mset 0 f.lift.predAt (m.dst - 1) (mergeBits mask v (mget 0 f.lift.predAt (m.dst - 1))) } }
    s.modCtx m.agent fun c => if c.ctl.priv then { c with saved := put c.saved } else { c with flow := put c.flow }

/-- A detail exceeds a threshold, or is a NaN (R244, R255). -/
def exceeds (t : Num) (f c : Nat) : Bool :=
  match numOf 0 (widen f c) with
  | .nan _ => true
  | .inf _ => numLt false t (.inf false)
  | .fin _ n d => numLt false t (.fin false n d)

/-- The access of a tree command (R241-R246). -/
def treeAccess (m : Cmd) (s : State) : Eng Unit :=
  let e := m.ti
  let n0 := (m.cap 0).toNat
  let lane := fun (w i : Nat) => laneN w (m.vecs.getD 0 0) i
  match m.op with
  | .tla _ _ lvl _ _ _ =>
    let w := fmtWidth (tiFmt e)
    let is := treeLanes m w lvl.toNat
    (mapNodes (fun i s => approxAt m lvl.toNat (n0 + i) s) is s).next fun vs s =>
      .ok ((), putTreeV m w (is.zip (vs.map fun v => (roundTo (tiFmt e) 0 false none false (numOf 0 v)).1)) s)
  | .tld _ _ lvl _ _ _ band =>
    let w := fmtWidth (treeFmt e lvl.toNat)
    let is := treeLanes m w lvl.toNat
    (mapNodes (fun i s => (nodeDets m lvl.toNat (n0 + i) [band.toNat] s).next fun ds s => .ok (ds.headD 0, s)) is s).next fun vs s =>
      .ok ((), putTreeV m w (is.zip vs) s)
  | .tsa _ _ lvl _ _ _ =>
    let w := fmtWidth (tiFmt e)
    let ap := (treeLanes m w lvl.toNat).map fun i => (n0 + i, widen (tiFmt e) (lane w i))
    if ap.isEmpty then .ok ((), s) else
    (pathUp m (treeLev e - lvl.toNat) ap s).next fun r s => (storeDets m r.1 s).next fun _ s => storeRoots m r.2 s
  | .tsd _ _ lvl _ _ _ band =>
    let w := fmtWidth (treeFmt e lvl.toNat)
    storeDets m ((treeLanes m w lvl.toNat).map fun i => (lvl.toNat, n0 + i, band.toNat, lane w i)) s
  | .tdsc _ _ lvl _ pd _ _ =>
    let w := fmtWidth (tiFmt e)
    let is := (List.range (2048 / w)).filter (predLane w m.pred)
    let t := numOf 0 m.aux
    let qs := (List.range (2048 / w / 2 ^ tiDim e + 1)).map (n0 + ·)
    (mapNodes (fun q s =>
      if levelNodes e lvl.toNat ≤ q || t.isNaN || !(is.any fun i => n0 + i / 2 ^ tiDim e == q) then .ok (false, s)
      else (nodeDets m lvl.toNat q (allBands e) s).next fun ds s => .ok (ds.any (exceeds t (treeFmt e lvl.toNat)), s)) qs s).next fun hits s =>
      let v := predOf w ((List.range (2048 / w)).map fun i => hits.getD (i / 2 ^ tiDim e) false)
      .ok ((), putTreeP m pd (predOf w ((List.range (2048 / w)).map fun i => is.contains i)) v s)
  | .tcellCommit _ lvl _ _ =>
    let q := n0 % blockNodes e lvl.toNat
    (readDir m (n0 / blockNodes e lvl.toNat) lvl.toNat s).next fun d s =>
      (present m d.2.1 q s).next fun on s => if on then .ok ((), s) else commitCell m lvl.toNat d.1 d.2.1 q s
  | .tcellRelease _ lvl _ _ =>
    let q := n0 % blockNodes e lvl.toNat
    (readDir m (n0 / blockNodes e lvl.toNat) lvl.toNat s).next fun d s =>
      (present m d.2.1 q s).next fun on s => if on then setPresent m d.2.1 (q / 64) false s else .ok ((), s)
  | _ => .ok ((), s)

/-! Events (R239, R249). -/

/-- Two commands of one context name the same forest (R239). -/
def sameForest (x y : Cmd) : Bool := x.agent == y.agent && tiBase x.ti == tiBase y.ti

/-- No earlier command of a list names the same forest for the same context. -/
def firstOfForest (l : List Cmd) (m : Cmd) : Bool := (l.takeWhile fun x => x.id != m.id).all fun x => !sameForest x m

/-- The nodes that a command's access concerns, with their level. -/
def nodesOf (m : Cmd) : Nat × List Nat :=
  let n0 := (m.cap 0).toNat
  let all := fun (w : Nat) (lvl : BitVec 5) => (lvl.toNat, (treeLanes m w lvl.toNat).map (n0 + ·))
  match m.op with
  | .tla _ _ lvl .. => all (fmtWidth (tiFmt m.ti)) lvl
  | .tsa _ _ lvl .. => all (fmtWidth (tiFmt m.ti)) lvl
  | .tld _ _ lvl .. => all (fmtWidth (treeFmt m.ti lvl.toNat)) lvl
  | .tsd _ _ lvl .. => all (fmtWidth (treeFmt m.ti lvl.toNat)) lvl
  | .tdsc _ _ lvl .. =>
    let w := fmtWidth (tiFmt m.ti)
    (lvl.toNat, ((List.range (2048 / w)).filter (predLane w m.pred)).map fun i => n0 + i / 2 ^ tiDim m.ti)
  | .tcellCommit _ lvl .. => (lvl.toNat, [n0])
  | .tcellRelease _ lvl .. => (lvl.toNat, [n0])
  | _ => (0, [])

/-- The root blocks that a command touches, by the addresses of their directories (R239). -/
def rootsOf (m : Cmd) : List Nat :=
  let x := nodesOf m
  (x.2.filter fun n => decide (n < levelNodes m.ti x.1)).map fun n => dirAddr m.ti (n / blockNodes m.ti x.1)

/-- The keys of those directories, as the command's translations give them: aliases name one root block (R148, R239). -/
def rootKeys (m : Cmd) (s : State) : List Nat :=
  (rootsOf m).filterMap fun va => match s.place m.agent m.asid (fun _ => false) va .read with
    | .at k => some k
    | .zero | .commit _ _ | .cause _ _ => none

/-- The home Woad units of root blocks (R144, R239). -/
def homesOf (roots : List Nat) : List Nat := roots.map fun k => homeSlice (k / 128)

/-- The commands that stand in the arrival queues of the Woad units (R239, R254). -/
def woadQueue (s : State) : List Cmd := s.cores.flatMap fun k => k.2.cmds.filter fun m => m.arrived.isSome && !m.performed

/-- A unit's arrival queue is full: 32 commands (R254). -/
def woadFull (s : State) (u : Nat) : Bool := decide (32 ≤ ((woadQueue s).filter fun m => (homesOf m.roots).contains u).length)

/-- Two lists have a number in common. -/
def share (a b : List Nat) : Bool := a.any b.contains

/-- A started command may enter the queues of its homes (R239): they have room; no earlier command of its context that touches a root block of
it, and none started before it that goes to a home of it, has still to arrive. -/
def mayArrive (s : State) (all : List Cmd) (m : Cmd) : Bool :=
  let r := rootKeys m s
  let behind := fun (x : Cmd) => x.agent == m.agent && x.arrived.isNone && x.id != m.id
  (homesOf r).all (fun u => !woadFull s u) &&
  ((all.takeWhile fun x => x.id != m.id).all fun x => !(behind x && share (rootKeys x s) r)) &&
  (all.all fun x => !(behind x && x.started && decide (x.sent < m.sent) && share (homesOf (rootKeys x s)) (homesOf r)))

/-- A command that has arrived is the first of each of its homes' queues (R239). -/
def firstAtHome (s : State) (m : Cmd) : Bool :=
  (woadQueue s).all fun x => !(decide (x.arrived.getD 0 < m.arrived.getD 0) && share (homesOf x.roots) (homesOf m.roots))

/-- A started command has a next event: it arrives, it is performed, or its token completes. -/
def treeReady (s : State) (all : List Cmd) (m : Cmd) : Bool :=
  m.started && (m.performed || if m.arrived.isSome then firstAtHome s m else mayArrive s all m)

/-- A tree command has started: it takes its place in the order of starts, and a full queue of a home of it is traced (R239, R254, R406). -/
def sendTree (core : Nat) (m : Cmd) (s : State) : State :=
  let s := ((homesOf (rootKeys m s)).filter (woadFull s)).foldl
    (fun s u => traceRec (core / 8) 10 5 (ctxNumber m.agent) m.pc (.ofNat 64 (0x100 + u)) s) s
  (modCmd core m.id (fun x => { x with sent := s.free }) s).tick

/-- TREE_COMMAND_START (R239). -/
def execTreeCommandStart (core : Nat) (s : State) : Host.Outcome State Fault Refusal :=
  let w := waitingIn (s.core core) 2
  match w.find? fun m => mayStart s m && firstOfForest w m with
  | none => .next s
  | some m => .next (startCmd core m (fun s => sendTree core m (afterFences m s)) s)

/-- One of a list: the only one, or the one that a free value picks (log 5). -/
def pickOne {α : Type} (l : List α) (s : State) : Option α :=
  match l with
  | [] => none
  | [x] => some x
  | l => l[Config.choice s.free % l.length]?

/-- TREE_ACCESS_PERFORM (R239, R249): a started command enters the arrival queues of its homes; one that is first in them is performed, whole or
not at all (R247); its token completes then or later, as a free value has it (R240, R256, log 5). A command that touches several trees takes its
place in all of them at one moment (log 37). -/
def execTreeAccessPerform (core : Nat) (s : State) : Host.Outcome State Fault Refusal :=
  let all := (s.core core).cmds.filter fun m => unitOf m.op == 2
  match pickOne (all.filter (treeReady s all)) s with
  | none => .next s
  | some m =>
    if m.performed then .next (endCmd core m none s)
    else if m.arrived.isNone then .next (modCmd core m.id (fun x => { x with arrived := some s.free, roots := rootKeys m s }) s).tick
    else
      let s := s.tick
      match treeAccess m s with
      | .ok (_, s) =>
        .next (if Config.choice s.free % 2 = 0 then endCmd core m none s.tick else (modCmd core m.id (fun x => { x with performed := true }) s).tick)
      | .error e => .next (endCmd core m (some e) s)

end Sys2Proof.Machine
end

