-- ==== Sys2Proof/Machine/Signals.lean ====
section
/-! DEFINITION. Machine/Signals.lean: flag posts (R290-R297), arrivals at barrier words (R277-R279), task-slot decrements (R377), and
the delivery of signals on their way. -/

namespace Sys2Proof.Machine

/-- A core that takes no signal (R296). -/
def inReset (s : State) (core : Nat) : Bool := (s.core core).inReset

/-- A context's flags take posts: a launch allots it a window (R296); an access processor's while its program runs. -/
def takesPosts (s : State) (a : Nat) : Bool :=
  if isAccess a then (s.core (coreOf a)).access.isSome
  else decide (a < 2048) && (s.ctx a).allot.launch.isSome && decide (0 < (s.ctx a).allot.window)

/-- Post n to a flag of an agent (R290, R293, R296): the cause of a refusal, or the state. -/
def postFlag (a f n : Nat) (s : State) : Except Nat State :=
  if inReset s (coreOf a) then .error 0x24
  else if !takesPosts s a then .error 0x0A
  else
    let v := (mget 0 (s.ctx a).flags f).toNat + n
    let s := s.modCtx a fun c => { c with flags := mset 0 c.flags f (.ofNat 32 (Nat.min v (2 ^ 32 - 1))) }
    .ok (if 2 ^ 32 - 1 < v then traceRec (clusterOf a) 10 8 (ctxNumber a) (.ofNat 64 f) (.ofNat 64 n) s else s)

/-- A field of a barrier word (R277). -/
def barField (s : State) (key ofs n : Nat) : Nat := s.readLE (key + ofs) n
/-- GEN. -/
def barGen (s : State) (key : Nat) : Nat := barField s key 8 4

/-- An arrival of u units at a live barrier word (R279): the old generation, and the state. -/
def arrive (key u : Nat) (s : State) : Nat × State :=
  let gen := barGen s key
  let cnt := Nat.min (barField s key 4 4 + u) (2 ^ 32 - 1)
  let arr := Nat.min (barField s key 14 2 + 1) 65535
  let s := if barField s key 0 4 ≤ cnt ∧ barField s key 12 2 ≤ arr then
      ((s.writeLE (key + 4) 4 0).writeLE (key + 8) 4 ((gen + 1) % 2 ^ 32)).writeLE (key + 14) 2 0
    else (s.writeLE (key + 4) 4 cnt).writeLE (key + 14) 2 arr
  (gen, s)

/-- A slot of the device (R377). -/
def slotOf (s : State) (n : Nat) : TSlot := mget {} s.dev.slots n
/-- Set it. -/
def setSlot (n : Nat) (v : TSlot) (s : State) : State := s.modDev fun d => { d with slots := mset {} d.slots n v }

/-- A command of an agent decrements a slot by n (R377): the cause for the sender's token, if any. -/
def decrement (agent slot n : Nat) (s : State) : Option Nat × State :=
  let t := slotOf s slot
  if !t.armed then (some 0x0A, s)
  else
    let c := t.counter.toNat
    let s := if c ≤ n then (setSlot slot { t with armed := false, ready := true, counter := 0, order := s.free, maker := some (s.ctx agent).task.tid } s).tick
      else setSlot slot { t with counter := .ofNat 32 (c - n) } s
    (if c < n then some 0x0F else none, s)

/-- What a release over all classes at a scope waits for (R157, R164). -/
def releaseWaits (scope : Nat) (cls : Option (BitVec 4)) (cells : List (Nat × Nat × Byte)) (s : State) : List Nat :=
  mustFirst ⟨cls, none, some scope, cells⟩ s.me.order.pend

/-- Put a signal on its way. -/
def sendSignal (g : Signal) (s : State) : State := s.modDev fun d => { d with signals := d.signals ++ [g] }

/-- The accesses that a signal follows (R164). -/
def Signal.waits : Signal → List Nat
  | .flag w _ _ _ _ _ => w
  | .barrier w _ _ _ _ => w
  | .slot w _ _ _ _ => w
  | .remote w _ _ _ _ _ => w
  | .inval .. => []

/-- The signal's own entry among the accesses of its agent. -/
def Signal.own : Signal → Option Nat
  | .flag _ o _ _ _ _ => o
  | .barrier _ o _ _ _ => o
  | .slot .. => none
  | .remote _ o _ _ _ _ => o
  | .inval o _ => o

/-- A refused post counts in the TOKLOG of the context that issued it (R286, R294). -/
def logRefused (own : Option Nat) (cause : Nat) (s : State) : State :=
  match own.bind s.holder with
  | some a => s.modCtx a (logErr 0 (.ofNat 8 cause) true)
  | none => s

/-- The n-th signal on its way takes effect, if an event is for its kind and the accesses that it follows have performed; it is then an access
that has performed. -/
def deliver (n : Nat) (mine : Signal → Bool) (effect : Signal → State → State) (s : State) : Host.Outcome State Fault Refusal :=
  match s.dev.signals[n]? with
  | none => .next s
  | some g =>
    if !mine g then .next s else
    let s := s.forceIds g.waits
    if s.anyPending g.waits then .next s else
    let s := effect g (s.modDev fun d => { d with signals := d.signals.eraseIdx n })
    .next (match g.own with | some id => s.arrived id | none => s)

/-- The core on which a granule's bank lies (R258). -/
def bankCore (key : Nat) : Nat := (key - 2 ^ 64) / 2 ^ 19

/-- BARRIER_ARRIVAL (R279, R280): an arrival that meets a retired granule, or a bank on a core in reset (R296), changes nothing and returns all
ones. -/
def execBarrierArrival (n : Nat) (s : State) : Host.Outcome State Fault Refusal :=
  deliver n (fun g => match g with | .barrier .. => true | .flag .. | .slot .. | .remote .. | .inval .. => false) (fun g s =>
    match g with
    | .barrier _ _ key u r =>
      if s.live key && !inReset s (bankCore key) then
        let q := arrive key u (useBanks ((g.own.bind s.holder).getD homeAgent) [key] s)
        fillRecord r (fun _ => BitVec.ofNat 2048 q.1) q.2
      else fillRecord r (fun _ => BitVec.ofNat 2048 (2 ^ 64 - 1)) s
    | _ => s) s

/-- FLAG_POST_ARRIVAL (R296): the refusal of an FPOSTR counts in TOKLOG (R294). -/
def execFlagPostArrival (n : Nat) (s : State) : Host.Outcome State Fault Refusal :=
  deliver n (fun g => match g with | .flag .. => true | .barrier .. | .slot .. | .remote .. | .inval .. => false) (fun g s =>
    match g with
    | .flag _ own log a f k =>
      (match postFlag a f k s with
       | .ok s => s
       | .error c => if log then logRefused own c s else s)
    | _ => s) s

/-- The command of an identifier. -/
def cmdOf (s : State) (core id : Nat) : Option Cmd := (s.core core).cmds.find? fun m => m.id == id

/-- End a command by identifier, with a cause or without. -/
def endById (core id : Nat) (c : Option Nat) (s : State) : State :=
  match cmdOf s core id with
  | some m => endCmd core m (c.map fun c => (.ofNat 8 c, 0)) s
  | none => s

/-- SLOT_DECREMENT (R377): a TASKDEC's decrement is applied or refused, and its token completes. -/
def execSlotDecrement (n : Nat) (s : State) : Host.Outcome State Fault Refusal :=
  deliver n (fun g => match g with | .slot .. => true | .barrier .. | .flag .. | .remote .. | .inval .. => false) (fun g s =>
    match g with
    | .slot _ core id slot k =>
      let q := decrement (((cmdOf s core id).map fun m => m.agent).getD 0) slot k s
      endById core id q.1 q.2
    | _ => s) s

/-- What another device answers to a packet: it applies it, or refuses it with one of its causes; which one is the peer's state, that is free
here (log 9). -/
def peerAnswer (causes : List Nat) (s : State) : Option Nat := causes[Config.choice s.free % (causes.length + 1)]?

/-- A packet of this device reaches its target, or is refused with 0x24 (R416); the target's own refusals are those of R296 and R377. -/
def packetLeaves (g : Signal) (s : State) : State :=
  match g with
  | .remote _ own dev _ _ none =>
    (match (if s.reachable dev then peerAnswer [0x24, 0x0A] s else some 0x24) with
     | none => s.tick
     | some c => (logRefused own c s).tick)
  | .remote _ _ dev _ _ (some c) => endById c.1 c.2 (if s.reachable dev then peerAnswer [0x0A, 0x0F] s else some 0x24) s.tick
  | _ => s

/-- A packet of a peer (R416): a post and a decrement are applied or refused (R296, R377), a TLBINV drops what it names in every core once the
accesses in flight have performed (R365), or stays until they have. -/
def packetArrives (p : Packet) (rest : List Packet) (s : State) : State :=
  let taken := fun (s : State) => { s with env := { s.env with packets := rest } }
  match p with
  | .post v f => taken (match postFlag (v.toNat % 2 ^ 11) f (v.toNat / 2 ^ 16 % 2 ^ 16) s with | .ok s => s | .error _ => s)
  | .dec v => taken (decrement homeAgent (v.toNat % 2 ^ 14) (v.toNat / 2 ^ 16 % 2 ^ 16) s).2
  | .inval v base size =>
    (match dropNamed (fun _ => true) v base size [] s with
     | .error q => q.2
     | .ok s => taken s)
  | .reset d on => taken { s with env := { s.env with resets := if on then insertUp d s.env.resets else s.env.resets.filter (· != d) } }

/-- REMOTE_SIGNAL_DELIVERY (R416): a packet of this device leaves; past those, the first of the peers' packets arrives. -/
def execRemoteSignalDelivery (n : Nat) (s : State) : Host.Outcome State Fault Refusal :=
  if s.dev.signals.length ≤ n then
    (match s.env.packets with
     | [] => .next s
     | p :: r => .next (packetArrives p r s))
  else deliver n (fun g => match g with | .remote .. => true | .inval .. => true | .barrier .. | .flag .. | .slot .. => false) packetLeaves s

end Sys2Proof.Machine
end

