-- ==== Sys2Proof/Machine/Barrier.lean ====
section
/-! DEFINITION. Machine/Barrier.lean: BARI, BARA, BARW and BARX (R277-R280). -/

namespace Sys2Proof.Machine

/-- The address of a barrier instruction (R280): the key of the granule, or the cause that it raises. -/
def barrierAt (base : SCode) (ofs : BitVec 14) (s : State) : W64 × Except Trap Nat :=
  let a := s.sc base + ofs.signExtend 64 * 16
  (a, if 2 ^ 22 ≤ a.toNat then .error (s.cause 0x0A 0 a)
      else if a.toNat % 16 ≠ 0 then .error (s.cause 0x0D 0 a)
      else .ok (padKey (clusterOf s.issue.agent) a.toNat))

/-- The key of a granule that must be live (R280); a bank that no launch of the agent maps is of mode 0 (R261). -/
def liveBarrier (base : SCode) (ofs : BitVec 14) (s : State) : Except Trap Nat :=
  let b := barrierAt base ofs s
  match b.2 with
  | .error t => .error t
  | .ok k => if !s.live k || !bankOk s s.issue.agent (b.1.toNat / 2 ^ 18) then .error (s.cause 0x0A 0 b.1) else .ok k

/-- The cells of a granule. -/
def granuleCells (key : Nat) : List (Nat × Nat × Byte) := (List.range 16).map fun o => (padVa (key + o), key + o, 0)

/-- The tag of a granule is set (R278). -/
def makeLive (key : Nat) (s : State) : State := { s with bars := insertUp (key / 16) s.bars }

/-- A signal on its way when granules are retired: a BARA's arrival at one of them will be refused (R280). -/
def Signal.retired (gone : Nat → Bool) : Signal → Signal
  | .barrier w o key u r => .barrier w o (if gone (key / 16) then 0 else key) u r
  | .flag w o log a f n => .flag w o log a f n
  | .slot w core cmd x n => .slot w core cmd x n
  | .remote w o dev v f cmd => .remote w o dev v f cmd
  | .inval o dev => .inval o dev

/-- The tags of granules are cleared (R278). A BARW that has met its block at one of them raises 0x0A when its bundle is next evaluated
(R23, R280). -/
def retire (gone : Nat → Bool) (s : State) : State :=
  { s with
    dev := { s.dev with signals := s.dev.signals.map (Signal.retired gone) }
    bars := s.bars.filter fun g => !gone g
    ctxs := s.ctxs.map fun x =>
      match x.2.barw.find? fun b => b.2.any fun v => gone (v.1 / 16) && s.bars.contains (v.1 / 16) with
      | some (slot, some v) => (x.1, { x.2 with answer := some { cause := 0x0A, slot := slot, faddr := .ofNat 64 (v.1 % 2 ^ 22) } })
      | _ => x }

/-- The class of an access in the barrier instructions. -/
def barCls (h : MHead) (s : State) : BitVec 4 := h.cls.getD s.issue.clsdef

/-- A barrier instruction that performs at its issue: the accesses that must come first perform, or it waits for them (R159, R161). -/
def barNow (h : MHead) (key : Nat) (s : State) (k : State → Res) : Res :=
  let b := plainLater (barCls h s) (granuleCells key)
  let s := inOrder b s
  match heldBy b s with
  | id :: ids => .block (.order (id :: ids))
  | [] => k (useBanks s.issue.agent [key] s)

/-- BARI (R280). -/
def execBari (h : MHead) (src base : SCode) (ofs : BitVec 14) (s : State) : Host.Outcome State Fault Refusal :=
  runOp (.bari h src base ofs) (fun t =>
    let b := barrierAt base ofs t
    match b.2 with
    | .error x => .trap x
    | .ok k =>
      if t.live k then .trap (t.cause 0x0E 0 b.1)
      else if !bankOk t t.issue.agent (b.1.toNat / 2 ^ 18) then .trap (t.cause 0x0A 0 b.1)
      else
        let v := t.sc src
        let w := pack [(32, v.toNat % 2 ^ 32), (64, 0), (16, v.toNat / 2 ^ 32 % 2 ^ 16), (16, 0)]
        barNow h k t fun t => .ok (makeLive k (t.writeLE k 16 w))) s

/-- BARA (R280): the arrival is a release over all classes; the old generation lands at issue + 12. Until it arrives it is an access of its
agent that has not performed. A bank on a core in reset raises 0x24 (R296). -/
def execBara (h : MHead) (src base : SCode) (rd : BitVec 5) (ofs : BitVec 14) (s : State) : Host.Outcome State Fault Refusal :=
  runOp (.bara h src base rd ofs) (fun t =>
    let b := barrierAt base ofs t
    match b.2 with
    | .error x => .trap x
    | .ok _ =>
      if inReset t (clusterOf t.issue.agent * 8 + b.1.toNat / 2 ^ 19) then .trap (t.cause 0x24 0 b.1)
      else match liveBarrier base ofs t with
        | .error x => .trap x
        | .ok k =>
          let id := t.free
          let cls := some (barCls h t)
          let waits := releaseWaits h.scope.toNat cls (granuleCells k) t
          let u := slotTag (.bara h src base rd ofs) t
          (putRec 12 (t.destS u rd) (BitVec.allOnes 2048) 0 0 false (noteTag 0 rd.toNat u t)).bind fun q =>
            .ok (sendSignal (.barrier waits (some id) k ((t.sc src).toNat % 2 ^ 32) id)
              (q.modMe (Ctx.addPend (.access id cls h.scope.toNat true t.me.ctl.asid (granuleCells k) .away))))) s

/-- BARW (R280): the value compared is captured at the first block, for each slot that holds one. -/
def execBarw (h : MHead) (src base : SCode) (ofs : BitVec 14) (s : State) : Host.Outcome State Fault Refusal :=
  runOp (.barw h src base ofs) (fun t =>
    match liveBarrier base ofs t with
    | .error x => .trap x
    | .ok k =>
      let g := match mget none t.me.barw t.issue.slot with | some (_, g) => g | none => (t.sc src).setWidth 32
      barNow h k t fun t =>
        if barGen t k = g.toNat then .block (.bar t.issue.slot k g)
        else .ok (t.modMe fun c => { c with barw := mset none c.barw t.issue.slot none })) s

/-- BARX (R280). -/
def execBarx (h : MHead) (base : SCode) (rd : BitVec 5) (ofs : BitVec 14) (s : State) : Host.Outcome State Fault Refusal :=
  runOp (.barx h base rd ofs) (fun t =>
    match liveBarrier base ofs t with
    | .error x => .trap x
    | .ok k =>
      let u := slotTag (.barx h base rd ofs) t
      barNow h k t fun t => putS u 12 rd (.ofNat 64 (barGen t k)) (retire (· == k / 16) t)) s

end Sys2Proof.Machine
end

