-- ==== Sys2Proof/Machine/Sync.lean ====
section
/-! DEFINITION. Machine/Sync.lean: the sync slot (R288-R296): FWAIT, FPOST, FPOSTR and KWAIT. -/

namespace Sys2Proof.Machine

/-- NOP.Y (R53). -/
def execNopY (s : State) : Host.Outcome State Fault Refusal := runOp .nopY .ok s

/-- FWAIT (R292): the count is consumed in one step. -/
def execFwait (f : BitVec 4) (n : BitVec 8) (s : State) : Host.Outcome State Fault Refusal :=
  runOp (.fwait f n) (fun t =>
    let v := mget 0 t.me.flags f.toNat
    if v.toNat < n.toNat then .block (.flag f.toNat n.toNat)
    else .ok (t.modMe fun c => { c with flags := mset 0 c.flags f.toNat (v - n.setWidth 32) })) s

/-- A post leaves its agent: a release over all classes at a scope (R157), which is an access that has not performed until it arrives. -/
def sendPost (scope : Nat) (g : List Nat → Option Nat → Signal) (s : State) : State :=
  let waits := releaseWaits scope none [] s
  sendSignal (g waits (some s.free)) (s.tick.modMe (Ctx.addPend (.access s.free none scope true s.me.ctl.asid [] .away)))

/-- FPOST (R293): a release over all classes at `.core`. -/
def execFpost (f : BitVec 4) (self : Bool) (ctx : BitVec 2) (n : BitVec 5) (s : State) : Host.Outcome State Fault Refusal :=
  runOp (.fpost f self ctx n) (fun t =>
    let a := t.issue.agent
    let target := if self then a else 4 * coreOf a + ctx.toNat
    if !self && !takesPosts t target then .trap (t.cause 0x0A 0 0)
    else .ok (sendPost 1 (fun w o => .flag w o false target f.toNat n.toNat) t)) s

/-- The value of FPOSTR is malformed (R294). -/
def postValueBad (v : W64) : Bool :=
  v.toNat / 2 ^ 51 != 0 || v.toNat / 2 ^ 11 % 32 != 0 || v.toNat / 2 ^ 16 % 2 ^ 16 == 0

/-- FPOSTR (R294, R416): a release over all classes at `.dev`, or at `.sys`. -/
def execFpostr (f : BitVec 4) (x : SCode) (s : State) : Host.Outcome State Fault Refusal :=
  runOp (.fpostr f x) (fun t =>
    let v := t.sc x
    let dev := v.toNat / 2 ^ 32 % 2 ^ 18
    let scope := if v.getLsbD 50 then 4 else 3
    if postValueBad v then .trap (t.cause 0x0A 0 v)
    else if v.getLsbD 50 && dev != t.dev.devno.toNat then .ok (sendPost scope (fun w o => .remote w o dev v f.toNat none) t)
    else .ok (sendPost scope (fun w o => .flag w o true (v.toNat % 2 ^ 11) f.toNat (v.toNat / 2 ^ 16 % 2 ^ 16)) t)) s

/-- KWAIT (R288, R289). -/
def execKwait (nt : Bool) (k : BitVec 5) (s : State) : Host.Outcome State Fault Refusal :=
  runOp (.kwait nt k) (fun t =>
    let x := mget ({} : Token) t.me.toks k.toNat
    if x.pend ≠ 0 then .block (.token k.toNat)
    else if x.err && !nt then .trap { t.cause x.cause.toNat 0 x.eaddr with tok := some k }
    else .ok t) s

end Sys2Proof.Machine
end

