-- ==== Sys2Proof/Machine/Copy.lean ====
section
/-! DEFINITION. Machine/Copy.lean: the Ochre copy engine (R265-R276): COPY, RLAY, STAGE, and the start and completion of their
commands. A copy checks its descriptor at its start and moves its elements, in loop order, at its completion (log 9). -/

namespace Sys2Proof.Machine

/-! Issue. -/

/-- A command is an entry of a release list (R275): a STAGE's own command has aux 0, entry i has aux i + 1. -/
def isEntry (m : Cmd) : Bool := (match m.op with | .stage .. => true | _ => false) && decide (0 < m.aux)

/-- The release list of an agent (R276): the released entries that have not started. -/
def releaseList (c : Core) (a : Nat) : List Cmd := c.cmds.filter fun m => isEntry m && m.agent == a && !m.started

/-- COPY (R265): a nonempty release list blocks as a full queue does (R276). -/
def execCopy (k : Tok) (desc soff doff : SCode) (s : State) : Host.Outcome State Fault Refusal :=
  let i := Instr.copy k desc soff doff
  runOp i (fun t =>
    let a := t.sc desc
    if a.toNat % 64 ≠ 0 then .trap (t.cause 0x0D 0 a)
    else if !(releaseList (t.core (coreOf t.issue.agent)) t.issue.agent).isEmpty then .block (.queue 7)
    else sendCmd i k (slotTag i t) (fun c => { c with caps := [a, t.sc soff, t.sc doff] }) t) s

/-- π of RLAY (R271). -/
def permAt (p : W64) (d : Nat) : Nat := p.toNat / 2 ^ (3 * d) % 8

/-- The checks of RLAY at issue (R110, R273). -/
def rlayTrap (es ed : BitVec 1024) (p : W64) (s : State) : Option Trap :=
  let n := tiDim ed
  let sound := fun e => [1, 2].contains (tiKind e) && tiSound e
  if !sound es || !sound ed || tiDim es != n then some (s.cause 0x18)
  else if (List.range n).any (fun d => !((List.range n).map (permAt p)).contains d) || (List.range 6).any (fun d => decide (n ≤ d) && permAt p d != 0) ||
      (List.range n).any (fun d => tiExt ed d != tiExt es (permAt p d)) then some (s.cause 0x18)
  else if tiFmt es == 13 || tiFmt ed == 13 || cutsRecord es (tiExt es 0) || cutsRecord ed (tiExt ed 0) then some (s.cause 0x0F)
  else none

/-- RLAY (R271-R273). -/
def execRlay (k : Tok) (tis tid : BitVec 6) (sb db prm : SCode) (rm : BitVec 2) (sat : Bool) (s : State) :
    Host.Outcome State Fault Refusal :=
  let i := Instr.rlay k tis tid sb db prm rm sat
  runOp i (fun t =>
    let es := tiOf t t.issue.agent tis.toNat
    let ed := tiOf t t.issue.agent tid.toNat
    let p := t.sc prm
    match rlayTrap es ed p t with
    | some x => .trap x
    | none => sendCmd i k (slotTag i t)
        (fun c => { c with caps := [t.sc sb, t.sc db, p], ti := es, vecs := [ed.setWidth 2048] }) t) s

/-- Add to the commands outstanding of an instance (R275). -/
def addPend (a : Nat) (out : Option (Nat × Nat)) (n : Nat) (s : State) : State :=
  match out with
  | none => s
  | some (k, i) => s.modCtx a fun c =>
      let now : Token := mget {} c.toks k
      let old : Token := mget {} c.past i
      if now.inst = i ∧ now.pend ≠ 0 then { c with toks := mset {} c.toks k { now with pend := now.pend + n } }
      else { c with past := mset {} c.past i { old with pend := old.pend + n } }

/-- STAGE releases entries (R275): those from SCNT to min(SCNT + N, SLEN) - 1 join the release list, each a command of the
instance; the first carries a 1 that frees it from SEQ. -/
def releaseEntries (core : Nat) (m : Cmd) (n : Nat) (s : State) : State :=
  let q := (s.ctx m.agent).sched
  let last := Nat.min (q.scnt + n) q.slen
  if last ≤ q.scnt then endCmd core m none s
  else
    let mk := fun (j : Nat) => { m with
      id := s.free + j, aux := q.scnt + j + 1, deps := [], started := false
      caps := [q.base + .ofNat 64 (128 * (q.scnt + j)), m.cap 0, m.cap 1, if j = 0 then 1 else 0] }
    let s := addPend m.agent m.out (last - q.scnt - 1) s
    let s := s.modCtx m.agent fun c => { c with sched := { c.sched with scnt := last } }
    let s := s.modCore core fun c =>
      { c with cmds := (c.cmds.filter fun x => x.id != m.id) ++ (List.range (last - q.scnt)).map mk }
    { s with free := s.free + (last - q.scnt) }

/-- A STAGE whose consumed tokens have completed releases its entries (R275), or ends with their error (R284). -/
def stageStart (core : Nat) (m : Cmd) (s : State) : State :=
  match m.op with
  | .stage _ n _ _ => startCmd core m (releaseEntries core m n.toNat) s
  | _ => s

/-- STAGE (R275): it never blocks; with nothing to wait for it releases at once. -/
def execStage (k : Tok) (n : BitVec 9) (soff doff : SCode) (s : State) : Host.Outcome State Fault Refusal :=
  let i := Instr.stage k n soff doff
  runOp i (fun t =>
    (sendCmd i k (slotTag i t) (fun c => { c with caps := [t.sc soff, t.sc doff] }) t).bind fun q =>
      let core := coreOf q.issue.agent
      match (q.core core).cmds.getLast? with
      | some m => .ok (if mayStart q m then stageStart core m q else q)
      | none => .ok q) s

/-! The descriptor (R266, R268). -/

/-- A field of CTL. -/
def ctlBits (d : List Byte) (lo n : Nat) : Nat := numAt d 0 8 / 2 ^ lo % 2 ^ n
/-- e: the bytes of an element. -/
def cdSize (d : List Byte) : Nat := 2 ^ ctlBits d 0 4
/-- NDIM. -/
def cdDim (d : List Byte) : Nat := ctlBits d 4 3
/-- SSP. -/
def cdSsp (d : List Byte) : Bool := ctlBits d 8 1 == 1
/-- DSP. -/
def cdDsp (d : List Byte) : Bool := ctlBits d 9 1 == 1
/-- CMPL. -/
def cdCmpl (d : List Byte) : Nat := ctlBits d 11 3
/-- CARG. -/
def cdArg (d : List Byte) : Nat := numAt d 0x18 8
/-- EXT[k]. -/
def cdExt (d : List Byte) (k : Nat) : Nat := numAt d (0x20 + 4 * k) 4
/-- SSTR[k]. -/
def cdSstr (d : List Byte) (k : Nat) : Int := sext 32 (numAt d (0x40 + 4 * k) 4)
/-- DSTR[k]. -/
def cdDstr (d : List Byte) (k : Nat) : Int := sext 32 (numAt d (0x58 + 4 * k) 4)
/-- Elements of a copy: the product of the extents below NDIM. -/
def cdCount (d : List Byte) : Nat := (List.range (cdDim d)).foldl (fun n k => n * cdExt d k) 1

/-- A reserved value or a nonzero must-be-zero field (R266, R270); SEQ is legal in an entry alone. -/
def cdReserved (entry : Bool) (d : List Byte) : Bool :=
  let c := cdCmpl d
  let n := cdDim d
  let post := c == 2 || c == 3
  decide (8 < ctlBits d 0 4) || n == 0 || n == 7 || decide (4 < c) || ctlBits d 26 22 != 0 ||
    (!cdDsp d && ctlBits d 18 8 != 0) || (post == (ctlBits d 48 16 == 0)) || (!post && ctlBits d 14 4 != 0) ||
    (!entry && ctlBits d 7 1 == 1) || numAt d 0x38 8 != 0 || numAt d 0x70 16 != 0 ||
    (List.range 6).any (fun k => decide (n ≤ k) && (cdExt d k != 0 || cdSstr d k != 0 || cdDstr d k != 0)) ||
    ((c == 0 || c == 2) && cdArg d != 0) || (c == 3 && decide (2 ^ 11 ≤ cdArg d)) || (c == 4 && decide (2 ^ 14 ≤ cdArg d))

/-- The checks at a copy's start, after its descriptor has been read at address `at'` (R268): the cause and the address. -/
def cdTrap (entry : Bool) (at' soff doff : W64) (d : List Byte) : Option (BitVec 8 × W64) :=
  let src := BitVec.ofNat 64 (numAt d 8 8) + soff
  let dst := BitVec.ofNat 64 (numAt d 0x10 8) + doff
  let al := Nat.min (cdSize d) 8
  let carg := BitVec.ofNat 64 (cdArg d)
  if cdReserved entry d then some (0x0F, at')
  else if src.toNat % al != 0 || (List.range 6).any (fun k => cdSstr d k % al != 0) then some (0x0D, src)
  else if dst.toNat % al != 0 || (List.range 6).any (fun k => cdDstr d k % al != 0) then some (0x0D, dst)
  else if cdSsp d && decide (2 ^ 22 ≤ src.toNat) then some (0x0A, src)
  else if cdDsp d && decide (2 ^ 22 ≤ dst.toNat) then some (0x0A, dst)
  else if cdCmpl d == 1 && decide (2 ^ 22 ≤ cdArg d) then some (0x0A, carg)
  else if cdCmpl d == 1 && cdArg d % 16 != 0 then some (0x0D, carg)
  else none

/-- A copy's start: it reads and checks its descriptor (R267, R268), which its command keeps. -/
def copyStart (core : Nat) (m : Cmd) (s : State) : State :=
  let s := afterFences m s
  match engRead m false (m.cap 0) 128 s with
  | .error e => endCmd core m (some e) s
  | .ok (d, s) =>
    match cdTrap (isEntry m) (m.cap 0) (m.cap 1) (m.cap 2) d with
    | some e => endCmd core m (some e) s
    | none => modCmd core m.id (fun x => { x with started := true, vecs := [.ofNat 2048 (leNat d)] }) s

/-- RLAY's start: its bases (R268, R273). -/
def rlayStart (core : Nat) (m : Cmd) (s : State) : State :=
  let bad := fun (e : BitVec 1024) (b : W64) =>
    let a := BitVec.ofNat 64 (tiBase e) + b
    if tiKind e == 1 && !nibble (tiFmt e) && a.toNat % Nat.min (fmtBytes (tiFmt e)) 8 != 0 then some ((0x0D, a) : BitVec 8 × W64)
    else if tiPad e && decide (2 ^ 22 ≤ a.toNat) then some (0x0A, a) else none
  let ed : BitVec 1024 := (m.vecs.getD 0 0).setWidth 1024
  match (bad m.ti (m.cap 0)).orElse fun _ => bad ed (m.cap 1) with
  | some e => endCmd core m (some e) s
  | none => modCmd core m.id (fun x => { x with started := true }) (afterFences m s)

/-- The copies that run on a core (R269). -/
def runningCopies (c : Core) : List Cmd := c.cmds.filter fun m => (unitOf m.op == 3 || isEntry m) && m.started

/-- A command starts, or ends with the error of a consumed token (R284). -/
def startOr (core : Nat) (m : Cmd) (k : State → State) (s : State) : State :=
  match m.depErr with
  | some e => endCmd core m (some e) s
  | none => k s

/-- COPY_COMMAND_START (R268, R269): eight commands run at once at most. -/
def execCopyCommandStart (core : Nat) (s : State) : Host.Outcome State Fault Refusal :=
  if 8 ≤ (runningCopies (s.core core)).length then .next s else
  match nextIn s core 3 with
  | none => .next s
  | some m => .next (startOr core m (match m.op with | .rlay .. => rlayStart core m | _ => copyStart core m) s)

/-- An entry with SEQ waits for the entry before it to complete, unless its STAGE released it first (R275). -/
def seqHeld (c : Core) (m : Cmd) (s : State) : Bool :=
  let seq := match engReadN m false (m.cap 0) 8 s with | .ok (v, _) => v / 2 ^ 7 % 2 == 1 | .error _ => false
  seq && m.cap 3 == 0 && c.cmds.any fun x => isEntry x && x.agent == m.agent && x.aux == m.aux - 1

/-- The next entry that may start: each context's entries start in index order (R275). -/
def nextEntry (core : Nat) (s : State) : Option Cmd :=
  let c := s.core core
  c.cmds.find? fun m => isEntry m && !m.started && (releaseList c m.agent).head?.any (fun x => x.id == m.id) && !seqHeld c m s

/-- SCHEDULE_ENTRY_START (R275): a STAGE whose tokens have completed releases its entries, else a released entry starts. -/
def execScheduleEntryStart (core : Nat) (s : State) : Host.Outcome State Fault Refusal :=
  match (s.core core).cmds.find? fun m => (match m.op with | .stage .. => m.aux == 0 | _ => false) && mayStart s m with
  | some m => .next (stageStart core m s)
  | none =>
    if 8 ≤ (runningCopies (s.core core)).length then .next s else
    match nextEntry core s with
    | none => .next s
    | some m => .next (copyStart core m s)

/-! The element loop (R267). -/

/-- The offset of element t: the sum of x[k] times a stride, dimension 0 innermost. -/
def loopOffset (ext : Nat → Nat) (str : Nat → Int) : Nat → Nat → Nat → Int
  | 0, _, _ => 0
  | n + 1, k, t => (t % ext k : Nat) * str k + loopOffset ext str n (k + 1) (t / ext k)

/-- The scratchpad addresses that an element is written at: its own, and the same offset in the cores of MCAST (R266). -/
def castTo (d : List Byte) (b : W64) : List W64 :=
  b :: ((List.range 8).filter fun c => cdDsp d && (ctlBits d 18 8).testBit c && decide (b.toNat % 2 ^ 22 / 2 ^ 19 ≠ c)).map fun c =>
    .ofNat 64 (c * 2 ^ 19 + b.toNat % 2 ^ 19)

/-- Write bytes at each of a list of addresses; where one fails, it and those after it hold old or new bytes (R268). -/
def writeAll (m : Cmd) (sp : Bool) (bs : List Byte) : List W64 → State → State × Option (BitVec 8 × W64)
  | [], s => (s, none)
  | a :: r, s =>
    match engWrite m sp a bs s with
    | .ok (_, s) => writeAll m sp bs r s
    | .error e => ((a :: r).foldl (fun s a => (engPart m sp a bs s).tick) s, some e)

/-- The elements from t on: a failing one stops the loop (R268). -/
def copyLoop (m : Cmd) (d : List Byte) (src dst : W64) : Nat → Nat → State → State × Option (BitVec 8 × W64)
  | 0, _, s => (s, none)
  | n + 1, t, s =>
    let a := src + .ofInt 64 (loopOffset (cdExt d) (cdSstr d) (cdDim d) 0 t)
    let b := dst + .ofInt 64 (loopOffset (cdExt d) (cdDstr d) (cdDim d) 0 t)
    match engRead m (cdSsp d) a (cdSize d) s with
    | .error e => (s, some e)
    | .ok (bs, s) =>
      match writeAll m (cdDsp d) bs (castTo d b) s with
      | (s, some e) => (s, some e)
      | (s, none) => copyLoop m d src dst n (t + 1) s

/-- The completion of a copy (R270): the cause of a refusal, if any, and the state. -/
def copyCompletion (m : Cmd) (d : List Byte) (s : State) : Option Nat × State :=
  let a := cdArg d
  let post := fun (t : Nat) => match postFlag t (ctlBits d 14 4) (ctlBits d 48 16) s with | .ok s => (none, s) | .error c => (some c, s)
  match cdCmpl d with
  | 1 =>
    let key := padKey (clusterOf m.agent) a
    if inReset s (clusterOf m.agent * 8 + a / 2 ^ 19) then (some 0x24, s)
    else if !bankOk s m.agent (a / 2 ^ 18) || !s.live key then (some 0x0A, s)
    else (none, (arrive key (cdSize d * cdCount d) s).2)
  | 2 => post m.agent
  | 3 => post a
  | 4 => decrement m.agent a 1 s
  | _ => (none, s)

/-- Copy elements, completion, token (R267, R270). -/
def copyEnd (core : Nat) (m : Cmd) (s : State) : State :=
  let d := leBytes 128 (m.vecs.getD 0 0).toNat
  let r := copyLoop m d (.ofNat 64 (numAt d 8 8) + m.cap 1) (.ofNat 64 (numAt d 0x10 8) + m.cap 2) (cdCount d) 0 s
  match r.2 with
  | some e => endCmd core m (some e) r.1
  | none =>
    let q := copyCompletion m d r.1
    endCmd core m (q.1.map fun c => (.ofNat 8 c, if cdCmpl d = 1 then .ofNat 64 (cdArg d) else 0)) q.2

/-! RLAY (R272). -/

/-- A magnitude n / d of a sign, rounded to an integer by a mode (R111). -/
def roundInt (mode : Nat) (neg : Bool) (n d : Nat) : Int :=
  let q := n / d
  let r := n % d
  let up := r != 0 && !towardZero mode neg && (mode != 0 || decide (d < 2 * r) || (d == 2 * r && q % 2 == 1))
  let m : Int := (if up then q + 1 else q : Nat)
  if neg then -m else m

/-- The code of an exact value in a format (R272), rounded first: between integer formats a value that does not fit keeps its low bits, or is
clamped under `.sat` (R112). -/
def layCode (src dst mode : Nat) (sat : Bool) (v : Num) : Nat :=
  match v with
  | .fin neg n d =>
    if isIntFmt src && isIntFmt dst && !sat then wrap (fmtWidth dst) (roundInt mode neg n d) else (roundTo dst mode sat none false v).1
  | _ => (roundTo dst mode sat none false v).1

/-- The index tuple of element t, dimension 0 innermost. -/
def tupleAt (ext : Nat → Nat) : Nat → Nat → Nat → List Nat
  | 0, _, _ => []
  | n + 1, k, t => t % ext k :: tupleAt ext n (k + 1) (t / ext k)

/-- The source index of a destination index: x[π(d)] = y[d]. -/
def sourceIndex (n : Nat) (p : W64) (y : List Nat) : List Nat :=
  (List.range n).map fun q => y.getD ((List.range n).findIdx fun d => permAt p d == q) 0

/-- Write a nibble of a byte. -/
def writeNibble (m : Cmd) (sp : Bool) (a : W64) (high : Bool) (v : Nat) (s : State) : State × Option (BitVec 8 × W64) :=
  match engKeys m sp .write a 1 s with
  | .error e => (s, some e)
  | .ok (ks, s) =>
    let old := leNat (bytesAt ks s)
    writeAll m sp [.ofNat 8 (if high then old % 16 + 16 * v else old / 16 * 16 + v)] [a] s

/-- One destination element, or one record, from its values. -/
def writeLay (m : Cmd) (e : BitVec 1024) (srcFmt mode : Nat) (sat : Bool) (y : List Nat) (vs : List Num) (s : State) : State × Option (BitVec 8 × W64) :=
  let a := tiAddr e (m.cap 1) y
  if tiIsRec e then
    let b := packBlock (tiRec e) mode vs (vs.map fun _ => none)
    writeAll m (tiPad e) (leBytes (recSize (tiRec e)) (recordBits (tiRec e) b.1 (b.2.map Prod.fst))) [a] s
  else
    let c := layCode srcFmt (tiFmt e) mode sat (scaleNum (vs.getD 0 (.fin false 0 1)) (-tiScale e))
    if nibble (tiFmt e) then writeNibble m (tiPad e) a (y.getD 0 0 % 2 == 1) c s
    else writeAll m (tiPad e) (leBytes (fmtBytes (tiFmt e)) c) [a] s

/-- The source values of a run of destination indexes along dimension 0. -/
def layRead (m : Cmd) (es : BitVec 1024) (n : Nat) (p : W64) (y : List Nat) : List Nat → State → Eng (List Num)
  | [], s => .ok ([], s)
  | j :: js, s =>
    (tiRead m es (m.cap 0) (sourceIndex n p ((y.getD 0 0 + j) :: y.drop 1)) s).next fun c s =>
      (layRead m es n p y js s).next fun r s => .ok (tiValue es c :: r, s)

/-- The destination elements, or records, from t on (R272). -/
def layLoop (m : Cmd) (es ed : BitVec 1024) (p : W64) (mode : Nat) (sat : Bool) (w : Nat) : Nat → Nat → State → State × Option (BitVec 8 × W64)
  | 0, _, s => (s, none)
  | n + 1, t, s =>
    let y := tupleAt (tiExt ed) (tiDim ed) 0 (t * w)
    match layRead m es (tiDim ed) p y (List.range w) s with
    | .error e => (s, some e)
    | .ok (vs, s) =>
      match writeLay m ed (tiFmt es) mode sat y vs s with
      | (s, some e) => (s, some e)
      | (s, none) => layLoop m es ed p mode sat w n (t + 1) s

/-- RLAY's elements, then its token (R272). -/
def rlayEnd (core : Nat) (m : Cmd) (rm : BitVec 2) (sat : Bool) (s : State) : State :=
  let ed : BitVec 1024 := (m.vecs.getD 0 0).setWidth 1024
  let w := if tiIsRec ed then 32 else 1
  let n := (List.range (tiDim ed)).foldl (fun n d => n * tiExt ed d) 1
  let r := layLoop m m.ti ed (m.cap 2) rm.toNat sat w (n / w) 0 s
  endCmd core m r.2 r.1

/-- COPY_COMPLETE (R267, R270, R272): a running command moves its elements and completes. -/
def execCopyComplete (core id : Nat) (s : State) : Host.Outcome State Fault Refusal :=
  match (runningCopies (s.core core)).find? fun m => m.id == id with
  | none => .next s
  | some m =>
    match m.op with
    | .rlay _ _ _ _ _ _ rm sat => .next (rlayEnd core m rm sat s)
    | _ => .next (copyEnd core m s)

end Sys2Proof.Machine
end

