-- ==== Sys2Proof/Machine/Merge.lean ====
section
/-! DEFINITION. Machine/Merge.lean: the merge-and-access queue (R300): ASTART (R299-R303), MGSET, MGPUSH and MGFIN, and the Madder merge
network of a cluster (R314-R322). -/

namespace Sys2Proof.Machine

/-! The access processor (R299-R301). -/

/-- ASTART (R300). -/
def execAstart (k : Tok) (entry arg : SCode) (s : State) : Host.Outcome State Fault Refusal :=
  let i := Instr.astart k entry arg
  runOp i (fun t =>
    let e := t.sc entry
    if e.toNat % 4 ≠ 0 then .trap (t.cause 0x0D 0 e)
    else sendCmd i k (slotTag i t) (fun c => { c with caps := [e, t.sc arg] }) t) s

/-- ASTART.post (R300, R301): a release over all classes at `.core`. -/
def execAstartPost (k : Tok) (flag : BitVec 4) (n : BitVec 8) (s : State) : Host.Outcome State Fault Refusal :=
  let i := Instr.astartPost k flag n
  runOp i (fun t => sendCmd i k (slotTag i t) (fun c => { c with waits := releaseWaits 1 none [] t }) t) s

/-- The commands of the merge-and-access queue of a core that may start: ready, and first of their context (R300). -/
def startable (core : Nat) (s : State) : List Cmd :=
  let w := waitingIn (s.core core) 4
  w.filter fun m => mayStart s m && (w.find? fun x => x.agent == m.agent).any fun x => x.id == m.id

/-- The state in which an access program begins (R300). The accesses of an earlier program that have not performed stay (R302). -/
def programCtx (m : Cmd) (before : Ctx) : Ctx :=
  { mode := .ready, pc := m.cap 0, ctl := { asid := m.asid }
    regs := { s := mset 0 (mset 0 [] 1 (m.cap 1)) 2 (.ofNat 64 m.agent) }
    order := before.order }

/-- A start-form ASTART. -/
def isStart (m : Cmd) : Bool := match m.op with | .astart .. => true | _ => false

/-- The started ASTART commands of a core whose program has not begun (R300). -/
def waitingStarts (core : Nat) (s : State) : List Cmd :=
  (s.core core).cmds.filter fun m => isStart m && m.started && (programOf s m.agent).map Prod.fst != some m.id

/-- The started posts of a core whose program has begun, or has ended (R301). -/
def readyPosts (core : Nat) (s : State) : List Cmd :=
  (s.core core).cmds.filter fun m => isAstart m.op && !isStart m && m.started && !(waitingStarts core s).any fun x => x.agent == m.agent && decide (x.id < m.id)

/-- Add a post to the flag of a program (R290, R301). -/
def postTo (n f k : Nat) (s : State) : State :=
  let v := (mget 0 (s.ctx n).flags f).toNat + k
  let s := s.modCtx n fun c => { c with flags := mset 0 c.flags f (.ofNat 32 (Nat.min v (2 ^ 32 - 1))) }
  if 2 ^ 32 - 1 < v then traceRec (clusterOf n) 10 8 (ctxNumber n) (.ofNat 64 f) (.ofNat 64 k) s else s

/-- A post reaches the program that its context's latest start-form ASTART began, running or suspended; one that has ended, be it
that a later one has begun, or none, is an error (R301, R303). -/
def postProgram (core : Nat) (m : Cmd) (s : State) : State :=
  match m.op, programOf s m.agent with
  | .astartPost _ f k, some (id, n) =>
    if id < m.id then endCmd core m none (postTo n f.toNat k.toNat s) else endCmd core m (some (0x0A, 0)) s
  | _, _ => endCmd core m (some (0x0A, 0)) s

/-- The contexts of a core whose suspended programs wait for the processor: those restored (R303). -/
def suspended (core : Nat) (s : State) : List (Nat × Nat × Nat) :=
  [4 * core, 4 * core + 1, 4 * core + 2, 4 * core + 3].filterMap fun a =>
    let m := (s.ctx a).mode
    if m == .saving || m == .saved || m == .empty then none else (imageOf s a).prog.map fun p => (a, p)

/-- A suspended program returns to the processor (R172, R303): one whose fault waits for service goes on waiting (R302), under a new record where
the host has answered the old one while the task had no context (log 22). -/
def returnProgram (core a id n : Nat) (s : State) : State :=
  let c := s.ctx n
  let asked := s.dev.services.any fun x => x.program && x.agent == a
  let s := match c.answer with
    | some t => if c.hold = 5 && !asked then postCause a t (finfoOf c.ctl) true (unperformed s n) s else s
    | none => s
  let left := (s.ctx (2048 + core)).order
  let back := { c with mode := if c.answer.isSome then .blocked .walk else .ready, order := { c.order with split := c.order.split ++ left.split } }
  retakeCounters (2048 + core) c.order.pend left.pend (((setImage a none (s.modCore core fun k => { k with access := some (a, id) })).setCtx (2048 + core) back).setCtx n {})

/-- ACCESS_PROGRAM_START (R300, R301, R303): on a free processor, a restored program goes on, or the oldest ASTART that waits begins its
program; else a post is applied, or the next command starts (log 10). -/
def execAccessProgramStart (core : Nat) (s : State) : Host.Outcome State Fault Refusal :=
  let free := (s.core core).access.isNone
  match (if free then suspended core s else []), (if free then waitingStarts core s else []), readyPosts core s with
  | (a, id, n) :: _, _, _ => .next (returnProgram core a id n s)
  | [], m :: _, _ =>
    .next ((s.modCore core fun c => { c with access := some (m.agent, m.id) }).setCtx (2048 + core) (programCtx m (s.ctx (2048 + core))))
  | [], [], m :: _ => .next (postProgram core m s)
  | [], [], [] =>
    match (startable core s).find? fun m => isAstart m.op with
    | none => .next s
    | some m => .next (startCmd core m (afterFences m) s)

/-! Merge instructions (R315-R317). -/

/-- MGSET (R315). -/
def execMgset (k : Tok) (desc tag : SCode) (s : State) : Host.Outcome State Fault Refusal :=
  let i := Instr.mgset k desc tag
  runOp i (fun t =>
    let a := t.sc desc
    if a.toNat % 64 ≠ 0 then .trap (t.cause 0x0D 0 a)
    else sendCmd i k (slotTag i t) (fun c => { c with caps := [a, t.sc tag] }) t) s

/-- MGPUSH (R317): the lanes are captured. -/
def execMgpush (k : Tok) (stream : BitVec 4) (v : BitVec 10) (cnt tag : SCode) (s : State) : Host.Outcome State Fault Refusal :=
  let i := Instr.mgpush k stream v cnt tag
  runOp i (fun t =>
    let reg := fun (j : Nat) => t.vnum t.me (t.physV (tagOfV t.me.flow.lift (v.toNat + j)) (v.toNat + j))
    let n := if cnt = .s 0 then 64 else Nat.min (t.sc cnt).toNat 64
    sendCmd i k (slotTag i t) (fun c => { c with caps := [.ofNat 64 n, t.sc tag], vecs := [reg 0, reg 1, reg 2] }) t) s

/-- MGFIN (R315): its entry is checked by R313. -/
def execMgfin (k : Tok) (ti : BitVec 6) (tag tsk : SCode) (dec : Bool) (s : State) : Host.Outcome State Fault Refusal :=
  let i := Instr.mgfin k ti tag tsk dec
  runOp i (fun t =>
    let e := tiOf t t.issue.agent ti.toNat
    if !csrOk e [4, 5] then .trap (t.cause 0x18)
    else sendCmd i k (slotTag i t) (fun c => { c with caps := [t.sc tag, t.sc tsk], ti := e }) t) s

/-! The Madder (R316-R321). -/

/-- The session of a cluster. -/
def sessionOf (s : State) (cl : Nat) : Session := (s.cluster cl).merge
/-- Set it. -/
def setSession (cl : Nat) (x : Session) (s : State) : State := s.modCluster cl fun c => { c with merge := x }

/-- Commands of a cluster's cores with their cores. -/
def clusterCmds (cl : Nat) (f : Nat → List Cmd) : List (Nat × Cmd) :=
  (List.range 8).flatMap fun j => (f (8 * cl + j)).map fun m => (8 * cl + j, m)

/-- The instruction is an MGSET. -/
def isMgset (m : Cmd) : Bool := match m.op with | .mgset .. => true | _ => false
/-- An MGPUSH. -/
def isMgpush (m : Cmd) : Bool := match m.op with | .mgpush .. => true | _ => false
/-- An MGFIN. -/
def isMgfin (m : Cmd) : Bool := match m.op with | .mgfin .. => true | _ => false

/-- A merge descriptor breaks R314 or R316. -/
def mergeBad (d : List Byte) : Bool :=
  let cap := numAt d 0 4
  cap == 0 || decide (65536 < cap) || decide (2 < numAt d 4 1) || numAt d 5 3 != 0 || numAt d 8 8 % 128 != 0 ||
    numAt d 0x10 8 % 128 != 0 || numAt d 0x18 8 % 32 != 0 || numAt d 0x20 32 != 0

/-- The started MGSETs of a cluster, in the order in which they reached the Madder. -/
def waitingSets (cl : Nat) (s : State) : List (Nat × Cmd) :=
  let l := clusterCmds cl fun c => (s.core c).cmds.filter fun m => isMgset m && m.started
  l.mergeSort fun a b => decide (a.2.aux ≤ b.2.aux)

/-- A waiting MGSET opens the session; its context's others, which wait too, end with 0x0A at once (R316). -/
def openSession (cl core : Nat) (m : Cmd) (s : State) : State :=
  match engRead m false (m.cap 0) 64 s with
  | .error e => endCmd core m (some e) s
  | .ok (d, s) =>
    if mergeBad d then endCmd core m (some (0x0F, m.cap 0)) s
    else
      let s := endCmd core m none
        (setSession cl { opened := true, tag := (m.cap 1).setWidth 16, owner := m.agent, asid := m.asid, desc := d } s)
      ((waitingSets cl s).filter fun x => x.2.agent == m.agent).foldl (fun s x => endCmd x.1 x.2 (some (0x0A, 0)) s) s

/-- MGSET_OPEN (R316): the MGSET that reached the Madder first opens its session when none is open; else one reaches it. -/
def execMgsetOpen (cluster : Nat) (s : State) : Host.Outcome State Fault Refusal :=
  let x := sessionOf s cluster
  match (if x.opened then none else (waitingSets cluster s).head?) with
  | some (core, m) => .next (openSession cluster core m s)
  | none =>
    match pickOne (clusterCmds cluster fun c => (startable c s).filter isMgset) s with
    | none => .next s
    | some (core, m) =>
      match m.depErr with
      | some e => .next (endCmd core m (some e) s)
      | none =>
        if x.opened && x.owner == m.agent then .next (endCmd core m (some (0x0A, 0)) s.tick)
        else .next (modCmd core m.id (fun c => { c with started := true, aux := s.free }) (afterFences m s)).tick

/-- The combining operation of a policy on F32 codes (R318). -/
def mergeComb (pol u v : Nat) : Nat :=
  match pol with | 0 => scatComb true 4 u v | 1 => (elPick true 0 u v).1 | _ => v

/-- An entry's place in the order (row, column, stream). -/
def entryLe (a b : Nat × Nat × Nat × Nat) : Bool :=
  decide (a.1 < b.1) || (a.1 == b.1 && (decide (a.2.1 < b.2.1) || (a.2.1 == b.2.1 && decide (a.2.2.1 ≤ b.2.2.1))))

/-- The bytes of a run (R318): the header, the entries, the padding. -/
def runBytes (index : Nat) (es : List (Nat × Nat × Nat × Nat)) : List Byte :=
  let b := leBytes 4 es.length ++ leBytes 4 index ++ leBytes 8 0 ++
    es.flatMap fun e => leBytes 4 (e.1 + 2 ^ 28 * e.2.2.1) ++ leBytes 4 e.2.1 ++ leBytes 4 e.2.2.2
  b ++ List.replicate ((128 - b.length % 128) % 128) 0

/-- The Madder accesses memory for a session as its owner does. -/
def asOwner (x : Session) (m : Cmd) : Cmd := { m with asid := x.asid }

/-- SPILL and SSIZE. -/
def spillBase (x : Session) : W64 := .ofNat 64 (numAt x.desc 8 8)
/-- The bytes of the spill area. -/
def spillSize (x : Session) : Nat := numAt x.desc 0x10 8

/-- The session fails with what stopped an access. -/
def failWith (x : Session) (e : BitVec 8 × W64) : Session := { x with failed := some e.1, faddr := e.2 }

/-- Write a run at the next boundary (R318, R320); the session fails when it does not fit or its write fails. -/
def writeRun (m : Cmd) (index : Nat) (es : List (Nat × Nat × Nat × Nat)) (x : Session) (s : State) : Session × State :=
  let b := runBytes index es
  if spillSize x < x.ends + b.length then ({ x with failed := some 0x14, faddr := 0 }, s)
  else
    match engWrite (asOwner x m) false (spillBase x + .ofNat 64 x.ends) b s with
    | .ok (_, s) => ({ x with ends := x.ends + b.length, wrote := x.wrote + 1 }, s)
    | .error e => (failWith x e, engPart (asOwner x m) false (spillBase x + .ofNat 64 x.ends) b s)

/-- spill() (R318). -/
def spillBuffer (m : Cmd) (x : Session) (s : State) : Session × State :=
  let at' := x.ends
  let r := writeRun m x.runs.length (x.buffer.mergeSort entryLe) x s
  if r.1.failed.isSome then r else ({ r.1 with runs := r.1.runs ++ [at'], buffer := [] }, r.2)

/-- The arrival of one entry (R317, R318). -/
def arriveEntry (m : Cmd) (e : Nat × Nat × Nat × Nat) (x : Session) (s : State) : Session × State :=
  let same := fun (h : Nat × Nat × Nat × Nat) => h.1 == e.1 && h.2.1 == e.2.1 && h.2.2.1 == e.2.2.1
  if 2 ^ 28 ≤ e.1 then ({ x with drop := x.drop + 1 }, s)
  else if x.buffer.any same then
    ({ x with buffer := x.buffer.map fun h =>
        if same h then (h.1, h.2.1, h.2.2.1, mergeComb (numAt x.desc 4 1) h.2.2.2 e.2.2.2) else h }, s)
  else
    let r := if x.buffer.length = numAt x.desc 0 4 then spillBuffer m x s else (x, s)
    if r.1.failed.isSome then r else ({ r.1 with buffer := r.1.buffer ++ [e] }, r.2)

/-- The entries of a push in ascending lane order, until the session fails. -/
def arriveAll (m : Cmd) : List (Nat × Nat × Nat × Nat) → Session → State → Session × State
  | [], x, s => (x, s)
  | e :: r, x, s =>
    let q := arriveEntry m e x s
    if q.1.failed.isSome then q else arriveAll m r q.1 q.2

/-- The entries of an MGPUSH (R317). -/
def pushEntries (m : Cmd) (stream : Nat) : List (Nat × Nat × Nat × Nat) :=
  (List.range (m.cap 0).toNat).map fun l =>
    (laneN 32 (m.vecs.getD 0 0) l, laneN 32 (m.vecs.getD 1 0) l, stream, laneN 32 (m.vecs.getD 2 0) l)

/-- A command finds the session of its tag, and no MGFIN has started (R322). -/
def tagMatches (x : Session) (tag : W64) : Bool := x.opened && x.fin.isNone && x.tag == tag.setWidth 16

/-- A push at the Madder (R317, R318, R322). -/
def pushHere (cl core : Nat) (m : Cmd) (stream : Nat) (s : State) : State :=
  let x := sessionOf s cl
  if !tagMatches x (m.cap 1) then endCmd core m (some (0x0A, 0)) s
  else match x.failed with
    | some c => endCmd core m (some (c, x.faddr)) s
    | none =>
      let q := arriveAll m (pushEntries m stream) x (afterFences m s)
      endCmd core m (q.1.failed.map fun c => (c, q.1.faddr)) (setSession cl q.1 q.2)

/-- MGPUSH_ARRIVAL (R317): one push reaches the Madder; pushes of different contexts come in any order. -/
def execMgpushArrival (cluster : Nat) (s : State) : Host.Outcome State Fault Refusal :=
  match pickOne (clusterCmds cluster fun c => (startable c s).filter isMgpush) s with
  | none => .next s
  | some (core, m) =>
    match m.op with
    | .mgpush _ q _ _ _ => .next (startOr core m (pushHere cluster core m q.toNat) s.tick)
    | _ => .next s

/-! Closing (R319-R321). -/

/-- Entries of a run from its bytes. -/
def entriesOf (b : List Byte) : Nat → Nat → List (Nat × Nat × Nat × Nat)
  | 0, _ => []
  | n + 1, o =>
    let w := numAt b o 4
    (w % 2 ^ 28, numAt b (o + 4) 4, w / 2 ^ 28, numAt b (o + 8) 4) :: entriesOf b n (o + 12)

/-- Read a run (R318). -/
def readRun (m : Cmd) (x : Session) (at' : Nat) (s : State) : Eng (List (Nat × Nat × Nat × Nat)) :=
  let a := spillBase x + .ofNat 64 at'
  (engReadN (asOwner x m) false a 4 s).next fun n s =>
    (engRead (asOwner x m) false (a + 16) (12 * n) s).next fun b s => .ok (entriesOf b n 0, s)

/-- Read runs, in run order. -/
def readRuns (m : Cmd) (x : Session) : List Nat → State → Eng (List (List (Nat × Nat × Nat × Nat)))
  | [], s => .ok ([], s)
  | a :: r, s => (readRun m x a s).next fun e s => (readRuns m x r s).next fun es s => .ok (e :: es, s)

/-- Sorted entries combined by an equality of keys, in order. -/
def foldKeys (pol : Nat) (same : Nat × Nat × Nat × Nat → Nat × Nat × Nat × Nat → Bool) :
    List (Nat × Nat × Nat × Nat) → List (Nat × Nat × Nat × Nat)
  | [] => []
  | e :: r => r.foldl (fun (acc : List (Nat × Nat × Nat × Nat)) f => match acc with
      | h :: t => if same h f then (h.1, h.2.1, h.2.2.1, mergeComb pol h.2.2.2 f.2.2.2) :: t else f :: h :: t
      | [] => [f]) [e] |>.reverse

/-- The partials p(q) of runs in run order, sorted by (row, column, stream) (R319). -/
def partials (pol : Nat) (runs : List (List (Nat × Nat × Nat × Nat))) : List (Nat × Nat × Nat × Nat) :=
  foldKeys pol (fun a b => a.1 == b.1 && a.2.1 == b.2.1 && a.2.2.1 == b.2.2.1) (runs.flatten.mergeSort entryLe)

/-- The results by key (row, column), over ascending streams (R319). -/
def results (pol : Nat) (ps : List (Nat × Nat × Nat × Nat)) : List (Nat × Nat × Nat × Nat) :=
  foldKeys pol (fun a b => a.1 == b.1 && a.2.1 == b.2.1) ps

/-- The run-overflow protocol in hardware mode (R320): the 64 oldest runs become one, until at most 64 remain, the buffer among
them. The merged run's INDEX is not stated: a free value (log 5). -/
def shrinkRuns (m : Cmd) : Nat → Session → State → Session × State
  | 0, x, s => (x, s)
  | n + 1, x, s =>
    if x.runs.length < 64 || x.failed.isSome then (x, s)
    else
      match readRuns m x (x.runs.take 64) s with
      | .error e => (failWith x e, s)
      | .ok (rs, s) =>
        let at' := x.ends
        let r := writeRun m ((Config.bits s.free).toNat % 2 ^ 32) (partials (numAt x.desc 4 1) rs) x s.tick
        if r.1.failed.isSome then r else shrinkRuns m n { r.1 with runs := at' :: r.1.runs.drop 64 } r.2

/-- Write numbers of n bytes one after another; the address of the first failure. -/
def writeNums (m : Cmd) (sp : Bool) (n : Nat) : List (W64 × Nat) → State → State × Option (BitVec 8 × W64)
  | [], s => (s, none)
  | (a, v) :: r, s =>
    match engWrite m sp a (leBytes n v) s with
    | .ok (_, s) => writeNums m sp n r s
    | .error e => (engPart m sp a (leBytes n v) s, some e)

/-- Write lists of numbers in turn. -/
def writeLists (m : Cmd) (sp : Bool) : List (Nat × List (W64 × Nat)) → State → State × Option (BitVec 8 × W64)
  | [], s => (s, none)
  | (n, l) :: r, s =>
    match writeNums m sp n l s with
    | (s, none) => writeLists m sp r s
    | q => q

/-- Where MGFIN writes the keys: row pointers or row indices, column indices and values (R313, R319). -/
def outputLists (e : BitVec 1024) (ks : List (Nat × Nat × Nat × Nat)) : List (Nat × List (W64 × Nat)) :=
  let at' := fun (b w i : Nat) => BitVec.ofNat 64 (b + w * i)
  let cols := tiKsp e % 2 ^ 64
  let vals := tiKsp e / 2 ^ 64
  let w := fmtBytes (tiFmt e)
  let rows := if tiKind e = 4 then
      (List.range (tiExt e 0 + 1)).map fun r => (at' (tiBase e) 4 r, (ks.filter fun k => decide (k.1 < r)).length)
    else ks.zipIdx.map fun x => (at' (tiBase e) 4 x.2, x.1.1)
  [(4, rows), (4, ks.zipIdx.map fun x => (at' cols 4 x.2, x.1.2.1)),
   (w, ks.zipIdx.map fun x => (at' vals w x.2, (roundTo (tiFmt e) 0 false none false (numOf 0 x.1.2.2.2)).1))]

/-- The result record (R321), written as far as it can be. -/
def writeResult (m : Cmd) (x : Session) (nnz drop status : Nat) (s : State) : State × Option (BitVec 8 × W64) :=
  let a := BitVec.ofNat 64 (numAt x.desc 0x18 8)
  let b := leBytes 8 nnz ++ leBytes 4 x.wrote ++ leBytes 4 drop ++ leBytes 8 x.ends ++ leBytes 8 status
  match engWrite (asOwner x m) false a b s with
  | .ok (_, s) => (s, none)
  | .error e => (engPart (asOwner x m) false a b s, some e)

/-- MGFIN's end (R319): the record, the decrement, the token; the session is closed in every case. `err` is what the output met (log 38). -/
def closeSession (cl core : Nat) (m : Cmd) (dec : Bool) (x : Session) (nnz drop : Nat) (err : Option (BitVec 8 × W64)) (s : State) : State :=
  let q := writeResult m x nnz drop (err.elim 0 fun e => e.1.toNat) s
  let skip := match err with | some e => decide (e.1 ≠ 0x0F) | none => false
  let err := err.orElse fun _ => q.2
  let s := setSession cl {} q.1
  let d := if dec && !skip then decrement m.agent (m.cap 1).toNat 1 s else (none, s)
  endCmd core m (err.orElse fun _ => d.1.map fun c => (.ofNat 8 c, 0)) d.2

/-- The merge and the output of a session whose runs are few enough (R319). A session that has failed writes only its record; its
NNZ is not stated: a free value (log 5). -/
def finishMerge (cl core : Nat) (m : Cmd) (dec : Bool) (x : Session) (s : State) : State :=
  let pol := numAt x.desc 4 1
  let failed := fun (x : Session) (s : State) =>
    closeSession cl core m dec x ((Config.bits s.free).toNat % 2 ^ 64) x.drop (x.failed.map fun c => (c, x.faddr)) s.tick
  if x.failed.isSome then failed x s
  else match readRuns m x x.runs s with
    | .error e => failed (failWith x e) s
    | .ok (rs, s) =>
      let ks := results pol (partials pol (rs ++ [x.buffer]))
      let inside := ks.filter fun k => decide (k.1 < tiExt m.ti 0) && decide (k.2.1 < tiExt m.ti 1)
      let drop := x.drop + (ks.length - inside.length)
      let w := writeLists m (tiPad m.ti) (outputLists m.ti (inside.take (tiExt m.ti 2))) s
      match w.2 with
      | some e => closeSession cl core m dec x inside.length drop (some e) w.1
      | none =>
        closeSession cl core m dec x inside.length drop (if tiExt m.ti 2 < inside.length then some (0x0F, 0) else none) w.1

/-- The runs that a host has rewritten, at successive boundaries from the start of the spill area (R320). -/
def scanRuns (m : Cmd) (x : Session) : Nat → Nat → State → Eng (List Nat)
  | 0, _, s => .ok ([], s)
  | n + 1, at', s =>
    (engReadN (asOwner x m) false (spillBase x + .ofNat 64 at') 4 s).next fun c s =>
      (scanRuns m x n (at' + (16 + 12 * c + 127) / 128 * 128) s).next fun r s => .ok (at' :: r, s)

/-- MGFIN at the Madder (R319, R320): with more than 64 runs, the buffer among them, the service mode decides. The FADDR and FINFO of the
service record are not stated for it: free values (log 5). -/
def mgfinHere (cl core : Nat) (m : Cmd) (dec : Bool) (s : State) : State :=
  let x := sessionOf s cl
  if !tagMatches x (m.cap 0) then endCmd core m (some (0x0A, 0)) s
  else
    let s := afterFences m s
    if x.runs.length < 64 || x.failed.isSome then finishMerge cl core m dec x s
    else if s.dev.svcmode.getLsbD 2 then
      let s := modCmd core m.id (fun c => { c with started := true }) (setSession cl { x with fin := some (core, m.id) } s)
      postService (2048 + cl) 0x14 ((Config.bits s.free).setWidth 64) ((Config.bits (s.free + 1)).setWidth 64)
        (.ofNat 64 x.runs.length) false [] { s with free := s.free + 2 }
    else
      let q := shrinkRuns m x.runs.length x s
      finishMerge cl core m dec q.1 q.2

/-- The host answers a merge overflow with a run count (R320, R417); an answer that leaves too many runs is put to it again. -/
def mergeAnswer (cl : Nat) (count : Nat) (s : State) : State :=
  let x := sessionOf s cl
  match x.fin.bind fun y => (cmdOf s y.1 y.2).map fun m => (y.1, m) with
  | none => s
  | some (core, m) =>
    match m.op with
    | .mgfin _ _ _ _ dec =>
      (match scanRuns m x count 0 s with
       | .error e => finishMerge cl core m dec (failWith x e) s
       | .ok (rs, s) =>
         if rs.length < 64 then finishMerge cl core m dec { x with runs := rs } s
         else mgfinHere cl core m dec (setSession cl { x with runs := rs, fin := none } s))
    | _ => s

/-- MGFIN_CLOSE (R319). -/
def execMgfinClose (cluster : Nat) (s : State) : Host.Outcome State Fault Refusal :=
  match pickOne (clusterCmds cluster fun c => (startable c s).filter isMgfin) s with
  | none => .next s
  | some (core, m) =>
    match m.op with
    | .mgfin _ _ _ _ dec => .next (startOr core m (mgfinHere cluster core m dec) s.tick)
    | _ => .next s

end Sys2Proof.Machine
end

