-- ==== Sys2Proof/Machine/Contract.lean ====
section
/-! DEFINITION. Machine/Contract.lean: CONTRACT (R323-R325): its checks at issue, the microcode that its context then runs, and the contraction,
which takes place as a whole in the last bundle of the microcode; what the microcode leaves open is free (log 15). -/

namespace Sys2Proof.Machine

/-! The parameter block (R323). -/

/-- NIDX. -/
def ctN (b : List Byte) : Nat := numAt b 2 1
/-- ACC. -/
def ctAcc (b : List Byte) : Bool := numAt b 3 1 % 2 == 1
/-- MERGE. -/
def ctMerge (b : List Byte) : Bool := numAt b 3 1 / 2 % 2 == 1
/-- EXT[d]. -/
def ctExt (b : List Byte) (d : Nat) : Nat := numAt b (8 + 4 * d) 4
/-- TI of the operand record at an offset: 0x20 is C, 0x30 A, 0x40 B. -/
def opTi (b : List Byte) (o : Nat) : Nat := numAt b o 1
/-- FORM. -/
def opForm (b : List Byte) (o : Nat) : Nat := numAt b (o + 1) 1
/-- LEVEL. -/
def opLevel (b : List Byte) (o : Nat) : Nat := numAt b (o + 2) 1
/-- ORD. -/
def opOrd (b : List Byte) (o : Nat) : Nat := numAt b (o + 3) 1
/-- The letters of the dimensions. -/
def opIdx (b : List Byte) (o : Nat) : List Nat := (List.range (Nat.min (opOrd b o) 6)).map fun d => numAt b (o + 4 + d) 1

/-- The kind of a form. -/
def formKind (f : Nat) : Nat := match f with | 0 => 1 | 1 => 2 | 2 => 4 | 3 => 5 | 4 => 6 | _ => 3
/-- The extent of a dimension of an operand: of a tree, the nodes of its level along an axis (R229, R233). -/
def opExt (e : BitVec 1024) (form level d : Nat) : Nat := if form = 5 then 2 ^ (tiExt e d - level) else tiExt e d

/-- The offending bytes of an operand record (R324), in ascending order. -/
def opChecks (s : State) (b : List Byte) (o : Nat) : List (Nat × Bool) :=
  let e := tiOf s s.issue.agent (opTi b o)
  let f := opForm b o
  let n := opOrd b o
  let isC := o == 0x20
  [(o, decide (63 < opTi b o)),
   (o + 1, decide (5 < f) || tiKind e != formKind f || (isC && (if ctMerge b then f != 2 && f != 3 else f != 0))),
   (o + 2, if f = 5 then decide (treeLev e < opLevel b o) else opLevel b o != 0),
   (o + 3, n != tiDim e)] ++
  (List.range 6).map (fun d =>
    let l := numAt b (o + 4 + d) 1
    (o + 4 + d, if d < n then
        decide (ctN b ≤ l) || ctExt b l != opExt e f (opLevel b o) d || (isC && !(opIdx b 0x30 ++ opIdx b 0x40).contains l)
      else l != 0)) ++
  (List.range 6).map fun d => (o + 10 + d, numAt b (o + 10 + d) 1 != 0)

/-- Every byte of a range that must be zero. -/
def zeroChecks (b : List Byte) (o n : Nat) : List (Nat × Bool) := (List.range n).map fun j => (o + j, numAt b (o + j) 1 != 0)

/-- The offending bytes of the resource record (R324). -/
def resChecks (s : State) (b : List Byte) : List (Nat × Bool) :=
  let a := s.me.allot
  let q := numAt b 0x53 1
  [(0x50, (BitVec.ofNat 8 (numAt b 0x50 1) &&& ~~~a.tiles) != 0),
   (0x51, decide (15 < numAt b 0x51 1) || (BitVec.ofNat 4 (numAt b 0x51 1) &&& ~~~a.latches) != 0),
   (0x52, decide (windowOf s < 64 * numAt b 0x52 1 + 64)),
   (0x53, q / 4 % 32 != 0 || (decide (q < 128) && !a.queues.getLsbD (q % 4))),
   (0x54, decide (((List.range 32).filter fun k => (numAt b 0x54 4).testBit k).length < 4))] ++
  (if ctMerge b then [] else zeroChecks b 0x58 8)

/-- The first offending byte of a block (R324). -/
def blockFault (s : State) (b : List Byte) : Option Nat :=
  let ext := (List.range 6).flatMap fun d =>
    if d < ctN b then [(8 + 4 * d, ctExt b d == 0 || decide (2 ^ 31 < ctExt b d))] else zeroChecks b (8 + 4 * d) 4
  (([(0, numAt b 0 1 != 1), (1, numAt b 1 1 != 0), (2, ctN b == 0 || decide (6 < ctN b)),
     (3, decide (3 < numAt b 3 1) || (ctAcc b && ctMerge b))] ++ zeroChecks b 4 4 ++ ext ++
    opChecks s b 0x20 ++ opChecks s b 0x30 ++ opChecks s b 0x40 ++ resChecks s b ++ zeroChecks b 0x60 160).find? fun (x : Nat × Bool) => x.2).map Prod.fst

/-! Operand elements. -/

/-- The Morton number of coordinates of n bits (R233). -/
def morton (axes n : Nat) (x : List Nat) : Nat :=
  (List.range n).foldl (fun a j => (List.range axes).foldl (fun a d => a + x.getD d 0 / 2 ^ j % 2 * 2 ^ (axes * j + d)) a) 0

/-- The first position from p on, of at most n, whose 4-byte index in an array equals v. -/
def findIndex (m : Cmd) (e : BitVec 1024) (arr v : Nat) : Nat → Nat → State → Eng (Option Nat)
  | 0, _, s => .ok (none, s)
  | n + 1, p, s =>
    (engReadN m (tiPad e) (.ofNat 64 (arr + 4 * p)) 4 s).next fun c s =>
      if c = v then .ok (some p, s) else findIndex m e arr v n (p + 1) s

/-- The first position of a COO entry of a row and a column. -/
def findPair (m : Cmd) (e : BitVec 1024) (r c : Nat) : Nat → Nat → State → Eng (Option Nat)
  | 0, _, s => .ok (none, s)
  | n + 1, p, s =>
    (engReadN m (tiPad e) (.ofNat 64 (tiBase e + 4 * p)) 4 s).next fun x s =>
      (engReadN m (tiPad e) (.ofNat 64 (tiKsp e % 2 ^ 64 + 4 * p)) 4 s).next fun y s =>
        if x = r ∧ y = c then .ok (some p, s) else findPair m e r c n (p + 1) s

/-- The value at a position of a sparse entry. -/
def sparseValue (m : Cmd) (e : BitVec 1024) (p : Option Nat) (s : State) : Eng (Option Num) :=
  match p with
  | none => .ok (none, s)
  | some p =>
    (engReadN m (tiPad e) (.ofNat 64 (tiKsp e / 2 ^ 64 + fmtBytes (tiFmt e) * p)) (fmtBytes (tiFmt e)) s).next fun v s =>
      .ok (some (scaleNum (numOf (tiFmt e) v) (tiScale e)), s)

/-- An element of a bitmap row (R222): none where the mask has no bit. -/
def bitmapValue (m : Cmd) (e : BitVec 1024) (k i : Nat) (s : State) : Eng (Option Num) :=
  let a := BitVec.ofNat 64 (tiBase e) + BitVec.ofInt 64 (i * tiStride e 1)
  (engReadN m (tiPad e) a 16 s).next fun mask s =>
    if 128 ≤ k || !mask.testBit k then .ok (none, s)
    else
      let w := fmtWidth (tiFmt e)
      let bit := w * ((List.range k).filter fun q => mask.testBit q).length
      (engReadN m (tiPad e) (a + 16 + .ofNat 64 (bit / 8)) ((w + 7) / 8) s).next fun v s =>
        .ok (some (scaleNum (numOf (tiFmt e) (v / 2 ^ (bit % 8) % 2 ^ w)) (tiScale e)), s)

/-- The value of an element of an operand; none where a sparse operand has no entry. Its entry is the command's. -/
def opValue (m : Cmd) (form level : Nat) (x : List Nat) (s : State) : Eng (Option Num) :=
  let e := m.ti
  let r := x.getD 0 0
  match form with
  | 2 =>
    (engReadN m (tiPad e) (.ofNat 64 (tiBase e + 4 * r)) 4 s).next fun p s =>
      (engReadN m (tiPad e) (.ofNat 64 (tiBase e + 4 * r + 4)) 4 s).next fun q s =>
        (findIndex m e (tiKsp e % 2 ^ 64) (x.getD 1 0) (q - p) p s).next fun p s => sparseValue m e p s
  | 3 => (findPair m e r (x.getD 1 0) (tiExt e 2) 0 s).next fun p s => sparseValue m e p s
  | 4 => bitmapValue m e r (x.getD 1 0) s
  | 5 => (approxAt m level (morton (tiDim e) (tiExt e 0 - level) x) s).next fun v s =>
      .ok (some (numOf (tiFmt e) (roundTo (tiFmt e) 0 false none false (numOf 0 v)).1), s)
  | _ => (tiRead m e 0 x s).next fun c s => .ok (some (tiValue e c), s)

/-- A dense or record element as an array operand, with its record's scale and without the entry's. -/
def arrayOp (m : Cmd) (x : List Nat) (s : State) : Eng Operand :=
  let e := m.ti
  (tiRead m e 0 x s).next fun c s =>
    .ok (match c with
      | none => zeroOp
      | some (el, sc) =>
        if tiIsRec e then (let o := recOp (tiFmt e) el sc; ((mulNum o.1 o.2).1, .fin false 1 1)) else (numOf (tiFmt e) el, .fin false 1 1), s)

/-! The contraction (R325). -/

/-- The commands that read A and B and write C, one for each entry, and the digest of the microcode that runs. -/
structure Contraction where
  blk : List Byte
  code : Nat
  c : Cmd
  a : Cmd
  b : Cmd

/-- The letters that are summed, rising: those of A and B that C has not. -/
def summed (b : List Byte) : List Nat :=
  (List.range (ctN b)).filter fun l => (opIdx b 0x30 ++ opIdx b 0x40).contains l && !(opIdx b 0x20).contains l

/-- The value of each letter, from the index of C's element and the number of the summed tuple; the highest-numbered summed letter
is the most significant. -/
def lettersAt (b : List Byte) (y : List Nat) (t : Nat) : List Nat :=
  let z := tupleAt (fun k => ctExt b ((summed b).getD k 0)) (summed b).length 0 t
  (List.range (ctN b)).map fun l =>
    match (opIdx b 0x20).findIdx? (· == l) with
    | some d => y.getD d 0
    | none => (match (summed b).findIdx? (· == l) with | some k => z.getD k 0 | none => 0)

/-- The index of an operand's element. -/
def opTuple (b : List Byte) (o : Nat) (v : List Nat) : List Nat := (opIdx b o).map fun l => v.getD l 0

/-- The number of summed tuples. -/
def tuples (b : List Byte) : Nat := (summed b).foldl (fun n l => n * ctExt b l) 1

/-- The operand pairs of an element in ascending tuples, for the array's order. -/
def arrayPairs (q : Contraction) (y : List Nat) (s : State) : Eng (List (Operand × Operand)) :=
  mapNodes (fun t s =>
    let v := lettersAt q.blk y t
    (arrayOp q.a (opTuple q.blk 0x30 v) s).next fun x s => (arrayOp q.b (opTuple q.blk 0x40 v) s).next fun z s => .ok ((x, z), s))
    (List.range (tuples q.blk)) s

/-- The products of an element in ascending tuples; a sparse operand's absent entry makes none. -/
def productsOf (q : Contraction) (y : List Nat) (s : State) : Eng (List Num) :=
  (mapNodes (fun t s =>
    let v := lettersAt q.blk y t
    (opValue q.a (opForm q.blk 0x30) (opLevel q.blk 0x30) (opTuple q.blk 0x30 v) s).next fun x s =>
      (opValue q.b (opForm q.blk 0x40) (opLevel q.blk 0x40) (opTuple q.blk 0x40 v) s).next fun z s =>
        .ok (match x, z with | some x, some z => some (mulNum x z).1 | _, _ => none, s))
    (List.range (tuples q.blk)) s).next fun l s => .ok (l.filterMap id, s)

/-- What the order of an element's additions may follow (R325): the microcode, where it runs, the block and its entries, the element, how many
products there are. From run to run these are the same, and so is the order. -/
def orderKey (q : Contraction) (y : List Nat) (n : Nat) : Nat :=
  (y.foldl (fun k x => k * 2 ^ 32 + x) (q.code * 2 ^ 12 + q.c.agent) + 2 ^ 768 * (leNat q.blk + 2 ^ 2048 * (q.a.ti.toNat + 2 ^ 1024 * q.b.ti.toNat))) *
    2 ^ 96 + n * 2 ^ 32

/-- Products folded in an order that free values pick, with one RNE rounding per addition (R325, log 5). -/
def foldAny : Nat → Nat → List Num → Nat → Nat
  | 0, _, _, c => c
  | n + 1, k, l, c =>
    let j := Config.choice k % l.length
    match l[j]? with
    | none => c
    | some p => foldAny n (k + 1) (l.eraseIdx j) (roundTo 0 0 false none true (addNum false (numOf 0 c) p).1).1

/-- The integer that a value is. -/
def intOf (v : Num) : Int := match v with | .fin neg n d => (if neg then -1 else 1) * ((n / d : Nat) : Int) | _ => 0

/-- The group size of R115 for a pair of operand formats; for a pair that R115 does not list, a free value of the pair (log 15). -/
def contractGroup (ea eb : BitVec 1024) : Nat × Bool :=
  match pairGroup false (tiFmt ea) (tiIsRec ea) (tiFmt eb) (tiIsRec eb) with
  | some g => (g, isIntFmt (tiFmt ea))
  | none => ([1, 4, 8, 32].getD (Config.choice (1024 * (32 * (2 * tiFmt ea + (tiIsRec ea).toNat) + 2 * tiFmt eb + (tiIsRec eb).toNat)) % 4) 1, false)

/-- One element of C (R325): in ascending tuples, grouped by R115, for dense and record operands without MERGE, else in an order that is the same
from run to run: the code, and whether it is an I32. `c0` is what it starts from. -/
def elementOf (q : Contraction) (y : List Nat) (c0 : Num) (s : State) : Eng (Nat × Bool) :=
  let ea := q.a.ti
  let eb := q.b.ti
  if opForm q.blk 0x30 ≤ 1 ∧ opForm q.blk 0x40 ≤ 1 then
    let g := contractGroup ea eb
    (arrayPairs q y s).next fun l s =>
      let c := if g.2 then wrap 32 (intOf c0) else (roundTo 0 0 false none false c0).1
      .ok ((productEl g.2 (tiScale ea + tiScale eb) g.1 l.length (fun t => (l.getD t (zeroOp, zeroOp)).1)
        (fun t => (l.getD t (zeroOp, zeroOp)).2) c (List.range ((l.length + g.1 - 1) / g.1)), g.2), s)
  else
    (productsOf q y s).next fun l s =>
      .ok ((foldAny l.length (orderKey q y l.length) l (roundTo 0 0 false none false c0).1, false), s)

/-- The elements of a dense C (R325). -/
def denseLoop (q : Contraction) : Nat → Nat → State → State × Option (BitVec 8 × W64)
  | 0, _, s => (s, none)
  | n + 1, t, s =>
    let ec := q.c.ti
    let y := tupleAt (tiExt ec) (tiDim ec) 0 t
    let r := (tiRead q.c ec 0 y s).next fun c s =>
      elementOf q y (if ctAcc q.blk then tiValue ec c else .fin false 0 1) s
    match r with
    | .error e => (s, some e)
    | .ok ((v, int), s) =>
      let f := if int then 8 else 0
      match writeLay q.c ec f 0 false y [numOf f v] s with
      | (s, some e) => (s, some e)
      | (s, none) => denseLoop q n (t + 1) s

/-- The keys of a sparse C that some product falls on, with their values (R325): the order in which the microcode's pushes arrive is free. -/
def sparseKeys (q : Contraction) (s : State) : Eng (List (Nat × Nat × Nat × Nat)) :=
  let rows := tiExt q.c.ti 0
  let cols := tiExt q.c.ti 1
  (mapNodes (fun t s =>
    (productsOf q [t / cols, t % cols] s).next fun l s =>
      .ok (if l.isEmpty then none else some (t / cols, t % cols, 0, foldAny l.length (s.free * 1024) l 0), s.tick))
    (List.range (rows * cols)) s).next fun l s => .ok (l.filterMap id, s)

/-- Write n free bytes from an address on, 256 at a time (log 15). -/
def writeFree (m : Cmd) (a : W64) : Nat → Nat → State → State
  | 0, _, s => s
  | n + 1, k, s =>
    match engWrite m false (a + .ofNat 64 k) [BitVec.ofNat 8 (Config.bits s.free).toNat] s with
    | .ok (_, s) => writeFree m a n (k + 1) s.tick
    | .error _ => s

/-- A sparse C, through the session of the Madder that the microcode opened, which it closes (R324, R325): the spill area, RUNS and SPILLED
follow the microcode's pushes and are free (log 15). -/
def sparseOut (q : Contraction) (s : State) : State × Option (BitVec 8 × W64) :=
  let m := q.c
  let cl := clusterOf m.agent
  let close := fun (r : State × Option (BitVec 8 × W64)) => (setSession cl {} r.1, r.2)
  match sparseKeys q s with
  | .error e => close (s, some e)
  | .ok (ks, s) =>
    let x : Session := { sessionOf s cl with
      wrote := Config.choice (s.free * 1024) % 2 ^ 32, ends := Config.choice (s.free * 1024 + 1) % 2 ^ 64 }
    let s := writeFree m (spillBase x) (spillSize x) 0 s.tick
    let w := writeLists m (tiPad m.ti) (outputLists m.ti (ks.take (tiExt m.ti 2))) s
    let err := match w.2 with
      | some e => some e
      | none => if tiExt m.ti 2 < ks.length then some (0x0F, 0) else none
    let r := writeResult m x ks.length 0 (err.elim 0 fun e => e.1.toNat) w.1
    close (r.1, err.orElse fun _ => r.2)

/-- What the microcode leaves in the resources that the block names, and in the result queues: free values (R324, log 15). -/
def spoil (a : Nat) (b : List Byte) (kout : Nat) (s : State) : State :=
  let core := coreOf a
  let f := s.free
  let vec := fun (n : Nat) => Config.bits (f * 65536 + n)
  let tmask := numAt b 0x50 1
  let lmask := numAt b 0x51 1
  let v0 := 64 * numAt b 0x52 1
  let aq := numAt b 0x53 1
  let kmask := numAt b 0x54 4
  let latch := fun (e : Nat) => ({
    fmt := Config.choice (f * 65536 + e) % 14, recf := if Config.choice (f * 65536 + 4 + e) % 2 = 0 then none else some (Config.choice (f * 65536 + 8 + e) % 4)
    kl := Config.choice (f * 65536 + 12 + e) % 129, scx := (Config.choice (f * 65536 + 16 + e) % 256 : Nat) - 128
    rows := (List.range 128).foldl (fun r k => mset 0 r k (vec (4096 + 512 * e + 2 * k) ++ vec (4097 + 512 * e + 2 * k))) []
    scales := (List.range 512).foldl (fun r k => mset 0 r k ((vec (8192 + 512 * e + k)).setWidth 16)) [] } : Latch)
  let s := s.modCore core fun c => { c with
    tiles := (List.range 8).foldl (fun t m => if tmask.testBit m then mset [] t m ((List.range 256).foldl (fun r q => mset 0 r q (vec (16384 + 256 * m + q))) []) else t) c.tiles
    latches := (List.range 4).foldl (fun l e => if lmask.testBit e then mset {} l e (latch e) else l) c.latches
    aq := if aq < 128 then mset [] c.aq (aq % 4) ((List.range (Config.choice (f * 65536 + 20) % 65)).map fun j => vec (20000 + j)) else c.aq }
  (s.modCtx a fun c => { c with
    regs := { c.regs with
      v := (List.range 64).foldl (fun r j => mset 0 r (v0 + j) (vec j)) c.regs.v
      killed := (List.range 64).foldl (fun r j => mset 0 r (v0 + j) 0) c.regs.killed }
    toks := (List.range 32).foldl (fun t k =>
      if kmask.testBit k && k != kout then
        mset {} t k { err := Config.choice (f * 65536 + 64 + k) % 2 = 1, cause := (vec (100 + k)).setWidth 8, eaddr := (vec (200 + k)).setWidth 64, inst := 0 }
      else t) c.toks
    flow := { c.flow with qs := (List.range 16).map fun j => (vec (300 + j)).setWidth 64, qv := (List.range 16).map fun j => vec (400 + j) } }).tick

/-- Each pending access of an agent has performed before the reads of an engine instruction, or has not, as free values say (R165). -/
def someStores (a : Nat) (s : State) : State :=
  let ids := (s.ctx a).order.pend.filterMap Pend.sid
  (s.force a (ids.zipIdx.filterMap fun x => if Config.choice (s.free * 1024 + x.2) % 2 = 0 then some x.1 else none)).tick

/-! The microcode (R324). -/

/-- The microcode ends: the program goes on where the CONTRACT's bundle leads. -/
def endMicro (a : Nat) (m : Micro) (s : State) : State :=
  s.modCtx a fun c => { c with pc := m.next, ridx := m.ridx, iflat := m.iflat, flow := { c.flow with micro := none } }

/-- The contraction, and its token (R324, R325). -/
def contractRun (a : Nat) (m : Micro) (cmd : Cmd) (s : State) : State :=
  let of := fun (o : Nat) => { cmd with caps := [0, 0], ti := tiOf s a (opTi m.blk o) }
  let q : Contraction := ⟨m.blk, m.code, of 0x20, of 0x30, of 0x40⟩
  let s := someStores a s
  let r := if ctMerge m.blk then sparseOut q s
    else denseLoop q ((List.range (tiDim q.c.ti)).foldl (fun n d => n * tiExt q.c.ti d) 1) 0 s
  endCmd (coreOf a) cmd r.2 (spoil a m.blk (cmd.out.elim 0 Prod.fst) r.1.tick)

/-- The token of the microcode's MGSET: the lowest of KMASK other than the CONTRACT's own. -/
def microToken (m : Micro) (cmd : Cmd) : Nat :=
  ((List.range 32).find? fun k => (numAt m.blk 0x54 4).testBit k && some k != cmd.out.map Prod.fst).getD 0

/-- The microcode's MGSET: it opens a session with the tag 0x8000 plus the context's number (R324). -/
def microMgset (a : Nat) (m : Micro) (cmd : Cmd) (s : State) : State :=
  let k := microToken m cmd
  let s := produce a k 1 s
  let g : Cmd := { id := s.free, agent := a, op := .mgset ⟨.ofNat 5 k, []⟩ (.s 0) (.s 0), asid := cmd.asid, pc := cmd.pc
                   caps := [.ofNat 64 (numAt m.blk 0x58 8), .ofNat 64 (0x8000 + a)], out := some (k, (mget ({} : Token) (s.ctx a).toks k).inst) }
  (s.tick.modCore (coreOf a) fun c => { c with cmds := c.cmds ++ [g] }).modCtx a fun c =>
    { c with flow := { c.flow with micro := some { m with mg := some k } } }

/-- Why the next bundle of the microcode blocks: it waits for the tokens that the CONTRACT consumed, for the accesses that a fence orders before it,
for room for its MGSET and that MGSET's token, and, where the block names an access queue, for the context's own program to end (R324). -/
def microBlock (a : Nat) (m : Micro) (cmd : Cmd) (s : State) : Option Blk :=
  if !mayStart s cmd then some .micro
  else if cmd.depErr.isSome then none
  else match ctMerge m.blk, m.mg with
    | true, none => if unitCap 4 ≤ (waitingIn (s.core (coreOf a)) 4).length then some (.queue 4) else none
    | true, some k => if (mget ({} : Token) (s.ctx a).toks k).pend ≠ 0 then some .micro
        else if numAt m.blk 0x53 1 < 128 && (programOf s a).isSome then some .micro else none
    | false, _ => if numAt m.blk 0x53 1 < 128 && (programOf s a).isSome then some .micro else none

/-- The next bundle of the microcode issues: an error of a consumed token ends it, as does an error of its MGSET; the last makes the
contraction. -/
def microStep (a : Nat) (m : Micro) (cmd : Cmd) (s : State) : State :=
  let s := afterFences cmd s
  let t : Token := m.mg.elim {} fun k => mget {} (s.ctx a).toks k
  match cmd.depErr with
  | some e => endMicro a m (endCmd (coreOf a) cmd (some e) s)
  | none =>
    if ctMerge m.blk && m.mg.isNone then microMgset a m cmd s
    else if t.err then endMicro a m (endCmd (coreOf a) cmd (some (t.cause, t.eaddr)) s)
    else if 0 < m.left then s.modCtx a fun c => { c with flow := { c.flow with micro := some { m with left := m.left - 1 } } }
    else endMicro a m (contractRun a m cmd s)

/-- The entries that a block names are valid (R215). -/
def entriesOk (b : List Byte) (s : State) : Bool :=
  [0x20, 0x30, 0x40].all fun o =>
    let e := tiOf s s.issue.agent (opTi b o)
    match opForm b o with | 5 => treeOk e | 2 => csrOk e [4] | 3 => csrOk e [5] | _ => tiSound e

/-- An operand of records ends inside one (R110). -/
def recordsCut (b : List Byte) (s : State) : Bool :=
  [0x30, 0x40].any fun o => opForm b o == 1 && (let e := tiOf s s.issue.agent (opTi b o); cutsRecord e (tiExt e 0))

/-- A context's microcode begins (R324). -/
def Ctx.startMicro (id : Nat) (blk : List Byte) (code left : Nat) (here : W64) (c : Ctx) : Ctx :=
  { c with flow := { c.flow with
    micro := some { id := id, blk := blk, code := code, left := left, here := here, next := c.pc, ridx := c.ridx, iflat := c.iflat } } }

/-- CONTRACT (R110, R323-R325, R424): a tagged block scalar raises 0x12 (R339). After its checks it leaves a command, whose token the microcode
completes, and the microcode, of as many bundles as a free value says, which runs in the context's next cycles (log 15). -/
def execContract (k : Tok) (blk : SCode) (s : State) : Host.Outcome State Fault Refusal :=
  let i := Instr.contract k blk
  runOp i (fun t =>
    let b := t.sc blk
    if tagOfS t.me.flow.lift blk ≠ 0 then .trap (t.cause 0x12)
    else if b.toNat % 256 ≠ 0 then .trap (t.cause 0x0D 0 b)
    else if !t.dev.microcode then .trap (t.cause 0x15 0 b)
    else
      (keysOf .read b (List.range 256) t).run fun ks t =>
        let ids := fencedAccesses t.me.order.pend
        let t := t.force t.issue.agent ids
        match ids.filter fun id => t.anyPending [id] with
        | id :: more => .block (.order (id :: more))
        | [] =>
          let t := someStores t.issue.agent t
          let bs := bytesAt ks t
          match blockFault t bs with
          | some o => .trap (t.cause 0x15 0 (b + .ofNat 64 o))
          | none =>
            if !entriesOk bs t then .trap (t.cause 0x18)
            else if recordsCut bs t then .trap (t.cause 0x0F)
            else if ctMerge bs && numAt bs 0x58 8 % 64 != 0 then .trap (t.cause 0x0D 0 (.ofNat 64 (numAt bs 0x58 8)))
            else
              (sendAs i k.ins (some k.out) 0 id t).bind fun q => .ok (q.tick.modMe (Ctx.startMicro
                ((q.core (coreOf q.issue.agent)).cmds.getLast?.elim 0 Cmd.id) bs (mget 0 q.dev.firmware 2) (Config.choice (q.free * 1024) % 4096)
                q.issue.here))) s

end Sys2Proof.Machine
end

