-- ==== Sys2Proof/Machine/Image.lean ====
section
/-! DEFINITION. Machine/Image.lean: the image of a context in its area (R397): the control part, the scalars, the predicates and the vectors as
bytes. R397 gives the order of the parts and not where a value stands in its part: those places, and the size of the trap part, which is not
among the bytes, are the model's (log 19). -/

namespace Sys2Proof.Machine

/-- A value of an image. -/
inductive Item where
  | pc
  | csr (r : BitVec 10)
  | kills
  | gen
  | s (n : Nat)
  | p (n : Nat)
  | v (n : Nat)
  deriving DecidableEq, Repr

/-- The registers that R390 marks as held in the image. -/
def imageCsrs : List (BitVec 10) := ((List.range 17) ++ (List.range 8).map (0x12 + ·) ++ [0x30, 0x31]).map (BitVec.ofNat 10)

/-- The bytes of a value. -/
def Item.size : Item → Nat
  | .kills => 96
  | .gen => 4
  | .p _ => 32
  | .v _ => 256
  | .pc => 8
  | .csr _ => 8
  | .s _ => 8

/-- The kill mask (R60). -/
def killMask (r : Regs) : Nat := r.killed.foldl (fun m x => if x.2 = 0 then m else m ||| 2 ^ x.1) 0

/-- The value of a context. -/
def itemOf (s : State) (a : Nat) (i : Item) : Nat :=
  let c := s.ctx a
  match i with
  | .pc => c.pc.toNat
  | .csr r => (readCsr a r s).toNat
  | .kills => killMask c.regs
  | .gen => c.regs.gen.toNat
  | .s n => (mget 0 c.regs.s n).toNat
  | .p n => (mget 0 c.regs.p n).toNat
  | .v n => (mget 0 c.regs.v n).toNat

/-- The vectors of an image: those of the window that are not killed (R62, R397). -/
def liveVectors (c : Ctx) : List Nat := (List.range c.allot.window).filter fun n => mget 0 c.regs.killed n == 0

/-- Where the values of an image stand in its area (R397, log 19). -/
def imageLayout (s : State) (a : Nat) : List (Nat × Item) :=
  (0, .pc) :: (imageCsrs.zipIdx.map fun x => (8 + 8 * x.2, .csr x.1)) ++ [(224, .kills), (320, .gen)] ++
    ((List.range 31).map fun j => (4096 + 8 * j, .s (j + 1))) ++ ((List.range 15).map fun j => (4344 + 32 * j, .p (j + 1))) ++
    (liveVectors (s.ctx a)).zipIdx.map fun x => (4864 + 256 * x.2, .v x.1)

/-- The area of a context: what its directory entry names; 0 is none (R397, log 19). -/
def imageArea (s : State) (a : Nat) : Nat :=
  let k := dirKey s a
  if s.shut k then 0 else
  let p := s.readLE k 8 / 2 ^ 22 % 2 ^ 24 * 2 ^ 22
  if s.shut p || s.shut (p + 2 ^ 22 - 1) then 0 else p

/-- The image of a context is written to its area (R397, R399, R402). -/
def writeImage (a : Nat) (s : State) : State :=
  let p := imageArea s a
  if p = 0 then s else (imageLayout s a).foldl (fun t x => t.homeLE (p + x.1) x.2.size (itemOf s a x.2)) s

/-- STATUS of an image (R391). -/
def setStatus (v : W64) (c : Ctl) : Ctl :=
  { c with fflags := v.extractLsb' 0 5, priv := v.getLsbD 8, poisoned := v.getLsbD 10, ridx := v.extractLsb' 16 6 }

/-- A control register of an image; those that are no more than a picture of other state keep it (log 19). -/
def setImageCsr (a : Nat) (r : BitVec 10) (v : W64) (s : State) : State :=
  let n := r.toNat
  if n = 0 then s.modCtx a fun c => { c with ctl := setStatus v c.ctl, ridx := (v.extractLsb' 16 6).toNat }
  else if n = 9 then modCtl a (fun c => { c with ccyc := v }) s
  else if n = 0x0F then modCtl a (fun c => { c with fallback := v.extractLsb' 16 32 }) s
  else if n = 0x12 then modCtl a (fun c => { c with midle := v.extractLsb' 0 32, msteps := v.extractLsb' 32 32 }) s
  else if 0x13 ≤ n ∧ n ≤ 0x18 then modCtl a (fun c => { c with args := mset 0 c.args (n - 0x13) v }) s
  else if n = 0x19 then modCtl a (fun c => { c with stg := v.extractLsb' 0 3, runs := v.extractLsb' 32 16 }) s
  else if n ≤ 0x0B ∨ 0x30 ≤ n then writeCsr true a r v s
  else s

/-- A value of an image, as an edit leaves it (R400, R402). -/
def setItem (a : Nat) (i : Item) (v : Nat) (s : State) : State :=
  let regs := fun (f : Regs → Regs) => s.modCtx a fun c => { c with regs := f c.regs }
  match i with
  | .pc => s.modCtx a fun c => { c with pc := .ofNat 64 v }
  | .csr r => setImageCsr a r (.ofNat 64 v) s
  | .kills => regs fun r => { r with
      killed := (List.range 768).foldl (fun m n => mset 0 m n (if v.testBit n then Nat.max 1 (mget 0 r.killed n) else 0)) [] }
  | .gen => regs fun r => { r with gen := .ofNat 32 v }
  | .s n => regs fun r => { r with s := mset 0 r.s n (.ofNat 64 v) }
  | .p n => regs fun r => { r with p := mset 0 r.p n (.ofNat 256 v) }
  | .v n => regs fun r => { r with v := mset 0 r.v n (.ofNat 2048 v) }

/-- A context whose image the host may read and edit: it is saved or stopped (R400). -/
def isFrozen (s : State) (a : Nat) : Bool := (s.ctx a).dir == 3 || (s.ctx a).dir == 4

/-- The host has written bytes of memory: the values of images that they reach are reinjected when their context resumes (R400, R402). -/
def takeEdits (pa n : Nat) (s : State) : State :=
  ((s.ctxs.map Prod.fst).filter fun a => decide (a < 2048) && isFrozen s a).foldl (fun s a =>
    let p := imageArea s a
    if p = 0 || decide (pa + n ≤ p) || decide (p + 2 ^ 22 ≤ pa) then s else
    ((imageLayout s a).filter fun x => decide (p + x.1 < pa + n) && decide (pa < p + x.1 + x.2.size)).foldl
      (fun s x => setItem a x.2 (s.readLE (p + x.1) x.2.size) s) s) s

/-- The area follows a value of an image that changes while its context is saved or stopped (R296, R400). -/
def refreshItem (a : Nat) (i : Item) (s : State) : State :=
  let p := imageArea s a
  if !isFrozen s a || p = 0 then s else
  match (imageLayout s a).find? fun x => x.2 == i with
  | some x => s.homeLE (p + x.1) i.size (itemOf s a i)
  | none => s

end Sys2Proof.Machine
end

