-- ==== Sys2Proof/Machine/Fabric.lean ====
section
/-! DEFINITION. Machine/Fabric.lean: the Nymiz fabric and the Iluix link (R408-R416): SEND, RECV and RAMO, messages and credits, accesses
of the host and of peer devices. A message leaves, and is written to memory, as a whole (log 9). -/

namespace Sys2Proof.Machine

/-- A link. -/
def linkOf (s : State) (n : Nat) : Link := mget {} s.dev.links n
/-- Change a link. -/
def modLink (n : Nat) (f : Link → Link) (s : State) : State := s.modDev fun d => { d with links := mset {} d.links n (f (mget {} d.links n)) }

/-- The checks of SEND and RECV at issue (R411). -/
def linkTrap (link : BitVec 5) (sp : Bool) (buf len : W64) (s : State) : Option Trap :=
  if len.toNat % 64 ≠ 0 ∨ len.toNat < 64 ∨ 131072 < len.toNat then some (s.cause 0x0A 0 len)
  else if sp && decide (2 ^ 22 ≤ buf.toNat) then some (s.cause 0x0A 0 buf)
  else if !(linkOf s link.toNat).up then some (s.cause 0x24)
  else none

/-- SEND (R411, R412): it blocks until its credits are free, and takes them. -/
def execSend (k : Tok) (link : BitVec 5) (sp : Bool) (buf len : SCode) (tag : BitVec 8) (s : State) : Host.Outcome State Fault Refusal :=
  let i := Instr.send k link sp buf len tag
  runOp i (fun t =>
    let n := (t.sc len).toNat / 64
    match linkTrap link sp (t.sc buf) (t.sc len) t with
    | some x => .trap x
    | none =>
      if (linkOf t link.toNat).credits < n then .block (.credits link.toNat n)
      else
        let t := modLink link.toNat (fun l => { l with credits := l.credits - n }) t
        sendCmd i k (slotTag i t) (fun c => { c with caps := [t.sc buf, t.sc len] }) t) s

/-- The bytes of a message as vectors of a command, and back. -/
def packBytes (b : List Byte) : List Vec := (List.range ((b.length + 255) / 256)).map fun j => .ofNat 2048 (leNat ((b.drop (256 * j)).take 256))
/-- And back. -/
def unpackBytes (n : Nat) (v : List Vec) : List Byte := (v.flatMap fun x => leBytes 256 x.toNat).take n

/-- RECV (R411, R413): it blocks until the queue holds a message of its tag, and takes the oldest. -/
def execRecv (k : Tok) (link : BitVec 5) (sp : Bool) (buf len : SCode) (tag : BitVec 8) (s : State) : Host.Outcome State Fault Refusal :=
  let i := Instr.recv k link sp buf len tag
  runOp i (fun t =>
    match linkTrap link sp (t.sc buf) (t.sc len) t with
    | some x => .trap x
    | none =>
      let q := (linkOf t link.toNat).rx
      match q.find? fun m => m.1 == tag with
      | none => .block (.recv (256 * link.toNat + tag.toNat))
      | some m =>
        let t := modLink link.toNat (fun l => { l with rx := l.rx.erase m }) t
        sendCmd i k (slotTag i t) (fun c => { c with
          caps := [t.sc buf, t.sc len, .ofNat 64 m.2.2.length], vecs := packBytes m.2.2, aux := m.2.1.toNat }) t) s

/-- RAMO (R415): its destination is captured as a register, or as a lane of a lifted one (R333). -/
def execRamo (k : Tok) (aop : BitVec 4) (d8 : Bool) (base src cmp : SCode) (rd : BitVec 5) (s : State) : Host.Outcome State Fault Refusal :=
  let i := Instr.ramo k aop d8 base src cmp rd
  runOp i (fun t =>
    let u := slotTag i t
    let d := match t.destS u rd with | .lane v l => (v, l + 1) | _ => (rd.toNat, 0)
    sendCmd i k u (fun c => { c with caps := [t.sc base, t.sc src, t.sc cmp], dst := d.1, aux := d.2 }) (noteTag 0 rd.toNat u t)) s

/-! Messages. -/

/-- A ready SEND before which its context has sent nothing of the same link and tag (R414). -/
def sendable (core : Nat) (s : State) : List Cmd :=
  (s.core core).cmds.filter fun m => match m.op with
    | .send _ l _ _ _ t => mayStart s m && ((s.core core).cmds.takeWhile fun x => x.id != m.id).all fun x =>
        match x.op with | .send _ l' _ _ _ t' => x.agent != m.agent || l' != l || t' != t | _ => true
    | _ => false

/-- Read a message flit by flit: a flit that cannot be read ends it, the rest being zeros (R412). -/
def readFlits (m : Cmd) (sp : Bool) : Nat → W64 → State → List Byte × State × Option (BitVec 8 × W64)
  | 0, _, s => ([], s, none)
  | n + 1, a, s =>
    match engRead m sp a 64 s with
    | .ok (b, s) => let r := readFlits m sp n (a + 64) s; (b ++ r.1, r.2)
    | .error e => (List.replicate (64 * (n + 1)) 0, s, some e)

/-- A message of this device stands in the peer's queue (R412). A link that has gone down refuses it with 0x24 (R408, R409). -/
def sendMessage (core : Nat) (m : Cmd) (link : Nat) (sp : Bool) (tag : BitVec 8) (s : State) : State :=
  let n := (m.cap 1).toNat / 64
  match m.depErr with
  | some e => endCmd core m (some e) (modLink link (fun l => { l with credits := Nat.min 2048 (l.credits + n) }) s)
  | none =>
    if !(linkOf s link).up then endCmd core m (some (0x24, 0)) s
    else
      let r := readFlits m sp n (m.cap 0) (afterFences m s)
      endCmd core m r.2.2 (modLink link (fun l => { l with sent := l.sent ++ [(tag, r.2.2.isSome, r.1)] }) r.2.1)

/-- The flits of messages. -/
def flitsOf (l : List (BitVec 8 × Bool × List Byte)) : Nat := (l.map fun m => m.2.2.length / 64).sum

/-- The flits of a receive queue: those of the messages in it, and those that the RECVs of the link have still to move out (R412, R413). -/
def rxFlits (link : Nat) (s : State) : Nat :=
  flitsOf (linkOf s link).rx + ((s.cores.flatMap fun k => k.2.cmds).map fun m => match m.op with
    | .recv _ l _ _ _ _ => if l.toNat = link then (m.cap 2).toNat / 64 else 0
    | _ => 0).sum

/-- A peer's message arrives once the queue of its link has room for it, after the ones of its link before it; on a link that is down it is
lost (R408, R412). -/
def arrives (m : Nat × BitVec 8 × Bool × List Byte) (s : State) : Bool :=
  (s.env.msgs.find? fun x => x.1 == m.1) == some m && (!(linkOf s m.1).up || decide (rxFlits m.1 s + m.2.2.2.length / 64 ≤ 2048))

/-- MESSAGE_ARRIVAL (R412): a message of a core stands in the peer's queue, or, when it sends none, a peer's stands in this
device's. -/
def execMessageArrival (core : Nat) (s : State) : Host.Outcome State Fault Refusal :=
  match pickOne (sendable core s) s with
  | some m =>
    (match m.op with
     | .send _ link sp _ _ tag => .next (sendMessage core m link.toNat sp tag s.tick)
     | _ => .next s)
  | none =>
    match s.env.msgs.find? fun m => arrives m s with
    | none => .next s
    | some m =>
      let s := { s with env := { s.env with msgs := s.env.msgs.erase m } }
      .next (if (linkOf s m.1).up then modLink m.1 (fun q => { q with rx := q.rx ++ [m.2] }) s else s)

/-- Take flits from the messages of a queue, the oldest first. -/
def drainFlits : Nat → List (BitVec 8 × Bool × List Byte) → List (BitVec 8 × Bool × List Byte)
  | _, [] => []
  | n, m :: r => if m.2.2.length ≤ 64 * n then drainFlits (n - m.2.2.length / 64) r else (m.1, m.2.1, m.2.2.drop (64 * n)) :: r

/-- CREDIT_RETURN (R412): flits that stand in the peer's queue leave it. -/
def execCreditReturn (link flits : Nat) (s : State) : Host.Outcome State Fault Refusal :=
  .next (modLink link (fun l => { l with
    credits := Nat.min 2048 (l.credits + Nat.min flits (flitsOf l.sent)), sent := drainFlits flits l.sent }) s)

/-- Write a message flit by flit; a flit that fails ends it (R413). -/
def writeFlits (m : Cmd) (sp : Bool) : Nat → W64 → List Byte → State → State × Option (BitVec 8 × W64)
  | 0, _, _, s => (s, none)
  | n + 1, a, b, s =>
    match engWrite m sp a (b.take 64) s with
    | .ok (_, s) => writeFlits m sp n (a + 64) (b.drop 64) s
    | .error e => (engPart m sp a (b.take 64) s, some e)

/-- The end of a RECV (R413) (log 39). -/
def recvEnd (core : Nat) (m : Cmd) (sp : Bool) (s : State) : State :=
  let have' := (m.cap 2).toNat
  let n := Nat.min have' (m.cap 1).toNat
  let r := writeFlits m sp (n / 64) (m.cap 0) (unpackBytes n m.vecs) (afterFences m s)
  match r.2 with
  | some e => endCmd core m (some e) r.1
  | none => endCmd core m (if have' ≠ (m.cap 1).toNat then some (0x0F, 0) else if m.aux = 1 then some (0x24, 0) else none) r.1

/-- The RECV commands that may end. -/
def receivable (core : Nat) (s : State) : List Cmd :=
  (s.core core).cmds.filter fun m => (match m.op with | .recv .. => true | _ => false) && mayStart s m

/-- RECV_COMPLETE (R413). -/
def execRecvComplete (core : Nat) (s : State) : Host.Outcome State Fault Refusal :=
  match pickOne (receivable core s) s with
  | some m => (match m.op with | .recv _ _ sp _ _ _ => .next (startOr core m (recvEnd core m sp) s.tick) | _ => .next s)
  | none => .next s

/-! RAMO (R415). -/

/-- The result of a RAMO: it enters no queue (R56). -/
def putRamo (m : Cmd) (v : Nat) (s : State) : State :=
  if m.aux = 0 then
    (if m.dst = 0 then s else refreshItem m.agent (.s m.dst)
      (s.modCtx m.agent fun c => { c with regs := { c.regs with s := mset 0 c.regs.s m.dst (.ofNat 64 v) } }))
  else
    let w : Vec := BitVec.ofNat 2048 ((2 ^ 64 - 1) * 2 ^ (64 * (m.aux - 1)))
    refreshItem m.agent (.v m.dst) (s.modCtx m.agent fun c => writeV s c m.dst w (BitVec.ofNat 2048 (v * 2 ^ (64 * (m.aux - 1)))))

/-- The operation at the home slice of the page's device (R415). -/
def ramoAt (core : Nat) (m : Cmd) (aop : BitVec 4) (n : Nat) (s : State) : State :=
  let a := m.cap 0
  if a.toNat % n ≠ 0 then endCmd core m (some (0x0D, a)) s
  else
    match engKeys m false .both a n (afterFences m s) with
    | .error e => endCmd core m (some e) s
    | .ok (ks, s) =>
      let here := (ks.filterMap Prod.snd).filter isLocal
      if ks.any fun x => x.2.any fun k => decide (2 ^ 65 ≤ k) && decide (k < 2 ^ 66) then endCmd core m (some (0x0A, a)) s
      else if ks.any fun x => x.2.any fun k => decide (2 ^ 66 ≤ k) && !s.reachable ((k - 2 ^ 66) / 2 ^ 46) then endCmd core m (some (0x24, a)) s
      else
        let s := reach m.agent false here (traffic 2 false here s)
        let old := leNat (bytesAt ks s)
        let s := match amoVal aop.toNat n old (m.cap 1).toNat (m.cap 2).toNat with
          | some v => s.performBytes m.agent m.asid (cellsAt ks v)
          | none => s
        endCmd core m none (putRamo m old s)

/-- The RAMO commands that may act. -/
def ramoReady (core : Nat) (s : State) : List Cmd :=
  (s.core core).cmds.filter fun m => (match m.op with | .ramo .. => true | _ => false) && mayStart s m

/-- RAMO_REMOTE_OPERATION (R415). -/
def execRamoRemoteOperation (core : Nat) (s : State) : Host.Outcome State Fault Refusal :=
  match pickOne (ramoReady core s) s with
  | some m =>
    (match m.op with
     | .ramo _ aop d8 _ _ _ _ => .next (startOr core m (ramoAt core m aop (if d8 then 8 else 4)) s.tick)
     | _ => .next s)
  | none => .next s

/-! Links. -/

/-- LINK_TRAINED (R412). -/
def execLinkTrained (link : Nat) (s : State) : Host.Outcome State Fault Refusal :=
  .next (modLink link (fun l => { l with up := true, credits := 2048, sent := [] }) s)

/-- LINK_DOWN (R408) (log 47). -/
def execLinkDown (link : Nat) (s : State) : Host.Outcome State Fault Refusal := .next (modLink link (fun l => { l with up := false }) s)

/-! Accesses from outside (R409, R410). -/

/-- A store from outside performs at the home slice: no cluster is its own (R142, R144). Its traffic has an activity of its own (R130). -/
def storeOutside (act pa : Nat) (b : List Byte) (s : State) : State :=
  traffic act false ((List.range b.length).map (pa + ·)) <| s.performBytes homeAgent 0 (b.zipIdx.filterMap fun x => let k := pa + x.2; if !s.shut k then some (0, k, x.1) else none)

/-- The bytes that a read from outside returns: before reduced service zeros (R419), and where a byte is out of service (log 46). -/
def readOutside (s : State) (ks : List Nat) : List Byte := ks.map fun k => if s.dev.boot ≠ 0 || s.shut k then 0 else s.byte k

/-- An access from outside: a read changes nothing but the answer, the traffic and which lines of L2 are recent. Before reduced service a write
is not taken (R419, log 3). -/
def outside (act pa : Nat) (write : Bool) (data : List Byte) (s : State) : State :=
  let ks := (List.range data.length).map (pa + ·)
  let reply := fun (s : State) => { s with env := { s.env with answer := readOutside s ks } }
  if s.dev.boot ≠ 0 then (if write then s else reply s)
  else if write then takeEdits pa data.length (storeOutside act pa data s)
  else reply (traffic act false ks ((blocksOf ks).foldl (fun s b => (s.touch (2 * b)).touch (2 * b + 1)) s))

/-- HOST_ACCESS (R410). -/
def execHostAccess (pa : Nat) (write : Bool) (data : List Byte) (s : State) : Host.Outcome State Fault Refusal :=
  .next (outside 6 pa write data s)

/-- INBOUND_FABRIC_ACCESS (R409). -/
def execInboundFabricAccess (pa : Nat) (write : Bool) (data : List Byte) (s : State) : Host.Outcome State Fault Refusal :=
  .next (outside 4 pa write data s)

end Sys2Proof.Machine
end

