-- ==== Sys2Proof/Machine/Launch.lean ====
section
/-! DEFINITION. Machine/Launch.lean: launches, stage queues and task slots (R366-R388): LAUNCH, TASKSET and TASKDEC, admission,
dispatch, task start (R63-R65, R438), staging, overruns, reruns, the end of a task (R186) and the host launch queue. -/

namespace Sys2Proof.Machine

/-! Issue. -/

/-- LAUNCH (R385). -/
def execLaunch (k : Tok) (rec : SCode) (s : State) : Host.Outcome State Fault Refusal :=
  let i := Instr.launch k rec
  runOp i (fun t => sendCmd i k (slotTag i t) (fun c => { c with caps := [t.sc rec] }) t) s

/-- TASKSET (R384, R386): a release over all classes at `.dev`. -/
def execTaskset (k : Tok) (ent slot : SCode) (s : State) : Host.Outcome State Fault Refusal :=
  let i := Instr.taskset k ent slot
  runOp i (fun t =>
    let a := t.sc ent
    if a.toNat % 64 ≠ 0 then .trap (t.cause 0x0D 0 a)
    else sendCmd i k (slotTag i t)
      (fun c => { c with caps := [a, t.sc slot], waits := releaseWaits 3 none [] t }) t) s

/-- TASKDEC (R387): a release over all classes at `.dev`, or at `.sys`. -/
def execTaskdec (k : Tok) (val : SCode) (s : State) : Host.Outcome State Fault Refusal :=
  let i := Instr.taskdec k val
  runOp i (fun t =>
    let v := t.sc val
    let scope := if v.getLsbD 50 then 4 else 3
    sendCmd i k (slotTag i t) (fun c => { c with caps := [v], waits := releaseWaits scope none [] t }) t) s

/-! The launch record (R367-R371, R188). -/

/-- The scheduler's accesses, under a record's address space: an agent that is no context. -/
def schedCmd (asid : BitVec 16) : Cmd := { id := 0, agent := homeAgent, op := .nopX, asid := asid }

/-- Every byte of a range of a list is zero. -/
def zeroIn (d : List Byte) (ofs n : Nat) : Bool := ((d.drop ofs).take n).all (· == 0)

/-- The sum of the widths of the first n fields of an identifier format (R188). -/
def widSum (f : Nat) : Nat → Nat
  | 0 => 0
  | n + 1 => widSum f n + f / 2 ^ (7 * n) % 128

/-- A legal identifier format (R188). -/
def widOk (f : Nat) : Bool :=
  f / 2 ^ 45 == 0 && f / 2 ^ 42 % 8 != 7 && (List.range 6).all (fun k => decide (f / 2 ^ (7 * k) % 128 ≤ 64)) && decide (widSum f 6 ≤ 64)

/-- NSTG. -/
def lrStages (h : List Byte) : Nat := numAt h 2 1
/-- ASID of the record. -/
def lrAsid (h : List Byte) : BitVec 16 := .ofNat 16 (numAt h 4 2)
/-- WIDFMT. -/
def lrWid (h : List Byte) : Nat := numAt h 8 8
/-- NINIT. -/
def lrInit (h : List Byte) : Nat := numAt h 0x28 4

/-- The header obeys R367 and R188. -/
def headerOk (h : List Byte) : Bool :=
  numAt h 0 2 == 1 && decide (1 ≤ lrStages h) && decide (lrStages h ≤ 8) && zeroIn h 3 1 && zeroIn h 6 2 && widOk (lrWid h) &&
    numAt h 0x10 8 % 64 == 0 && numAt h 0x18 8 % 64 == 0 && numAt h 0x20 8 % 64 == 0 && decide (lrInit h ≤ 65536) &&
    zeroIn h 0x2C 84

/-- PROG of a stage descriptor (R370). -/
def sdProg (d : List Byte) : W64 := .ofNat 64 (numAt d 0 8)
/-- RIMG. -/
def sdRimg (d : List Byte) : W64 := .ofNat 64 (numAt d 8 8)
/-- TITAB. -/
def sdTitab (d : List Byte) : W64 := .ofNat 64 (numAt d 0x10 8)
/-- SPIMG. -/
def sdSpimg (d : List Byte) : W64 := .ofNat 64 (numAt d 0x18 8)
/-- SPLEN. -/
def sdSplen (d : List Byte) : Nat := numAt d 0x20 4
/-- WIN. -/
def sdWin (d : List Byte) : Nat := numAt d 0x24 2
/-- PRI. -/
def sdPri (d : List Byte) : Nat := numAt d 0x26 1
/-- NEXT. -/
def sdNext (d : List Byte) : Nat := numAt d 0x27 1
/-- QCAP. -/
def sdCap (d : List Byte) : Nat := numAt d 0x30 4
/-- QBASE. -/
def sdQbase (d : List Byte) : W64 := .ofNat 64 (numAt d 0x28 8)
/-- HWM. -/
def sdHigh (d : List Byte) : Nat := numAt d 0x34 4
/-- LWM. -/
def sdLow (d : List Byte) : Nat := numAt d 0x38 4
/-- BUDGET. -/
def sdBudget (d : List Byte) : Nat := numAt d 0x3C 4
/-- CSCHED. -/
def sdSched (d : List Byte) : W64 := .ofNat 64 (numAt d 0x40 8)
/-- SLEN. -/
def sdSlen (d : List Byte) : Nat := numAt d 0x48 2
/-- LIFTCFG. -/
def sdLift (d : List Byte) : W64 := .ofNat 64 (numAt d 0x50 8)

/-- A power of two from 2 to 65,536. -/
def capOk (n : Nat) : Bool := (List.range 16).any fun j => n == 2 ^ (j + 1)

/-- LIFTCFG sets no reserved bit, and none of [39:32] (R330, R371). -/
def liftOk (v : Nat) : Bool := v / 2 ^ 54 == 0 && v / 2 ^ 28 % 2 ^ 12 == 0 && v / 2 ^ 10 % 64 == 0

/-- A stage descriptor obeys R370 and R371, in a launch of n stages. -/
def stageOk (n : Nat) (d : List Byte) : Bool :=
  numAt d 0 8 % 4 == 0 && numAt d 8 8 % 64 == 0 && sdSplen d % 256 == 0 && decide (sdSplen d ≤ 262144) &&
    (numAt d 0x18 8 != 0 || sdSplen d == 0) && sdWin d % 64 == 0 && decide (sdWin d ≤ 768) && decide (sdPri d ≤ 7) &&
    (sdNext d == 255 || decide (sdNext d < n)) && numAt d 0x28 8 % 64 == 0 && capOk (sdCap d) && decide (sdLow d < sdHigh d) &&
    decide (sdHigh d ≤ sdCap d) && numAt d 0x40 8 % 128 == 0 && decide (sdSlen d ≤ 256) && zeroIn d 0x4A 6 &&
    liftOk (numAt d 0x50 8) && zeroIn d 0x58 40

/-- WIN of a context-map word, in units of 64 registers (R368). -/
def cmWin (w : Nat) : Nat := w % 16
/-- STGM. -/
def cmStages (w : Nat) : Nat := w / 2 ^ 4 % 2 ^ 8
/-- TILES. -/
def cmTiles (w : Nat) : Nat := w / 2 ^ 12 % 2 ^ 8
/-- LATCH. -/
def cmLatch (w : Nat) : Nat := w / 2 ^ 20 % 16
/-- AQ. -/
def cmQueues (w : Nat) : Nat := w / 2 ^ 24 % 16

/-- No bit stands in two of a list of sets. -/
def disjointBits (n : Nat) (l : List Nat) : Bool := (List.range n).all fun b => decide ((l.filter fun v => v.testBit b).length ≤ 1)

/-- The words of the four contexts of a core obey R368. -/
def coreMapOk (ws : List Nat) : Bool :=
  ws.all (fun w => w / 2 ^ 28 == 0 && decide (cmWin w ≤ 12) && (cmWin w != 0 || w == 0)) && decide ((ws.map cmWin).sum ≤ 24) &&
    disjointBits 8 (ws.map cmTiles) && disjointBits 4 (ws.map cmQueues)

/-- The context map, a word for each context. -/
def cmapWords (b : List Byte) : List Nat := (List.range 2048).map fun a => numAt b (4 * a) 4

/-- The context map obeys R368. -/
def cmapOk (ws : List Nat) : Bool :=
  (List.range 512).all fun c => coreMapOk ((ws.drop (4 * c)).take 4)

/-- The scratchpad map obeys R369. -/
def smapOk (b : List Byte) : Bool := b.all fun x => x.toNat / 16 == 0 && x.toNat % 4 != 3 && x.toNat / 4 % 4 != 3

/-- The eight words of a queue entry. -/
def entryWords (b : List Byte) : List W64 := (List.range 8).map fun j => .ofNat 64 (numAt b (8 * j) 8)
/-- STG of an entry (R372). -/
def entryStage (ws : List W64) : Nat := (ws.getD 1 0).toNat % 256
/-- An entry obeys R372 in a launch of n stages. -/
def entryOk (n : Nat) (ws : List W64) : Bool := decide (entryStage ws < n) && (ws.getD 1 0).toNat / 256 == 0

/-- Consecutive chunks of n bytes. -/
def chunks (n : Nat) (b : List Byte) (k : Nat) : List (List Byte) := (List.range k).map fun j => (b.drop (n * j)).take n

/-- The initial entries obey R371. -/
def initOk (stages : List (List Byte)) (es : List (List W64)) : Bool :=
  es.all (entryOk stages.length) &&
    (List.range stages.length).all fun q => decide ((es.filter fun e => entryStage e == q).length ≤ sdCap (stages.getD q []))

/-- What a record holds. -/
structure Record where
  hdr    : List Byte
  stages : List (List Byte)
  cmap   : List Nat
  smap   : List Byte
  init   : List (List W64)

/-- Go on when a check of R371 holds. -/
def need {α : Type} (ok : Bool) (c : BitVec 8) (a : W64) (k : Eng α) : Eng α := if ok then k else .error (c, a)

/-- Read and check the record of a launch (R366, R371, R383, R385) (log 40). -/
def readRecord (l : Launch) (s : State) : Eng Record :=
  let m := schedCmd l.asid
  let at' := l.recAddr
  need (!l.bad && at'.toNat % 128 == 0) 0x0F at' <|
  (engRead m false at' 128 s).next fun h s =>
  need (lrAsid h == l.asid) 0x0A at' <|
  need (headerOk h) 0x0F at' <|
  let n := lrStages h
  (engRead m false (at' + 128) (128 * n) s).next fun sb s =>
  let ds := chunks 128 sb n
  need (ds.all (stageOk n)) 0x0F at' <|
  (engRead m false (.ofNat 64 (numAt h 0x10 8)) 8192 s).next fun cb s =>
  let ws := cmapWords cb
  need (cmapOk ws) 0x0F at' <|
  (engRead m false (.ofNat 64 (numAt h 0x18 8)) 512 s).next fun mb s =>
  need (smapOk mb) 0x0F at' <|
  (engRead m false (.ofNat 64 (numAt h 0x20 8)) (64 * lrInit h) s).next fun ib s =>
  let es := (chunks 64 ib (lrInit h)).map entryWords
  need (initOk ds es) 0x0F at' <|
  .ok (⟨h, ds, ws, mb, es⟩, s)

/-! Launches in the state. -/

/-- A launch by its number. -/
def findLaunch (s : State) (id : Nat) : Option Launch := s.dev.launches.find? fun l => l.id == id
/-- Change a launch. -/
def modLaunch (id : Nat) (f : Launch → Launch) (s : State) : State :=
  s.modDev fun d => { d with launches := d.launches.map fun l => if l.id == id then f l else l }
/-- A stage of a launch. -/
def stageOf (l : Launch) (q : Nat) : Stage := l.stages.getD q {}
/-- The descriptor of the stage of a task. -/
def descOf (s : State) (t : Task) : List Byte := ((findLaunch s t.launch).map fun l => (stageOf l t.stage).desc).getD []

/-- A stage is throttled from the moment the occupancy of its NEXT reaches HWM until it falls to LWM (R373). -/
def throttle (l : Launch) : Launch :=
  { l with stages := l.stages.map fun q =>
      let n := sdNext q.desc
      if n = 255 then q else
      let t := stageOf l n
      if sdHigh t.desc ≤ t.queue.length then { q with throttled := true }
      else if t.queue.length ≤ sdLow t.desc then { q with throttled := false } else q }

/-- Change a stage, and note who is throttled. -/
def modStage (id q : Nat) (f : Stage → Stage) (s : State) : State :=
  modLaunch id (fun l => throttle { l with stages := setAt l.stages q (f (stageOf l q)) }) s

/-- A stage's queue has room. -/
def hasRoom (l : Launch) (q : Nat) : Bool := decide ((stageOf l q).queue.length < sdCap (stageOf l q).desc)

/-- The lowest place of a queue's storage that holds no entry (log 41). -/
def freePlace (q : Stage) : Nat := ((List.range (q.queue.length + 1)).find? fun p => !q.queue.any fun e => e.place == p).getD 0

/-- An entry is written at its place in the storage of its queue, and L2 holds its line (R370, R372); a write that fails is lost (log 41). -/
def storeEntry (l : Launch) (q p : Nat) (ws : List W64) (s : State) : State :=
  let m := schedCmd l.asid
  let a := sdQbase (stageOf l q).desc + .ofNat 64 (64 * p)
  match engKeys m false .write a 64 s, engWrite m false a (ws.flatMap fun w => leBytes 8 w.toNat) s with
  | .ok (ks, _), .ok (_, t) =>
    modStage l.id q (fun q => { q with held := ((ks.filterMap Prod.snd).filter isLocal).foldl (fun h k => insertUp (k / 128) h) q.held }) t
  | _, _ => s

/-- Append an entry to its stage's queue. -/
def enqueue (id : Nat) (ws : List W64) (maker : Option Nat) (s : State) : State :=
  let q := entryStage ws
  let l := (findLaunch s id).getD {}
  let p := freePlace (stageOf l q)
  let e : QEntry := { words := ws, order := s.free, maker := maker, place := p }
  storeEntry l q p ws (modStage id q (fun q => { q with queue := q.queue ++ [e] }) s).tick

/-- Put an entry at the head of its stage's rerun list (R380). -/
def rerunHead (id q : Nat) (e : QEntry) (s : State) : State := modStage id q (fun t => { t with reruns := e :: t.reruns }) s

/-- Write 8 bytes at DONE, as a release at `.sys`; a DONE of 0 asks for none, and a write that fails is lost (R383). -/
def writeDone (l : Launch) (v : Nat) (s : State) : State :=
  if l.done = 0 then s else
  match engWrite (schedCmd l.asid) false l.done (leBytes 8 v) s with
  | .ok (_, s) => s
  | .error _ => s

/-- Tell the submission of a launch how it ended, and drop it (R376, R383, R385). -/
def closeLaunch (l : Launch) (cause : Option (BitVec 8)) (s : State) : State :=
  let s := s.modDev fun d => { d with launches := d.launches.filter fun x => x.id != l.id }
  match l.cmd with
  | some (core, id) =>
    (match cmdOf s core id with
     | some m => endCmd core m (cause.map fun c => (c, l.recAddr)) s
     | none => s)
  | none => writeDone l (match cause with | some c => 0x100 + c.toNat | none => 1) s

/-- Submit a launch (R366). -/
def submit (l : Launch) (s : State) : State :=
  s.modDev fun d => { d with launches := d.launches ++ [{ l with id := d.nextLaunch }], nextLaunch := d.nextLaunch + 1 }

/-! Admission (R366). -/

/-- Mode of bank b (0-15) of a cluster in a scratchpad map (R369). -/
def smapMode (b : List Byte) (cl k : Nat) : Nat := (b.getD (8 * cl + k / 2) 0).toNat / 4 ^ (k % 2) % 4

/-- No running launch holds a context or a bank that the record claims (R366). -/
def unclaimed (r : Record) (s : State) : Bool :=
  (s.ctxs.all fun x => x.2.allot.launch.isNone || cmWin (r.cmap.getD x.1 0) == 0) &&
    s.clusters.all fun x => x.2.banks.all fun b => b.2 % 4 == 0 || smapMode r.smap x.1 b.1 == 0

/-- Allot a context to a launch (R55, R207, R209, R304): its flags are cleared (R290) and its queues emptied (R307). -/
def allotCtx (id : Nat) (s : State) (x : Nat × Nat) : State :=
  let a := x.1
  let w := x.2
  let q := BitVec.ofNat 4 (cmQueues w)
  let s := s.modCtx a fun c => { c with
    flags := []
    allot := { window := 64 * cmWin w, tiles := .ofNat 8 (cmTiles w), latches := .ofNat 4 (cmLatch w), queues := q
               stages := .ofNat 16 (cmStages w), launch := some id } }
  if q = 0 then s else s.modCore (coreOf a) fun k => { k with aq := k.aq.filter fun e => !q.getLsbD e.1 }

/-- Map the banks of a cluster (R261, R369). -/
def mapBanks (id : Nat) (b : List Byte) (s : State) (cl : Nat) : State :=
  let ms := ((List.range 16).map fun k => (k, smapMode b cl k)).filter fun x => x.2 != 0
  if ms.isEmpty then s else
  s.modCluster cl fun c => ms.foldl (fun (c : Cluster) x =>
    { c with banks := mset 0 c.banks x.1 (x.2 + 4 * id), holders := mset none c.holders x.1 none }) c

/-- A launch is admitted (R366). -/
def admitLaunch (l : Launch) (r : Record) (s : State) : State :=
  let ws := ((List.range 2048).zip r.cmap).filter fun x => cmWin x.2 != 0
  let s := modLaunch l.id (fun l => { l with hdr := r.hdr, cmap := ws, admitted := true, stages := r.stages.map fun d => { desc := d } }) s
  let s := ws.foldl (allotCtx l.id) s
  let s := (List.range 64).foldl (mapBanks l.id r.smap) s
  r.init.foldl (fun s e => enqueue l.id e none s) s

/-- LAUNCH_ADMISSION (R366, R371): the oldest launch that is not admitted; it waits while what it claims is held,
and while full service waits to start (R421). -/
def execLaunchAdmission (s : State) : Host.Outcome State Fault Refusal :=
  match (if s.dev.switching || s.dev.boot != 0 then none else s.dev.launches.find? fun l => !l.admitted) with
  | none => .next s
  | some l =>
    match readRecord l s with
    | .error (c, _) => .next (closeLaunch l (some c) s)
    | .ok (r, t) => .next (if unclaimed r s then admitLaunch l r t else s)

/-! Groups (R190, R191). -/

/-- The key of a group: the fields from Wg to W5 of an identifier (R190). -/
def groupKey (fmt : Nat) (wid : W64) : W64 :=
  .ofNat 64 (wid.toNat % 2 ^ widSum fmt 6 / 2 ^ widSum fmt (fmt / 2 ^ 42 % 8))
/-- The key of an entry of a launch. -/
def keyOfEntry (l : Launch) (e : QEntry) : W64 := groupKey (lrWid l.hdr) (e.words.getD 0 0)

/-- The cluster that a group is bound to. -/
def boundTo (s : State) (id : Nat) (key : W64) : Option Nat :=
  (List.range 64).find? fun cl => (s.cluster cl).groups.contains (id, key)

/-- A context may run a stage of its launch (R55, R373). -/
def fits (l : Launch) (q : Nat) (c : Ctx) : Bool :=
  c.allot.launch == some l.id && c.allot.stages.getLsbD q && decide (0 < c.allot.window) &&
    decide (sdWin (stageOf l q).desc ≤ c.allot.window)

/-- The free contexts of a cluster that a stage may run on. -/
def freeIn (s : State) (l : Launch) (q cl : Nat) : Nat :=
  ((List.range 32).filter fun j => (s.ctx (32 * cl + j)).mode == .empty && fits l q (s.ctx (32 * cl + j))).length

/-- The clusters that a group may be bound to: the host's choice among them (log 22), or the one with the most free contexts, a tie
going to the lowest number (R191). -/
def mayBind (s : State) (l : Launch) (q cl : Nat) : Bool :=
  let can := fun (k : Nat) => decide ((s.cluster k).groups.length < 64) && decide (0 < freeIn s l q k)
  can cl && (s.dev.svcmode.getLsbD 3 ||
    (List.range 64).all fun k => !can k || decide (freeIn s l q k < freeIn s l q cl) || (freeIn s l q k == freeIn s l q cl && decide (cl ≤ k)))

/-- A group may run on a cluster (R191, R373). -/
def groupOk (s : State) (l : Launch) (q : Nat) (key : W64) (cl : Nat) : Bool :=
  match boundTo s l.id key with
  | some k => k == cl
  | none => mayBind s l q cl

/-- Bind a group; a record of the binding is traced (R203). -/
def bindGroup (id : Nat) (key : W64) (a : Nat) (s : State) : State :=
  match boundTo s id key with
  | some _ => s
  | none =>
    let cl := clusterOf a
    traceRec cl 10 7 a key (.ofNat 64 cl) (s.modCluster cl fun c => { c with groups := c.groups ++ [(id, key)] })

/-- Free a group's entry when it has no task running, staged or ready (R191). -/
def releaseGroup (id : Nat) (key : W64) (s : State) : State :=
  match findLaunch s id with
  | none => s
  | some l =>
    let mine := fun (e : QEntry) => keyOfEntry l e == key
    let running := s.ctxs.any fun x => x.2.mode != .empty && x.2.task.launch == id && !isAccess x.1 && mine x.2.task.entry
    let staged := s.cores.any fun x => match x.2.staged with | some t => t.launch == id && mine t.entry | none => false
    let ready := l.stages.any fun q => q.queue.any mine || q.reruns.any mine
    if running || staged || ready then s
    else { s with clusters := s.clusters.map fun x => (x.1, { x.2 with groups := x.2.groups.filter (· != (id, key)) }) }

/-! Staging banks (R261, R262). -/

/-- The staging banks of a core that hold no task, 0-15 of its cluster. -/
def idleBanks (s : State) (core id : Nat) : List Nat :=
  let c := s.cluster (core / 8)
  [2 * (core % 8), 2 * (core % 8) + 1].filter fun b => mget 0 c.banks b == 2 + 4 * id && (mget none c.holders b).isNone

/-- Who holds a bank. -/
def holdBank (cl b : Nat) (h : Option Nat) (s : State) : State :=
  s.modCluster cl fun c => { c with holders := mset none c.holders b h }
/-- The banks that an agent holds pass to another, or are free. -/
def passBanks (frm : Nat) (h : Option Nat) (s : State) : State :=
  { s with clusters := s.clusters.map fun x =>
      (x.1, { x.2 with holders := x.2.holders.filterMap fun b => if b.2 = some frm then h.map fun n => (b.1, some n) else some b }) }

/-- The agent under which a Madder session and its staging bank are held changes (R262, R321). -/
def passHoldings (frm to' : Nat) (s : State) : State :=
  let s := passBanks frm (some to') s
  { s with clusters := s.clusters.map fun x =>
      if x.2.merge.opened && x.2.merge.owner = frm then (x.1, { x.2 with merge := { x.2.merge with owner := to' } }) else x }

/-- Fill a bank with bytes and zeros; its barrier tags are clear (R262). -/
def fillBank (cl b : Nat) (bs : List Byte) (s : State) : State :=
  let k := padKey cl (b * 2 ^ 18)
  let s := retire (fun g => decide (k / 16 ≤ g) && decide (g < (k + 2 ^ 18) / 16)) s
  State.setBytes { s with mem := dropRange s.mem k (k + 2 ^ 18) } k bs

/-! Dispatch (R373). -/

/-- A saved task resumes where the same tiles, latches and queues are allotted (R226, R303), in a window no smaller. -/
def imageFits (s : State) (n : Nat) (c : Ctx) : Bool :=
  let i := (s.ctx n).allot
  i.tiles == c.allot.tiles && i.latches == c.allot.latches && i.queues == c.allot.queues && decide (i.window ≤ c.allot.window)

/-- A saved task holds a staging bank of the core: a bank that holds no running task (R262). -/
def holdsOn (s : State) (n core : Nat) : Bool :=
  let held := (s.cluster (core / 8)).holders
  [2 * (core % 8), 2 * (core % 8) + 1].any fun b => mget none held b == some n

/-- A task of stage q, or the saved task n of it, finds on a core the staging bank that its scratchpad image needs (R262, R373). -/
def bankFor (s : State) (l : Launch) (q core : Nat) (image : Option Nat) : Bool :=
  sdSplen (stageOf l q).desc == 0 || !(idleBanks s core l.id).isEmpty || image.any fun n => holdsOn s n core

/-- An entry of stage q is eligible for a context (R373). -/
def eligible (s : State) (l : Launch) (q a : Nat) (e : QEntry) : Bool :=
  fits l q (s.ctx a) && !(stageOf l q).throttled && groupOk s l q (keyOfEntry l e) (clusterOf a) &&
    bankFor s l q (coreOf a) e.image && e.image.all fun n => imageFits s n (s.ctx a)

/-- A stage's ready queue (R372). -/
def readyQueue (t : Stage) : List QEntry := t.reruns ++ t.queue

/-- The eligible entries of a stage: their places in the ready queue. -/
def eligiblePlaces (s : State) (l : Launch) (q a : Nat) : List Nat :=
  let r := readyQueue (stageOf l q)
  (List.range r.length).filter fun j => match r[j]? with | some e => eligible s l q a e | none => false

/-- The rank of stages (R373): occupancy at HWM first, then PRI, then the earlier entry, then the number. -/
def ahead (l : Launch) (x y : Nat × Nat) : Bool :=
  let full := fun (q : Nat) => decide (sdHigh (stageOf l q).desc ≤ (stageOf l q).queue.length)
  let pri := fun (q : Nat) => sdPri (stageOf l q).desc
  let ord := fun (z : Nat × Nat) => (((readyQueue (stageOf l z.1))[z.2]?).map fun (e : QEntry) => e.order).getD 0
  if full x.1 != full y.1 then full x.1
  else if pri x.1 ≠ pri y.1 then decide (pri y.1 < pri x.1)
  else if ord x ≠ ord y then decide (ord x < ord y)
  else decide (x.1 ≤ y.1)

/-- The scheduler's choice for a context: a stage and a place in its ready queue; the host's, in host-assisted dispatch, among all
eligible entries (R356, R373, log 22). -/
def chooseFor (s : State) (l : Launch) (a : Nat) : Option (Nat × Nat) :=
  let all := (List.range l.stages.length).map fun q => (q, eligiblePlaces s l q a)
  if s.dev.svcmode.getLsbD 3 then pickOne (all.flatMap fun x => x.2.map fun j => (x.1, j)) s
  else
    (all.filterMap fun x => x.2.head?.map fun j => (x.1, j)).foldl (fun best x =>
      match best with | none => some x | some b => if ahead l b x then some b else some x) none

/-- Take an entry out of a ready queue (R374). -/
def takeEntry (id q j : Nat) (s : State) : State :=
  modStage id q (fun t => if j < t.reruns.length then { t with reruns := t.reruns.eraseIdx j }
    else { t with queue := t.queue.eraseIdx (j - t.reruns.length) }) s

/-- The control registers at task start (R374, R375, R391, R397). -/
def startCtl (l : Launch) (d : List Byte) (q : Nat) (e : QEntry) (armed : Option (BitVec 6)) : Ctl :=
  let lc := sdLift d
  { asid := lrAsid l.hdr, prio := .ofNat 3 (sdPri d), dbgctl := armed.getD 0, runs := .ofNat 16 e.runs, stg := .ofNat 3 q
    lsbase := lc.extractLsb' 32 22, lssize := lc.extractLsb' 16 12, sib := lc.extractLsb' 0 10
    args := (List.range 6).foldl (fun m j => mset 0 m j (e.words.getD (2 + j) 0)) [] }

/-- A context becomes the home of a fresh task whose fills remain (R374). `bank` is its staging bank, filled when `pre`. -/
def beginTask (l : Launch) (q a : Nat) (e : QEntry) (bank : Option Nat) (pre : Bool) (bad : Option Trap) (s : State) : State :=
  let d := (stageOf l q).desc
  let c := s.ctx a
  let fills := if sdSplen d = 0 || (pre && bad.isNone) then 6 else 7
  let s := s.setCtx a
    { mode := .starting, pc := sdProg d, ctl := startCtl l d q e c.armed, flags := c.flags, allot := c.allot, noArea := c.noArea
      task := { tid := s.free, wid := e.words.getD 0 0, launch := l.id, stage := q, entry := e, fills := fills }
      sched := { base := sdSched d, slen := sdSlen d, tbv := bank.isSome, tbank := bank.getD 0 }, answer := bad }
  let s := match bank with | some b => holdBank (clusterOf a) b (some a) s | none => s
  (setDir a 1 s).tick

/-- The counts of two flag files together: each post counts once (R297). -/
def addFlags (a b : FMap W32) : FMap W32 :=
  b.foldl (fun m x => mset 0 m x.1 (.ofNat 32 (Nat.min ((mget 0 m x.1).toNat + x.2.toNat) (2 ^ 32 - 1)))) a

/-- A saved task moves to a context, which is to be restored (R226, R303, R398): its tiles and queues, and its area, become the
context's. The posts that met the context while it was empty join those that the image took along (R297). -/
def placeImage (l : Launch) (a n : Nat) (e : QEntry) (s : State) : State :=
  let i := imageOf s n
  let c := s.ctx a
  let t := s.ctx n
  let back := fun (m : Cmd) => { m with agent := a }
  let s := (s.setCtx a { t with
    flags := addFlags t.flags c.flags, allot := c.allot, saver := 0x31, answered := some 0, armed := c.armed, noArea := false
    task := { t.task with launch := l.id, entry := { e with image := none }, used := 0 } }).setCtx n {}
  let s := setImage n none (setImage a (some { i with cmds := i.cmds.map back, tiles := [], aq := [], busy := 0 }) s)
  let s := s.modCore (coreOf a) fun k => { k with
    tiles := (k.tiles.filter fun t => !c.allot.tiles.getLsbD t.1).foldr (fun t m => mset [] m t.1 t.2) i.tiles
    busy := k.busy &&& ~~~c.allot.tiles ||| i.busy
    aq := (k.aq.filter fun q => !c.allot.queues.getLsbD q.1).foldr (fun q m => mset [] m q.1 q.2) i.aq }
  let s := passHoldings n a s
  let k := dirKey s a
  if s.shut k then s else
  let own := s.readLE k 8
  let s := if c.noArea then s else (s.poolPush (s.dev.imgpool.toNat * 32) (own / 2 ^ 22 % 2 ^ 24 * 2 ^ 22)).getD s
  s.homeLE k 8 (own / 2 ^ 46 * 2 ^ 46 + i.area + 3)

/-- A context whose area went with a saved task takes a fresh one from the pool; an empty pool is traced (R398). -/
def takeArea (a : Nat) (s : State) : Option State :=
  if !(s.ctx a).noArea then some s else
  match s.poolPop (s.dev.imgpool.toNat * 32) with
  | none => none
  | some (p, s) =>
    let k := dirKey s a
    let s := s.modCtx a fun c => { c with noArea := false }
    some (if !s.shut k then s.homeLE k 8 (p / 2 ^ 22 % 2 ^ 24 * 2 ^ 22 + (s.ctx a).dir.toNat) else s)

/-- An entry starts on a context. -/
def startEntry (l : Launch) (q a : Nat) (e : QEntry) (bank : Option Nat) (pre : Bool) (bad : Option Trap) (s : State) : State :=
  match e.image with
  | some n => placeImage l a n e s
  | none =>
    match takeArea a s with
    | some s => beginTask l q a e bank pre bad s
    | none => s

/-- The staged task of a core starts on a context that can run it (R378). -/
def stagedFor (s : State) (a : Nat) : Option (Launch × Staged) :=
  match (s.core (coreOf a)).staged with
  | none => none
  | some t =>
    match findLaunch s t.launch with
    | none => none
    | some l =>
      if fits l t.stage (s.ctx a) && t.entry.image.all (fun n => imageFits s n (s.ctx a) && bankFor s l t.stage (coreOf a) (some n)) then
        some (l, t)
      else none

/-- A context may take a task (R192, R398): it is empty and allotted, its core runs, and no pre-emption holds it. -/
def mayTake (s : State) (a : Nat) : Bool :=
  let c := s.ctx a
  let k := s.core (coreOf a)
  decide (a < 2048) && c.mode == .empty && c.allot.launch.isSome && decide (0 < c.allot.window) && !c.parked && !k.inReset && !k.gated

/-- A context without an area may take a fresh task only if the pool has one (R398). -/
def areaAt (s : State) (a : Nat) : Bool := !(s.ctx a).noArea || decide (0 < s.poolCount (s.dev.imgpool.toNat * 32))

/-- The entry that a context would take (R373, R378). -/
def entryFor (s : State) (a : Nat) : Option QEntry :=
  match stagedFor s a with
  | some x => some x.2.entry
  | none =>
    ((s.ctx a).allot.launch.bind (findLaunch s)).bind fun l => (chooseFor s l a).bind fun x => (readyQueue (stageOf l x.1))[x.2]?

/-- A context may take an entry: a saved task brings its area, and any other needs one (R398). -/
def takesEntry (s : State) (a : Nat) : Bool := mayTake s a && (entryFor s a).any fun e => e.image.isSome || areaAt s a

/-- A context finds the pool of areas empty, which is traced (R398). -/
def lacksArea (s : State) (a : Nat) : Bool := mayTake s a && (entryFor s a).any fun e => e.image.isNone && !areaAt s a

/-- TASK_DISPATCH (R373, R378, R398). -/
def execTaskDispatch (ctx : Nat) (s : State) : Host.Outcome State Fault Refusal :=
  if !mayTake s ctx then .next s else
  match stagedFor s ctx with
  | some (l, t) =>
    if t.entry.image.isNone && !areaAt s ctx then .next (traceRec (clusterOf ctx) 10 9 ctx 0 0 s)
    else .next (startEntry l t.stage ctx t.entry t.bank true (t.fault.map fun f => { cause := f.1, faddr := f.2 })
      (s.modCore (coreOf ctx) fun k => { k with staged := none }))
  | none =>
    match (s.ctx ctx).allot.launch.bind (findLaunch s) with
    | none => .next s
    | some l =>
      match chooseFor s l ctx with
      | none => .next s
      | some (q, j) =>
        match (readyQueue (stageOf l q))[j]? with
        | none => .next s
        | some e =>
          if e.image.isNone && !areaAt s ctx then .next (traceRec (clusterOf ctx) 10 9 ctx 0 0 s)
          else
            let t := bindGroup l.id (keyOfEntry l e) ctx (takeEntry l.id q j s)
            let bank := if sdSplen (stageOf l q).desc = 0 then none else (idleBanks t (coreOf ctx) l.id).head?
            .next (startEntry l q ctx e bank false none t.tick)

/-! Task start (R63-R65, R374, R438). -/

/-- The first byte of a list that is not zero. -/
def firstNonzero (bs : List Byte) : Option Nat := (List.range bs.length).find? fun j => bs.getD j 0 != 0

/-- A reserved byte that is not zero stops a fill (R65). -/
def mustZero {α : Type} (at' : W64) (bs : List Byte) (k : Eng α) : Eng α :=
  match firstNonzero bs with
  | some j => .error (0x0F, at' + .ofNat 64 j)
  | none => k

/-- The set bits of a mask, rising, from bit lo on. -/
def bitsOf (lo n m : Nat) : List Nat := (List.range n).filter fun j => decide (lo ≤ j) && m.testBit j

/-- Read a list of items of n bytes that stand one after the other. -/
def readItems (m : Cmd) (n : Nat) : List Nat → W64 → FMap Nat → State → Eng (FMap Nat)
  | [], _, acc, s => .ok (acc, s)
  | j :: js, a, acc, s => (engReadN m false a n s).next fun v s => readItems m n js (a + .ofNat 64 n) (mset 0 acc j v) s

/-- Read the blocks of vector registers (R63): a mask, zeros, and the registers. -/
def readBlocks (m : Cmd) (win : Nat) : List Nat → W64 → FMap Nat → State → Eng (FMap Nat)
  | [], _, acc, s => .ok (acc, s)
  | b :: bs, a, acc, s =>
    (engRead m false a 64 s).next fun h s =>
    mustZero (a + 8) (h.drop 8) <|
    let ks := bitsOf 0 64 (numAt h 0 8)
    match ks.find? fun k => decide (win ≤ 64 * b + k) with
    | some k => .error (0x0F, a + .ofNat 64 (k / 8))
    | none =>
      (readItems m 256 (ks.map (64 * b + ·)) (a + 64) acc s).next fun acc s =>
        readBlocks m win bs (a + 64 + .ofNat 64 (256 * ks.length)) acc s

/-- Read a register image (R63, R64). -/
def readImage (m : Cmd) (win : Nat) (a : W64) (s : State) : Eng Regs :=
  (engRead m false a 64 s).next fun h s =>
  let sm := numAt h 0 4
  let pm := numAt h 4 2
  let vb := numAt h 6 2
  if sm % 2 = 1 then .error (0x0F, a)
  else if pm % 2 = 1 then .error (0x0F, a + 4)
  else if vb / 2 ^ 12 ≠ 0 then .error (0x0F, a + 7)
  else
    mustZero (a + 16) (h.drop 16) <|
    let ss := bitsOf 1 32 sm
    let ps := bitsOf 1 16 pm
    let p := a + .ofNat 64 (64 + 8 * ss.length)
    let z := 64 + 8 * ss.length + 32 * ps.length
    let b := (z + 63) / 64 * 64
    (readItems m 8 ss (a + 64) [] s).next fun sv s =>
    (readItems m 32 ps p [] s).next fun pv s =>
    (engRead m false (a + .ofNat 64 z) (b - z) s).next fun pad s =>
    mustZero (a + .ofNat 64 z) pad <|
    (readBlocks m win (bitsOf 0 12 vb) (a + .ofNat 64 b) [] s).next fun vv s =>
    .ok ({ s := sv.map fun x => (x.1, .ofNat 64 x.2), p := pv.map fun x => (x.1, .ofNat 256 x.2), v := vv.map fun x => (x.1, .ofNat 2048 x.2)
           th := .ofNat 32 (numAt h 8 4), gen := .ofNat 32 (numAt h 12 4) }, s)

/-- A cause of the issue is traced (R406). -/
def traceTrap (t : Trap) (nest : Bool) (s : State) : State :=
  let a := s.issue.agent
  let c := (recordTrap t (epcOf t s) nest (s.ctx a)).ctl
  traceRec (clusterOf a) 3 t.cause (ctxNumber a) c.epc (finfoOf c) s

/-- A fault of a fill is a trap of the task at its entry bundle (R65, R438). -/
def fillFault (a : Nat) (t : Trap) (s : State) : State :=
  let s := s.modCtx a fun c => { c with mode := .ready, answer := none }
  takeTrap t (traceTrap t false (s.modIssue fun _ => { agent := a, here := (s.ctx a).pc, next := (s.ctx a).pc }))

/-- A context's fills end with a value, or with a fault of the task. -/
def fillWith {α : Type} (a : Nat) (r : Eng α) (k : α → State → State) (s : State) : State :=
  match r with
  | .ok (v, s) => k v s
  | .error (c, x) => fillFault a { cause := c.toNat, faddr := x } s

/-- A fill of the task has completed. -/
def doneFill (a n : Nat) (s : State) : State :=
  s.modCtx a fun c => { c with task := { c.task with fills := c.task.fills - n } }

/-- The register image (R64). -/
def fillRegs (a : Nat) (m : Cmd) (d : List Byte) (s : State) : State :=
  fillWith a (readImage m (s.ctx a).allot.window (sdRimg d) s) (fun r s => doneFill a 4 (s.modCtx a fun c => { c with regs := r })) s

/-- The tensor-identifier table (R212, R370). -/
def fillTable (a : Nat) (m : Cmd) (d : List Byte) (s : State) : State :=
  if sdTitab d = 0 then doneFill a 2 (s.modCtx a fun c => { c with tis := [] })
  else fillWith a (readItems m 128 (List.range 64) (sdTitab d) [] s)
    (fun t s => doneFill a 2 (s.modCtx a fun c => { c with tis := t.map fun x => (x.1, .ofNat 1024 x.2) })) s

/-- The scratchpad image (R262). -/
def fillPad (a : Nat) (m : Cmd) (d : List Byte) (s : State) : State :=
  fillWith a (engRead m false (sdSpimg d) (sdSplen d) s)
    (fun bs s => doneFill a 1 (fillBank (clusterOf a) (s.ctx a).sched.tbank bs s)) s

/-- The fills that remain, in order; a fault that the preload met is raised in its place (R438). A task whose fills are complete is
ready. -/
def runFills (a : Nat) : Nat → State → State
  | 0, s => s
  | n + 1, s =>
    let c := s.ctx a
    let d := descOf s c.task
    let m : Cmd := { id := 0, agent := a, op := .nopX, asid := c.ctl.asid }
    if c.mode != .starting then s
    else if 4 ≤ c.task.fills then runFills a n (fillRegs a m d s)
    else if 2 ≤ c.task.fills then runFills a n (fillTable a m d s)
    else if 1 ≤ c.task.fills then
      (match c.answer with
       | some t => fillFault a t s
       | none => runFills a n (fillPad a m d s))
    else (s.modCtx a fun c => { c with mode := .ready })

/-- TASK_START (R374, R438). -/
def execTaskStart (ctx : Nat) (s : State) : Host.Outcome State Fault Refusal := .next (runFills ctx 4 s)

/-! Staging (R378). -/

/-- The first context of a core for which R373 makes a choice: the launch, the stage and the place. -/
def stageChoice (s : State) (core : Nat) : Option (Launch × Nat × Nat × Nat) :=
  [4 * core, 4 * core + 1, 4 * core + 2, 4 * core + 3].findSome? fun a =>
    ((s.ctx a).allot.launch.bind (findLaunch s)).bind fun l => (chooseFor s l a).map fun x => (l, a, x.1, x.2)

/-- Fill a bank for a staged task: the fault of the read, if any (R262, R438). -/
def preload (asid : BitVec 16) (cl b : Nat) (d : List Byte) (s : State) : Option (Nat × W64) × State :=
  match engRead (schedCmd asid) false (sdSpimg d) (sdSplen d) s with
  | .ok (bs, s) => (none, fillBank cl b bs s)
  | .error (c, x) => (some (c.toNat, x), s)

/-- The line where the program of a staged entry goes on is fetched into the instruction cache (R378, log 11). -/
def stageCode (a : Nat) (asid : BitVec 16) (pc : Nat) (s : State) : State :=
  match s.place a asid (fun _ => false) (pc / 64 * 64) .exec with
  | .at k => (fetchCode a asid (pc / 64) k s).tick
  | .zero | .commit _ _ | .cause _ _ => s

/-- TASK_STAGING (R378). A bank that a staged task fills is held by 8,192 + core. -/
def execTaskStaging (core : Nat) (s : State) : Host.Outcome State Fault Refusal :=
  if (s.core core).staged.isSome || (s.core core).inReset || (s.core core).gated then .next s else
  match stageChoice s core with
  | none => .next s
  | some (l, a, q, j) =>
    match (readyQueue (stageOf l q))[j]? with
    | none => .next s
    | some e =>
      let d := (stageOf l q).desc
      let t := (bindGroup l.id (keyOfEntry l e) a (takeEntry l.id q j s)).tick
      let set := fun (bank : Option Nat) (f : Option (Nat × W64)) (t : State) =>
        let at' := match e.image with
          | some n => ((s.ctx n).ctl.asid, (s.ctx n).pc)
          | none => (lrAsid l.hdr, sdProg d)
        stageCode a at'.1 at'.2.toNat <| traceRec (core / 8) 10 10 a (e.words.getD 0 0) 0 (t.modCore core fun k => { k with staged := some ⟨l.id, q, e, bank, f⟩ })
      if e.image.isSome || sdSplen d = 0 then .next (set none none t)
      else
        match (idleBanks t core l.id).head? with
        | none => .next s
        | some b =>
          let r := preload (lrAsid l.hdr) (core / 8) b d t
          .next (set (some b) r.1 (holdBank (core / 8) b (some (8192 + core)) r.2))

/-- A rerun unstages the staged task that consumes its output (R380, R381): the bank is zeroed, and the entry goes to the head of its
stage's rerun list (log 41). -/
def unstage (core tid : Nat) (s : State) : State :=
  match (s.core core).staged with
  | none => s
  | some t =>
    if t.entry.maker != some tid then s else
    let s := s.modCore core fun k => { k with staged := none }
    let s := passBanks (8192 + core) none s
    let s := match t.bank with | some b => fillBank (core / 8) b [] s | none => s
    rerunHead t.launch t.stage t.entry s

/-! The end of a task (R186, R307, R322, R376, R380). -/

/-- The accesses that a context or program has issued and that have not performed are left behind when it ends: they go on performing, under a
number of their own (log 19); its range counters are freed, unless a save has done so (R172). -/
def leaveAccesses (a : Nat) (s : State) : State :=
  let c := s.ctx a
  if c.order.pend.isEmpty then s else
  let left := c.order.pend.map fun p => match p with
    | .fenceR sc u _ => Pend.fenceR sc u false
    | .store .. => p
    | .access .. => p
    | .fenceC .. => p
  ((s.setCtx (awayFrom a s.free) { order := { pend := dropFences left, split := c.order.split } }).modCtx a (Ctx.modPend fun _ => [])).tick.modCore (coreOf a)
    fun k => { k with counters := if c.mode == .saved || c.mode == .saving then k.counters else k.counters - countersHeld c }

/-- The context is empty: its queues, banks, session and group are released. -/
def emptyCtx (a : Nat) (s : State) : State :=
  let s := leaveAccesses a s
  let c := s.ctx a
  let core := coreOf a
  let key := groupKey (((findLaunch s c.task.launch).map fun l => lrWid l.hdr).getD 0) c.task.wid
  let s := s.setCtx a { allot := c.allot, flags := c.flags, armed := c.armed, noArea := c.noArea }
  let s := setImage a none s
  let s := s.modCore core fun k => dropBodies a { k with
    active := if k.active = some (a % 4) then none else k.active
    aq := k.aq.filter fun q => !c.allot.queues.getLsbD q.1 }
  let s := passBanks a none s
  let s := { s with clusters := s.clusters.map fun x =>
    if x.2.merge.opened && x.2.merge.owner = a then (x.1, { x.2 with merge := {} }) else x }
  setDir a 0 (releaseGroup c.task.launch key s)

/-- What the TASKEND wait of a context or program waits for, once its records have landed (R186, R208). -/
def endsNow (s : State) (a : Nat) : Bool :=
  let c := s.ctx a
  c.flow.records.isEmpty && c.toks.all (fun t => t.2.pend == 0) && c.past.all (fun t => t.2.pend == 0) && c.order.pend.isEmpty &&
    ((s.core (coreOf a)).busy &&& c.allot.tiles) == 0

/-- TASKEND_COMPLETE (R186, R376): the task's event is traced; an access program's end completes its ASTART (R300). -/
def execTaskendComplete (agent : Nat) (s : State) : Host.Outcome State Fault Refusal :=
  let c := s.ctx agent
  if c.mode != .blocked .taskend || !c.task.ending || !endsNow s agent then .next s
  else if isAccess agent then
    let core := coreOf agent
    match (s.core core).access with
    | none => .next s
    | some (_, id) => .next (endById core id none (freeProcessor core s))
  else
    .next (emptyCtx agent (traceRec (clusterOf agent) 5 c.task.stage agent 0 (c.ctl.ecnt.setWidth 64) s))

/-- The task of a context goes to the head of its stage's rerun list with RUNS + 1 (R380, R395), and the context is empty (log 41). -/
def rerunTask (a : Nat) (s : State) : State :=
  let t := (s.ctx a).task
  let e : QEntry := { t.entry with runs := Nat.min (t.entry.runs + 1) 65535, image := none }
  emptyCtx a (rerunHead t.launch t.stage e (unstage (coreOf a) t.tid s))

/-- TASK_RERUN (R380): the task that wrote RERUN ends without a release. -/
def execTaskRerun (ctx : Nat) (s : State) : Host.Outcome State Fault Refusal :=
  let c := s.ctx ctx
  if c.mode != .blocked .taskend || !c.task.rerun || !endsNow s ctx then .next s else .next (rerunTask ctx s)

/-- BUDGET_OVERRUN (R379): the scheduler asks for the pre-emption of a task past its budget. -/
def execBudgetOverrun (ctx : Nat) (s : State) : Host.Outcome State Fault Refusal :=
  let c := s.ctx ctx
  let b := sdBudget (descOf s c.task)
  let live := c.dir == 1 && c.mode != .starting
  .next (if live && b != 0 && decide (b * 65536 < c.task.used) then s.modCtx ctx fun c => { c with saver := 0x31 } else s)

/-- LAUNCH_COMPLETION (R376): nothing of the launch runs, is staged, saved, queued or armed. -/
def launchDone (l : Launch) (s : State) : Bool :=
  l.admitted && (s.ctxs.all fun x => isAccess x.1 || x.2.mode == .empty || x.2.task.launch != l.id) &&
    (s.cores.all fun x => match x.2.staged with | some t => t.launch != l.id | none => true) &&
    (l.stages.all fun q => q.queue.isEmpty && q.reruns.isEmpty) &&
    s.dev.slots.all fun x => !(x.2.armed || x.2.ready) || x.2.launch != l.id

/-- The resources of a launch are free (R261, R376). -/
def freeLaunch (id : Nat) (s : State) : State :=
  let s := { s with clusters := mmap (fun _ c => { c with
    groups := c.groups.filter fun g => g.1 != id
    holders := c.holders.filter fun b => mget 0 c.banks b.1 / 4 != id
    banks := c.banks.filter fun b => b.2 / 4 != id }) s.clusters }
  (s.ctxs.filter fun (x : Nat × Ctx) => x.2.allot.launch == some id).foldl (fun s x => s.modCtx x.1 fun c => { c with allot := {} }) s

/-- LAUNCH_COMPLETION (R376). -/
def execLaunchCompletion (launch : Nat) (s : State) : Host.Outcome State Fault Refusal :=
  match findLaunch s launch with
  | none => .next s
  | some l => .next (if launchDone l s then closeLaunch l none (freeLaunch l.id s) else s)

/-! Task slots and task commands (R377, R385-R387). -/

/-- SLOT_ENQUEUE (R377): a ready slot's entry is enqueued when its stage has room and no slot for that stage reached 0 before it. -/
def execSlotEnqueue (slot : Nat) (s : State) : Host.Outcome State Fault Refusal :=
  let t := slotOf s slot
  let before := fun (x : Nat × TSlot) =>
    x.2.ready && x.2.launch == t.launch && entryStage x.2.entry == entryStage t.entry && decide (x.2.order < t.order)
  match findLaunch s t.launch with
  | none => .next s
  | some l =>
    if !t.ready || s.dev.slots.any before || !hasRoom l (entryStage t.entry) then .next s
    else .next (enqueue t.launch t.entry t.maker (setSlot slot {} s))

/-- The value of TASKSET is well formed (R386). -/
def tasksetOk (v : W64) : Bool :=
  let n := v.toNat
  n / 2 ^ 48 == 0 && n / 2 ^ 14 % 2 == 0 &&
    (if v.getLsbD 15 then n / 2 ^ 16 % 2 ^ 32 == 0 && n % 2 ^ 14 == 0 else n / 2 ^ 16 % 2 ^ 32 != 0)

/-- A TASKSET meets a stage queue that is full, or a slot that is in use: an event of the resource (R388, R406, log 20). -/
def traceTask (core : Nat) (m : Cmd) (data : Nat) (s : State) : State :=
  traceRec (core / 8) 10 5 (ctxNumber m.agent) m.pc (.ofNat 64 data) s

/-- A TASKSET whose entry is sound arms its slot, or enqueues or waits for room (R377, R386). -/
def tasksetAct (core : Nat) (m : Cmd) (l : Launch) (ws : List W64) (s : State) : State :=
  let v := m.cap 1
  let slot := v.toNat % 2 ^ 14
  let tid := (s.ctx m.agent).task.tid
  if v.getLsbD 15 then
    if hasRoom l (entryStage ws) then endCmd core m none (enqueue l.id ws (some tid) s)
    else modCmd core m.id (fun x => { x with started := true, caps := [m.cap 0, v] ++ ws }) (traceTask core m (0x200 + entryStage ws) s)
  else
    let t := slotOf s slot
    if t.armed || t.ready then endCmd core m (some (0x0A, 0)) (traceTask core m (0x4000 + slot) s)
    else endCmd core m none (setSlot slot { armed := true, counter := .ofNat 32 (v.toNat / 2 ^ 16 % 2 ^ 32), entry := ws, launch := l.id } s)

/-- A TASKSET begins (R386). -/
def tasksetStart (core : Nat) (m : Cmd) (s : State) : State :=
  let s := afterFences m s
  if !tasksetOk (m.cap 1) then endCmd core m (some (0x0F, 0)) s
  else
    match engRead m false (m.cap 0) 64 s with
    | .error e => endCmd core m (some e) s
    | .ok (b, s) =>
      let ws := entryWords b
      match findLaunch s (s.ctx m.agent).task.launch with
      | none => endCmd core m (some (0x0F, 0)) s
      | some l => if entryOk l.stages.length ws then tasksetAct core m l ws s else endCmd core m (some (0x0F, m.cap 0)) s

/-- The value of TASKDEC is malformed (R387). -/
def taskdecBad (v : W64) : Bool :=
  let n := v.toNat
  n / 2 ^ 51 != 0 || n / 2 ^ 14 % 4 != 0 || n / 2 ^ 16 % 2 ^ 16 == 0

/-- A TASKDEC sends its decrement (R387, R416). -/
def taskdecStart (core : Nat) (m : Cmd) (s : State) : State :=
  let v := m.cap 0
  let dev := v.toNat / 2 ^ 32 % 2 ^ 18
  if taskdecBad v then endCmd core m (some (0x0F, 0)) s
  else
    let s := modCmd core m.id (fun x => { x with started := true }) s
    if v.getLsbD 50 && dev != s.dev.devno.toNat then sendSignal (.remote m.waits none dev v 0 (some (core, m.id))) s
    else sendSignal (.slot m.waits core m.id (v.toNat % 2 ^ 14) (v.toNat / 2 ^ 16 % 2 ^ 16)) s

/-- A LAUNCH submits its record (R385). -/
def launchStart (core : Nat) (m : Cmd) (s : State) : State :=
  submit { recAddr := m.cap 0, asid := m.asid, cmd := some (core, m.id) } (modCmd core m.id (fun x => { x with started := true }) (afterFences m s))

/-- A task command whose consumed tokens have completed starts, or ends with their error (R284). -/
def taskCmd (core : Nat) (m : Cmd) (s : State) : State :=
  startOr core m (fun s =>
    match m.op with
    | .launch .. => launchStart core m s
    | .taskset .. => tasksetStart core m s
    | _ => taskdecStart core m s) s

/-- A queue-form TASKSET that waits for room and now finds it. -/
def waitingSet (s : State) (core : Nat) : Option (Cmd × Launch) :=
  (runningIn (s.core core) 5).findSome? fun m =>
    match m.op with
    | .taskset .. =>
      (match findLaunch s (s.ctx m.agent).task.launch with
       | some l => if hasRoom l (entryStage (m.caps.drop 2)) then some (m, l) else none
       | none => none)
    | _ => none

/-- TASKSET_ARM (R206, R384-R387): the core's task-command queue: a waiting TASKSET that finds room enqueues its entry; else the next
command starts. -/
def execTasksetArm (core : Nat) (s : State) : Host.Outcome State Fault Refusal :=
  match waitingSet s core with
  | some (m, l) => .next (tasksetAct core m l (m.caps.drop 2) s)
  | none =>
    match nextIn s core 5 with
    | none => .next s
    | some m => .next (taskCmd core m s)

/-! The host launch queue (R382, R383). -/

/-- LQTAIL_WRITE (R382): the host submits entries. -/
def execLqtailWrite (v : W64) (s : State) : Host.Outcome State Fault Refusal :=
  .next (s.modDev fun d => { d with lqtail := v.extractLsb' 0 7 })

/-- The entries submitted and not read (R382). -/
def ringCount (d : Device) : Nat :=
  if d.lqlog2 = 0 then 0 else (d.lqtail.toNat + 128 - d.lqhead.toNat) % 2 ^ d.lqlog2.toNat

/-- RING_ENTRY_READ (R383): the entry is read, HEAD advances, the launch is submitted. A ring that no access reaches gives free bytes
(log 46). Before reduced service none is read (R419). -/
def execRingEntryRead (s : State) : Host.Outcome State Fault Refusal :=
  if ringCount s.dev = 0 ∨ s.dev.boot ≠ 0 then .next s else
  let k := s.dev.lqbase.toNat * 2 ^ 12 + 32 * s.dev.lqhead.toNat
  let b := if !s.shut k then s.bytes k 32 else leBytes 32 (Config.bits s.free).toNat
  let s := s.modDev fun d => { d with lqhead := .ofNat 7 ((d.lqhead.toNat + 1) % 2 ^ d.lqlog2.toNat) }
  .next (submit { recAddr := .ofNat 64 (numAt b 0 8), asid := .ofNat 16 (numAt b 16 2), done := .ofNat 64 (numAt b 8 8)
                  bad := !zeroIn b 18 14 } s.tick)

/-- LAUNCH_QUEUE_RESET (R382, R407). -/
def execLaunchQueueReset (v : W64) (s : State) : Host.Outcome State Fault Refusal := .next (writeLqctl v s)

end Sys2Proof.Machine
end

