-- ==== Sys2Proof/Machine/Kill.lean ====
section
/-! DEFINITION. Machine/Kill.lean: KILL (R34, R60-R62), and the bundle without a slot word (R24). -/

namespace Sys2Proof.Machine

/-- The registers of a block that a mask names, inside the window of the agent (R60). -/
def killNames (s : State) (blk mask : Nat) : List Nat :=
  ((List.range 64).filter mask.testBit).filterMap fun k => if 64 * blk + k < windowOf s then some (64 * blk + k) else none

/-- Mark registers as killed; one killed and restored before still reads as zero (R60, R61). -/
def markKilled (s : State) (rs : List Nat) : State :=
  s.modMe fun c => { c with regs := { c.regs with
    killed := rs.foldl (fun m n => if mget 0 m n = 0 then mset 0 m n 1 else m) c.regs.killed } }

/-- KILL with a scalar mask (R60). -/
def execKillScalar (blk : BitVec 4) (mask : SCode) (s : State) : Host.Outcome State Fault Refusal :=
  runOp (.killScalar blk mask) (fun t => .ok (markKilled t (killNames t blk.toNat (t.sc mask).toNat))) s
/-- KILL of the low half of a block (R34). -/
def execKillImmLo (blk : BitVec 4) (imm : BitVec 32) (s : State) : Host.Outcome State Fault Refusal :=
  runOp (.killImmLo blk imm) (fun t => .ok (markKilled t (killNames t blk.toNat imm.toNat))) s
/-- KILL of the high half of a block (R34). -/
def execKillImmHi (blk : BitVec 4) (imm : BitVec 32) (s : State) : Host.Outcome State Fault Refusal :=
  runOp (.killImmHi blk imm) (fun t => .ok (markKilled t (killNames t blk.toNat (imm.toNat * 2 ^ 32)))) s

/-- HEADER_ONLY_BUNDLE (R24): the bundle has no slot of its own; the live sticky operations of its slots issue (R38). -/
def execHeaderOnlyBundle (s : State) : Host.Outcome State Fault Refusal := finish s (.ok s)

end Sys2Proof.Machine
end

