-- ==== Sys2Proof/Machine/Preempt.lean ====
section
/-! DEFINITION. Machine/Preempt.lean: pre-emption and resumption (R225, R226, R303, R379, R397-R400), the host's answers to services
(R395, R417), CTXCMD, debug stops and single steps (R402, R403), and the trace session (R405). An image is kept as a structure
(log 19). -/

namespace Sys2Proof.Machine

/-- The context holds a task that is not saved, stopped or still being filled. -/
def isLive (c : Ctx) : Bool :=
  match c.mode with
  | .ready | .active | .blocked _ => true
  | .empty | .starting | .stopped | .saving | .saved => false

/-- The context may issue. -/
def isRunnable (c : Ctx) : Bool := match c.mode with | .ready | .active => true | _ => false

/-! Saving (R399). -/

/-- An MMA or MMAS (R225). -/
def isProduct (m : Cmd) : Bool := match m.op with | .mmaScratchpad .. | .mmaVector .. | .mmas .. => true | _ => false

/-- The edge latch that a command names. -/
def latchNum (m : Cmd) : Option Nat := (info m.op).latch.map BitVec.toNat

/-- The agent's started commands that must complete before its image is whole: all but MMA and MMAS (R225). -/
def heldBack (s : State) (a : Nat) : Bool := (s.core (coreOf a)).cmds.any fun m => m.agent == a && m.started && !isProduct m

/-- The group at which a product stops: any from its next one to its end (R225, log 5). -/
def stopGroup (m : Cmd) (s : State) : Nat :=
  let z := productSize m (m.latch.getD {})
  m.group + Config.choice s.free % ((z.1 + z.2 - 1) / z.2 + 1 - m.group)

/-- A command of the array moves into an image, with the state and rows of its latch (R225). -/
def imageProduct (a core : Nat) (m : Cmd) (s : State) : State :=
  let i := imageOf s a
  setImage a (some { i with
      cmds := { m with started := false } :: i.cmds, latches := mset {} i.latches (productParts m.op).2.1.toNat (m.latch.getD {}) })
    (s.modCore core fun k => { k with cmds := k.cmds.filter fun x => x.id != m.id })

/-- A product in progress is interrupted (R225): in its loading phase its tile is saved unchanged; else it stops at a group, with its partial tile.
One that meets an error ends with it. -/
def saveProduct (a core : Nat) (m : Cmd) (s : State) : State :=
  if m.group = 0 && Config.choice (s.free + 1) % 2 = 0 then { imageProduct a core m s with free := s.free + 2 }
  else
    let g := stopGroup m s
    match productTo core m (some g) { s with free := s.free + 2 } with
    | .error e => endArray core m (some e) s
    | .ok ((tile, _), s) =>
      let p := productParts m.op
      imageProduct a core { m with latch := some (latchSeen core p.2.1.toNat (m.latch.getD {}) s), group := g } (setCmdTile core p.1 m tile s)

/-- The array's product, if it is the agent's, is interrupted (R225). -/
def saveProducts (a : Nat) (s : State) : State :=
  let core := coreOf a
  ((runningIn (s.core core) 0).filter fun m => m.agent == a && isProduct m).foldl (fun s m => saveProduct a core m s) s

/-- A restore leaves killed registers killed, and they then read as zero (R61, R62). -/
def ageKills (c : Ctx) : Ctx := { c with regs := { c.regs with killed := c.regs.killed.map fun x => (x.1, 2) } }

/-- A task that an overrun has saved goes to the tail of its stage's rerun list and leaves its context, with its pending accesses (R167, R379,
R398); the flags go with it, so that each post counts once (R297). It is kept under a number of its own (log 19). -/
def moveAway (a : Nat) (s : State) : State :=
  let c := s.ctx a
  let core := coreOf a
  let k := s.core core
  let n := awayFrom a s.free
  let key := dirKey s a
  let img := { imageOf s a with
    core := core, tiles := k.tiles.filter fun t => c.allot.tiles.getLsbD t.1
    aq := k.aq.filter fun q => c.allot.queues.getLsbD q.1, busy := k.busy &&& c.allot.tiles
    area := if !s.shut key then s.readLE key 8 / 2 ^ 22 % 2 ^ 24 * 2 ^ 22 else 0 }
  let s := passHoldings a n (setImage n (some img) (setImage a none s))
  let s := s.modCore core fun k => { k with
    busy := k.busy &&& ~~~c.allot.tiles, aq := k.aq.filter fun q => !c.allot.queues.getLsbD q.1 }
  let s := (s.setCtx n { c with saver := 0, answered := none }).setCtx a { allot := c.allot, armed := c.armed, noArea := true }
  let e : QEntry := { c.task.entry with image := some n }
  setDir a 0 (modStage c.task.launch c.task.stage (fun q => { q with reruns := q.reruns ++ [e] }) s).tick

/-- The program of an agent is dropped with its starter; its accesses keep performing (R302). -/
def dropProgram (a : Nat) (s : State) : State :=
  match programOf s a with
  | none => s
  | some (_, n) => if n < 4096 then freeProcessor (coreOf a) s else (leaveAccesses n s).setCtx n {}

/-- A task ends on the host's word (R394, R395, R417): its commands and its program are dropped, and its tiles are no longer busy. -/
def dropCmds (a : Nat) (s : State) : State :=
  (dropProgram a s).modCore (coreOf a) fun k => { k with
    cmds := k.cmds.filter fun m => m.agent != a, busy := k.busy &&& ~~~(s.ctx a).allot.tiles }

/-- The host's answer to a context's service takes effect once it is saved: 1 ends the task, 2 reruns it (R417). -/
def applyAnswer (a : Nat) (s : State) : State :=
  match (s.ctx a).answered with
  | some 1 => emptyCtx a (dropCmds a s)
  | some 2 => rerunTask a (dropCmds a s)
  | _ => s

/-- PREEMPTION_REQUEST (R399): a context of which a pre-emption is asked halts at this boundary; so does one whose task is being started. -/
def execPreemptionRequest (ctx : Nat) (s : State) : Host.Outcome State Fault Refusal :=
  let c := s.ctx ctx
  if (c.saver == 0x31 || c.saver == 0x32) && (isLive c || c.mode == .starting) then
    .next (saveCtx ctx c.saver (traceRec (clusterOf ctx) 4 0 ctx c.pc (.ofNat 64 c.saver) s))
  else .next s

/-- PREEMPTION_SAVE_COMPLETE (R399). -/
def execPreemptionSaveComplete (ctx : Nat) (s : State) : Host.Outcome State Fault Refusal :=
  let c := s.ctx ctx
  if c.mode != .saving || heldBack s ctx then .next s else
  let s := setDir ctx 3 (writeImage ctx ((saveProducts ctx s).modCtx ctx fun c => ageKills { c with mode := .saved }))
  let s := if c.saver = 0x32 then s.modDev fun d => { d with ctxbusy := false } else s
  .next (if c.saver = 0x31 then moveAway ctx s else applyAnswer ctx s)

/-! Resumption (R226, R303, R399). -/

/-- The queues of a core have room for a context's saved commands; an interrupted product takes no place in one. -/
def roomFor (k : Core) (ms : List Cmd) : Bool :=
  (List.range 6).all fun u =>
    decide ((waitingIn k u).length + (ms.filter fun m => unitOf m.op == u && !m.started && m.latch.isNone).length ≤ unitCap u)

/-- The core can take the context's engine state back (R206, R226). -/
def mayResume (s : State) (a : Nat) : Bool :=
  let k := s.core (coreOf a)
  !k.inReset && !k.gated && roomFor k (imageOf s a).cmds

/-- A saved context is restored (R226): its latches and commands return to the core, an interrupted product first; its range fences take counters
again (R172); its program waits for the access processor (R303). The lines that it had read ahead are dropped (log 11). -/
def restoreCtx (a : Nat) (s : State) : State :=
  let i := imageOf s a
  let c := s.ctx a
  let inArray := fun (m : Cmd) => m.latch.isSome
  let s := s.modCore (coreOf a) fun k => { k with
    cmds := i.cmds.filter inArray ++ k.cmds ++ i.cmds.filter fun m => !inArray m
    latches := i.latches.foldr (fun l m => mset {} m l.1 l.2) k.latches }
  let s := setImage a (i.prog.map fun p => { core := coreOf a, prog := some p }) (retakeCounters a c.order.pend [] s)
  let s := traceRec (clusterOf a) 4 1 a c.pc (.ofNat 64 c.saver) s
  setDir a 1 (s.modCtx a fun c => { c with
    mode := if c.task.fills != 0 && !c.ctl.priv then .starting else .ready
    saver := 0, answered := none, quantum := 0, waiting := 0, lines := [] })

/-- The host is asked about a poisoned context, and the cause is traced (R395, R406). -/
def askHost (a : Nat) (s : State) : State :=
  let c := s.ctx a
  postService a 0x3F c.ctl.faddr (finfoOf c.ctl) 0 false (unperformed s a)
    (traceRec (clusterOf a) 3 0x3F a c.ctl.epc (finfoOf c.ctl) (s.modCtx a fun c => { c with answered := none }))

/-- A command of CTXCMD has had its effect (R400). -/
def endBusy (s : State) : State := s.modDev fun d => { d with ctxbusy := false }

/-- CONTEXT_RESUME (R226, R356, R395): a saved context whose resumption has been asked for; a poisoned one raises 0x3F again. One that the host
has served resumes on any core: here, or, as a free value says, through its stage's rerun list (log 41). -/
def execContextResume (ctx : Nat) (s : State) : Host.Outcome State Fault Refusal :=
  let c := s.ctx ctx
  if c.mode != .saved || c.parked || c.answered != some 0 then .next s
  else if c.ctl.poisoned then .next (if c.saver = 0x32 then endBusy (askHost ctx s) else askHost ctx s)
  else if c.saver != 0x31 && c.saver != 0x32 && Config.choice s.free % 2 == 1 then .next (moveAway ctx s.tick)
  else .next (if mayResume s ctx then
      (let t := restoreCtx ctx s
       if c.saver = 0x32 then endBusy t else t)
    else s)

/-- A context is poisoned. -/
def poison (c : Ctx) : Ctx := { c with ctl := { c.ctl with poisoned := true } }

/-- MACHINE_CHECK (R395) (log 43). One of a context that is being saved, or is saved, poisons its image. -/
def execMachineCheck (ctx : Nat) (s : State) : Host.Outcome State Fault Refusal :=
  let c := s.ctx ctx
  match c.mode with
  | .empty => .next s
  | .saving | .saved => .next (askHost ctx (s.modCtx ctx fun c => poison { c with saver := if c.saver = 0x31 then 0x3F else c.saver }))
  | .ready | .active | .blocked _ | .stopped | .starting =>
    .next (saveCtx ctx 0x3F (askHost ctx (s.modCtx ctx poison)))

/-! The host's answers (R417). -/

/-- A record has still to be written, and the one of its index before it has been answered. -/
def recordDue (s : State) (x : Service) : Bool := x.waits && !(s.dev.services.any fun y => y.index == x.index && !y.waits)

/-- A record is written, and is outstanding until SVCDONE answers it, if the accesses it follows have performed. -/
def postRecord (x : Service) (s : State) : State :=
  let s := s.forceIds x.follows
  if s.anyPending x.follows then s
  else (writeRecord x s).modDev fun d => { d with services := { x with waits := false } :: d.services.erase x }

/-- The records that wait are written with the device's time; when is open (log 5). -/
def postRecords (s : State) : State :=
  match s.dev.services.find? (recordDue s) with
  | none => s
  | some x => if Config.choice s.free % 2 = 0 then s.tick else postRecord x s.tick

/-- The record of an index that the host has not answered, taken. -/
def takeService (index : Nat) (s : State) : Option (Service × State) :=
  match s.dev.services.find? fun x => x.index == index && !x.waits with
  | none => none
  | some x => some (x, s.modDev fun d => { d with services := d.services.erase x })

/-- The program of a context that waits for service goes on (R302), on the processor or, once it returns there, from where it is kept
(R303). -/
def resumeProgram (a : Nat) (s : State) : State :=
  match programOf s a with
  | none => s
  | some (_, n) => s.modCtx n fun c => { c with mode := if n < 4096 then .ready else c.mode, answer := none, hold := 0 }

/-- The program of a context ends with its fault, which service refuses (R302). -/
def refuseProgram (a : Nat) (s : State) : State :=
  match programOf s a with
  | none => s
  | some (id, n) =>
    let c := (s.ctx n).ctl
    if n < 4096 then endProgram (coreOf a) c.cause c.faddr s
    else
      let i := imageOf s a
      let out := ((i.cmds ++ (s.core (coreOf a)).cmds).find? fun m => m.id == id).bind fun m => m.out
      let s := setImage a (some { i with prog := none, cmds := i.cmds.filter fun m => m.id != id }) ((leaveAccesses n s).setCtx n {})
      completeToken a out (some (c.cause, c.faddr)) id
        (s.modCore (coreOf a) fun k => { k with cmds := k.cmds.filter fun m => m.id != id })

/-- The answer to a context's record: 0 resume, 1 end, 2 rerun. -/
def answerCtx (a k : Nat) (s : State) : State :=
  let s := s.modCtx a fun c => { c with answered := some k }
  if (s.ctx a).mode = .saved then applyAnswer a s else s

/-- The task that owns a Madder session ends or is rerun on the host's word. -/
def endOwner (index k : Nat) (s : State) : State :=
  let x := sessionOf s (index - 2048)
  if !x.opened then s else
  let s := dropCmds x.owner s
  if k = 2 then rerunTask x.owner s else emptyCtx x.owner s

/-- The agent that an answer is for, where its index is a context's or that of pool refill (R417). -/
def answeredAgent (index : Nat) (x : Service) : Option Nat :=
  if index < 2048 then some index else if index = 2113 then some x.agent else none

/-- SVCDONE_RESUME (R417). -/
def execSvcdoneResume (index : Nat) (arg : BitVec 32) (s : State) : Host.Outcome State Fault Refusal :=
  match takeService index s with
  | none => .next s
  | some (x, t) =>
    match answeredAgent index x with
    | some a => .next (if x.program then resumeProgram a t else answerCtx a 0 t)
    | none => if index < 2112 then .next (mergeAnswer (index - 2048) arg.toNat t) else .next t

/-- SVCDONE_END (R417). -/
def execSvcdoneEnd (index : Nat) (s : State) : Host.Outcome State Fault Refusal :=
  match takeService index s with
  | none => .next s
  | some (x, t) =>
    match answeredAgent index x with
    | some a => .next (if x.program then refuseProgram a t else answerCtx a 1 t)
    | none => if index < 2112 then .next (endOwner index 1 t) else .next t

/-- SVCDONE_RERUN (R395, R417). -/
def execSvcdoneRerun (index : Nat) (s : State) : Host.Outcome State Fault Refusal :=
  match takeService index s with
  | none => .next s
  | some (x, t) =>
    match answeredAgent index x with
    | some a => .next (if x.program then refuseProgram a t else answerCtx a 2 t)
    | none => if index < 2112 then .next (endOwner index 2 t) else .next t

/-! CTXCMD (R400). -/

/-- A command of CTXCMD: ignored while one is in progress (RES 3); RES 1 on a context without a task, 2 where its state does not allow
the command. -/
def ctxCommand (ctx : Nat) (ok : BitVec 3 → Bool) (k : State → State) (s : State) : State :=
  let d := (s.ctx ctx).dir
  let res := fun (n : BitVec 3) => s.modDev fun d => { d with ctxres := n }
  if s.dev.ctxbusy then res 3
  else if ok d then k (res 0)
  else if d = 0 then res 1 else res 2

/-- Mark a command as in progress. -/
def beginCmd (s : State) : State := s.modDev fun d => { d with ctxbusy := true }

/-- CTXCMD_PREEMPT (R400): the request comes next. -/
def execCtxcmdPreempt (ctx : Nat) (s : State) : Host.Outcome State Fault Refusal :=
  .next (ctxCommand ctx (· == 1) (fun s =>
    let s := beginCmd (s.modCtx ctx fun c => { c with saver := 0x32, parked := true })
    { s with agenda := .preemptionRequest ctx :: s.agenda }) s)

/-- CTXCMD_STOP (R400): the stop is raised at the context's next context cycle. -/
def execCtxcmdStop (ctx : Nat) (s : State) : Host.Outcome State Fault Refusal :=
  .next (ctxCommand ctx (· == 1) (fun s => (beginCmd s).modDev fun d => { d with ctxstop := some ctx }) s)

/-- CTXCMD_RESUME (R400): a stopped context is ready; one that PREEMPT saved is to be restored. The resume of a stop is no restore for what a killed
register reads as (R61, log 5). -/
def execCtxcmdResume (ctx : Nat) (s : State) : Host.Outcome State Fault Refusal :=
  let c := s.ctx ctx
  .next (ctxCommand ctx (fun d => d == 4 || (d == 3 && c.parked)) (fun s =>
    if c.dir = 4 then setDir ctx 1 (s.modCtx ctx fun c => { c with mode := .ready, lines := [], whole := none, waiting := 0, quantum := 0 })
    else beginCmd (s.modCtx ctx fun c => { c with parked := false, answered := some 0 })) s)

/-- CTXCMD_SETDBG (R400). -/
def execCtxcmdSetdbg (ctx : Nat) (dbg : BitVec 6) (s : State) : Host.Outcome State Fault Refusal :=
  .next (ctxCommand ctx (fun d => d == 1 || d == 3 || d == 4)
    (fun s => refreshItem ctx (.csr 7) (s.modCtx ctx fun c => { c with ctl := { c.ctl with dbgctl := dbg } })) s)

/-- CTXCMD_ARMDBG (R400). -/
def execCtxcmdArmdbg (ctx : Nat) (dbg : BitVec 6) (s : State) : Host.Outcome State Fault Refusal :=
  .next (ctxCommand ctx (fun _ => true) (fun s => s.modCtx ctx fun c => { c with armed := some dbg }) s)

/-! Debug (R402, R403). -/

/-- A debug stop is due before the next bundle of a context (R400, R402). -/
def stopDue (s : State) (a : Nat) : Bool :=
  let c := s.ctx a
  !c.ctl.priv && (s.dev.ctxstop == some a || (c.ctl.dbgctl.getLsbD 2 && c.ctl.ccyc == c.ctl.dbgstop && c.stopAt != some c.ctl.ccyc))

/-- A context that a debug cause has stopped writes its image (R402). -/
def writeStopped (a : Nat) (s : State) : State := if (s.ctx a).mode == .stopped then writeImage a s else s

/-- A debug cause is raised at a context's boundary. -/
def raiseDebug (a cause : Nat) (s : State) : State :=
  let c := s.ctx a
  let s := s.modIssue fun _ => { agent := a, here := c.pc, next := c.pc }
  writeStopped a (takeTrap { cause := cause } (traceTrap { cause := cause } c.ctl.priv s))

/-- A STOP by CTXCMD is over (R400). -/
def endStop (s : State) : State := s.modDev fun d => { d with ctxbusy := false, ctxstop := none }

/-- DEBUG_STOP (R402). A STOP by CTXCMD whose context holds no task any more ends with RES 1 (log 43). -/
def execDebugStop (ctx : Nat) (s : State) : Host.Outcome State Fault Refusal :=
  let c := s.ctx ctx
  let asked := s.dev.ctxstop == some ctx
  if asked && c.dir == 0 then .next ((endStop s).modDev fun d => { d with ctxres := 1 })
  else if !(stopDue s ctx && isRunnable c) then .next s
  else
    let s := raiseDebug ctx 0x28 (s.modCtx ctx fun c => { c with stopAt := some c.ctl.ccyc })
    .next (if asked then endStop s else s)

/-- SINGLE_STEP_STOP (R403): after one context cycle of a context with STEP set, or once a step to drain has drained. -/
def execSingleStepStop (ctx : Nat) (s : State) : Host.Outcome State Fault Refusal :=
  let c := s.ctx ctx
  if c.ctl.dbgctl.getLsbD 3 && !c.ctl.priv && isRunnable c then .next (raiseDebug ctx 0x2A (s.modCtx ctx fun c => { c with hold := 0 }))
  else .next s

/-! The trace session (R405). -/

/-- TRACE_OPEN (R405). -/
def execTraceOpen (cluster : Nat) (s : State) : Host.Outcome State Fault Refusal :=
  .next (if (s.cluster cluster).trace.opened then s else openTrace cluster s)

/-- TRACE_CLOSE (R405). -/
def execTraceClose (cluster : Nat) (s : State) : Host.Outcome State Fault Refusal := .next (closeTrace cluster 0 s)

end Sys2Proof.Machine
end

