-- ==== Sys2Proof/Machine/Timing.lean ====
section
/-! DEFINITION. Machine/Timing.lean: what happens between bundles: landings (R199), late data (R149, R99), the ends of blocks
(R193), quantum blocks and the choice of the active context (R195, R196), reading ahead (R174, R177), the channels' calendars
(R122-R136). -/

namespace Sys2Proof.Machine

/-! Landings and late data. -/

/-- RESULT_LANDING (R199): the records of an agent after one context cycle; none lands before its data has arrived. -/
def execResultLanding (agent : Nat) (s : State) : Host.Outcome State Fault Refusal :=
  .next (if lateNow (s.ctx agent) then s else landAll s agent)

/-- The loads and atomic operations of an agent that have not performed. -/
def pendingLoads (c : Ctx) : List Nat :=
  c.order.pend.filterMap fun p => match p with
    | .access id _ _ _ _ _ (.load ..) => some id
    | .access id _ _ _ _ _ (.amo ..) => some id
    | _ => none

/-- LATE_DATA_ARRIVAL (R149, R199): the late loads of an agent perform, as far as the order lets them, and their data arrives. -/
def execLateDataArrival (agent : Nat) (s : State) : Host.Outcome State Fault Refusal :=
  .next ((pendingLoads (s.ctx agent)).foldl (fun s id => s.performOne agent id) s)

/-- SFU_TAKE (R99): the unit takes the next operation 4 core cycles after the last; its result is ready 16 cycles later. -/
def execSfuTake (core : Nat) (s : State) : Host.Outcome State Fault Refusal :=
  let k := s.core core
  match k.sfuq with
  | [] => .next s
  | (a, id) :: r =>
    if (match k.sfuLast with | some t => decide (t + 4 ≤ k.cycle) | none => true) then
      .next (s.modCore core fun k => { k with sfuq := r, sfuLast := some k.cycle, sfuPipe := k.sfuPipe ++ [(a, id, k.cycle + 16)] })
    else .next s

/-- The results of the special-function unit that are ready. -/
def sfuReady (core : Nat) (s : State) : State :=
  let k := s.core core
  let due := k.sfuPipe.filter fun p => decide (p.2.2 ≤ k.cycle)
  if due.isEmpty then s else
  due.foldl (fun s p => fillRecord p.2.1 id s) (s.modCore core fun k => { k with sfuPipe := k.sfuPipe.filter fun p => decide (k.cycle < p.2.2) })

/-! Blocks. -/

/-- The cause of a KWAIT in a context's microcode holds still (R324). -/
def microWaits (s : State) (a : Nat) : Bool :=
  match (s.ctx a).flow.micro with
  | none => false
  | some m =>
    match cmdOf s (coreOf a) m.id with
    | none => false
    | some cmd => microBlock a m cmd s == some .micro

/-- A blocking cause has ended (R193); a translation wait, a wait for service and the TASKEND wait end by events of their own. The end of a link
ends no wait of a SEND or RECV: the rule names the credits and the entry alone (log 47). -/
def wakes (s : State) (a : Nat) (b : Blk) : Bool :=
  let k := s.core (coreOf a)
  let c := s.ctx a
  match b with
  | .queue q =>
    if q = 7 then (releaseList k a).isEmpty && decide ((waitingIn k 3).length < unitCap 3)
    else decide ((waitingIn k q).length < unitCap q)
  | .credits x n => decide (n ≤ (linkOf s x).credits)
  | .recv x => (linkOf s (x / 256)).rx.any fun m => m.1.toNat == x % 256
  | .aq q push => let n := (queueOf s (coreOf a) q).length; if push then decide (n < 64) else decide (0 < n)
  | .flag f n => decide (n ≤ (mget 0 c.flags f).toNat)
  | .token t => (mget ({} : Token) c.toks t).pend == 0
  | .bar _ key g => !s.live key || barGen s key != g.toNat
  | .late => !lateNow c
  | .order ids => !s.anyPending ids
  | .trans .. => false
  | .walk => false
  | .sfu => decide (k.sfuq.length < 4)
  | .taskend => false
  | .quantum => true
  | .micro => !microWaits s a

/-- A blocked agent is ready. -/
def wake (a : Nat) (s : State) : State := s.modCtx a fun c => { c with mode := .ready, waiting := 0 }

/-- BLOCK_END (R193). -/
def execBlockEnd (agent : Nat) (s : State) : Host.Outcome State Fault Refusal :=
  match (s.ctx agent).mode with
  | .blocked b => .next (if wakes s agent b then wake agent s else s)
  | _ => .next s

/-- TRANSLATION_ANSWER (R23, R140): the wait ends with the translation, or with the cause that the answer carries, which the bundle's next
evaluation takes; a CPREF meets none (R155). -/
def execTranslationAnswer (agent : Nat) (s : State) : Host.Outcome State Fault Refusal :=
  let c := s.ctx agent
  match c.mode with
  | .blocked (.trans slot va need) =>
    .next (wake agent (match s.place agent c.ctl.asid (bankOk s agent) va need with
      | .at _ => s.holdTr (coreOf agent) c.ctl.asid va
      | .zero => s
      | .commit _ _ => s
      | .cause k w => if need = .ahead then s else s.modCtx agent fun c => { c with answer := some { cause := k, slot := slot, faddr := .ofNat 64 va, wr := w } }))
  | _ => .next s

/-- The numbers of a core's contexts after one, modulo 4; the one itself comes last. -/
def roundFrom (n : Nat) : List Nat := [(n + 1) % 4, (n + 2) % 4, (n + 3) % 4, n % 4]

/-- The ready context that a core selects (R195): one that has been ready for 65,536 core cycles, the longest first; else the highest
PRIO, the first in the order after the context that was active last. -/
def selectNext (s : State) (core : Nat) : Option Nat :=
  let ready := (roundFrom (s.core core).last).filter fun j => isRunnable (s.ctx (4 * core + j))
  let best := fun (key : Nat → Nat) (l : List Nat) => l.foldl (fun (b : Option Nat) j =>
    match b with | none => some j | some i => if key i < key j then some j else b) none
  let wait := fun (j : Nat) => (s.ctx (4 * core + j)).waiting
  match best wait (ready.filter fun j => decide (65536 ≤ wait j)) with
  | some j => some j
  | none => best (fun j => (s.ctx (4 * core + j)).ctl.prio.toNat) ready

/-- A context becomes active (R195, R196). -/
def activate (core j : Nat) (s : State) : State :=
  let a := 4 * core + j
  traceRec (core / 8) 2 1 (ctxNumber a) (s.ctx a).pc 0
    ((s.modCore core fun k => { k with active := some j, last := j }).modCtx a fun c => { c with mode := .active, quantum := 0, waiting := 0 })

/-- A quantum block is due before the next issue (R196) (log 44). -/
def quantumDue (s : State) (a : Nat) : Bool :=
  decide (65536 ≤ (s.ctx a).quantum) && (s.core (coreOf a)).active == some (a % 4) &&
    (roundFrom (a % 4)).any fun j => j != a % 4 && isRunnable (s.ctx (4 * coreOf a + j))

/-- QUANTUM_BLOCK (R196): the first ready context after it is active next, whatever its priority. -/
def execQuantumBlock (agent : Nat) (s : State) : Host.Outcome State Fault Refusal :=
  if isAccess agent || !quantumDue s agent then .next s else
  let core := coreOf agent
  let s := traceRec (clusterOf agent) 2 2 (ctxNumber agent) (s.ctx agent).pc 8 s
  let s := s.modCtx agent fun c => { c with mode := .ready, waiting := 0, quantum := 0 }
  match (roundFrom (agent % 4)).find? fun j => isRunnable (s.ctx (4 * core + j)) with
  | some j => .next (activate core j s)
  | none => .next s

/-! Reading ahead (R174, R177). -/

/-- The place of a fetch line of an agent: its key, if it translates for execution (R179). -/
def fetchKey (s : State) (a line : Nat) : Place := s.place a (s.ctx a).ctl.asid (fun _ => false) (line * 64) .exec

/-- The bytes that have still to perform of the stores of which a part has: (key, byte). -/
def splitBytes (s : State) : List (Nat × Byte) :=
  s.ctxs.flatMap fun x => x.2.order.pend.flatMap fun p => match p with
    | .store id _ _ _ _ cells => if x.2.order.split.contains id then cells.map Prod.snd else []
    | .access .. => []
    | .fenceC .. => []
    | .fenceR .. => []

/-- A fetch line's bytes: all the old or all the new ones of each store (R177). -/
def lineBytes (s : State) (key : Nat) : BitVec 512 :=
  let new := splitBytes s
  .ofNat 512 (leNat ((List.range 64).map fun j => ((new.find? fun c => c.1 == key + j).map Prod.snd).getD (s.byte (key + j))))

/-- INSTRUCTION_FETCH (R174): the fetch unit reads a line at or after PC; how far it reads is left open (log 11). A line whose translation
fails is dropped. -/
def execInstructionFetch (agent : Nat) (s : State) : Host.Outcome State Fault Refusal :=
  let c := s.ctx agent
  let line := c.pc.toNat / 64 + Config.choice s.free % 64
  if c.lines.any (fun x => x.1 == line) then .next s.tick else
  match fetchKey s agent line with
  | .at k => .next ((fetchCode agent c.ctl.asid line k s).tick.modCtx agent fun c => { c with lines := (line, lineBytes s k) :: c.lines })
  | _ => .next s.tick

/-! Calendars (R121-R136). -/

/-- The slice of a line after a cluster has had the majority of its accesses in four windows (R145). -/
def movedTo (cl line : Nat) : Nat := 4 * cl + homeSlice line % 4

/-- Forwarding entries in use at a home slice (R145). -/
def forwardsAt (s : State) (h : Nat) : Nat := (s.dev.uses.filter fun x => homeSlice x.1 == h && x.2.away.isSome).length

/-- A line moves to a slice of a cluster, unless it lies in that cluster (R145): to a slice other than its home with a forwarding entry, for
which the home has room or the pause is traced (R147). -/
def moveLine (cl line : Nat) (s : State) : State :=
  let u := mget {} s.dev.uses line
  let home := homeSlice line
  let dest := movedTo cl line
  let put := fun (w : Option Nat) => traffic 3 false [128 * line] (s.modDev fun d => { d with uses := mset {} d.uses line { u with away := w } })
  if u.away.getD home / 4 = cl then s
  else if dest = home then put none
  else if u.away.isNone && decide (1024 ≤ forwardsAt s home) then traceLater (home / 4) 10 3 0 0 (.ofNat 64 (128 * line)) s
  else put (some dest)

/-- A window of a line's use ends (R145): the cluster of its majority, in how many windows running; after four the line moves. A moved line
returns when its host slice evicts it, which is left open (log 12). -/
def endWindow (line : Nat) (s : State) : State :=
  let u := mget {} s.dev.uses line
  let total := (u.by'.map Prod.snd).sum
  let best := (u.by'.find? fun c => decide (total < 2 * c.2) && decide (8 ≤ c.2)).map Prod.fst
  let run := match best with | none => 0 | some c => if u.major = c + 1 then u.run + 1 else 1
  let back := u.away.isSome && Config.choice s.free % 2 == 0
  let next : Use := { major := best.elim 0 (· + 1), run := run, away := if back then none else u.away }
  let s := s.tick.modDev fun d => { d with uses := mset {} d.uses line next }
  match best with
  | some c => if 4 ≤ run then moveLine c line s else s
  | none => s

/-- MIGRATION_WINDOW (R145): the windows of all lines end. -/
def execMigrationWindow (s : State) : Host.Outcome State Fault Refusal :=
  .next ((s.dev.uses.map Prod.fst).foldl (fun s l => endWindow l s) s)

/-- Owner of a slot of a channel (R124, R126). -/
def slotOwner (c : Channel) (ch slot : Nat) : Option Nat :=
  match mget 0 c.slots slot with
  | 0 => some ((slot + 1024 - 2 * ch) % 512)
  | 1 => none
  | n + 2 => some n

/-- The 460 slots of a refresh are reserved for its bank (R133, R134). -/
def reserved (c : Channel) (slot bank : Nat) : Bool :=
  c.refresh.any fun r => r.1 == bank && decide (r.2 ≤ slot) && decide (slot < r.2 + 460)

/-- The whole nanoseconds from one time to another (R123). -/
def sinceNs (now t : Nat) : Nat := (now + 2 ^ 41 - t) % 2 ^ 41

/-- The neighbour of a channel (R136). -/
def neighbour (ch : Nat) : Nat := if ch / 32 % 2 = 0 then ch + 32 else ch - 32

/-- The slots of a channel move 512 bytes: its neighbour has lent it its lanes (R136). -/
def isDoubled (s : State) (ch : Nat) : Bool := let n := s.channel (neighbour ch); n.lent && !n.shaking

/-- What a slot has read arrives 101 ns after the slot's start (R128, log 42). -/
def dueAfter : Nat := 101

/-- The data of a channel's slots that has arrived by now is in its records. -/
def deliverDue (ch : Nat) (s : State) : State :=
  let c := s.channel ch
  let now := c.due.filter fun d => decide (sinceNs s.time d.1 < 2 ^ 40)
  if now.isEmpty then s else
  now.foldl (fun s d => fillRecord d.2.1 (fun _ => d.2.2) s) (s.modChannel ch fun c => { c with due := c.due.filter fun d => !decide (sinceNs s.time d.1 < 2 ^ 40) })

/-- The lines of a channel that are dirty in L2 and whose write-back has not been asked for (R144). -/
def dirtyLines (ch : Nat) (s : State) : List Nat :=
  let asked := (s.channel ch).opens.filterMap Open.line
  s.l2.dirty.filter fun l => channelOf (128 * l) == ch && !asked.contains l

/-- L2 has to move the block of a request, as a free value has it (log 12). -/
def Open.made (r : Open) : Bool := match r.pick with | none => true | some n => Config.choice n % 2 == 1

/-- The write-backs of the lines of a channel that L2 has evicted join its requests (R130). -/
def askEvicted (ch : Nat) (s : State) : State :=
  let mine := s.l2.evicted.filter fun l => channelOf (128 * l) == ch
  (mine.map fun l => ({ act := 2, born := s.time, pa := 128 * l } : Open)).foldl (fun s r => askChannel r s)
    { s with l2 := { s.l2 with evicted := s.l2.evicted.filter fun l => channelOf (128 * l) != ch } }

/-- L2 makes the requests that it has to, and asks for the write-back of a dirty line of a channel, or not: lazily, as a free value has it
(R130, R144, log 12). -/
def askWriteBack (ch : Nat) (s : State) : State :=
  let s := (askEvicted ch s).modChannel ch fun c => { c with opens := c.opens.filter Open.made }
  match dirtyLines ch s with
  | [] => s
  | l :: ls =>
    match (l :: ls)[Config.choice s.free % (2 * (ls.length + 1))]? with
    | some x => (askChannel { act := 2, born := s.time, pa := 128 * x, line := some x } s).tick
    | none => s.tick

/-- A request is within its activity's budget (R130, R131). -/
def inBudget (c : Channel) (r : Open) : Bool :=
  let b := mget 1000 c.budgets r.act
  b == 1000 || decide (mget 0 c.used r.act < b)

/-- The request that an open slot goes to (R131): the oldest within its budget, of the lower activity in a tie, whose bank is not reserved. -/
def oldestOpen (c : Channel) (now slot : Nat) : Option Open :=
  (c.opens.filter fun r => inBudget c r && !reserved c slot (bankOf r.pa)).foldl (fun (b : Option Open) r =>
    match b with
    | none => some r
    | some q =>
      let a := sinceNs now q.born
      let n := sinceNs now r.born
      if a < n || (a == n && r.act < q.act) then some r else some q) none

/-- An open slot (R130-R132): its request is charged to its activity; after it the row is precharged, or, without the last-use-of-row bit,
may stay open (log 5), but not over a refresh of its bank (R134). A write-back brings memory up to date (R144). -/
def serveOpen (ch : Nat) (s : State) : State :=
  let c := s.channel ch
  match oldestOpen c s.time s.dev.phase with
  | none => s
  | some r =>
    let hold := !r.lur && Config.choice s.free % 2 == 1
    let s := match r.line with | some l => s.writeBack l | none => s
    (s.modChannel ch fun c => { c with
      opens := c.opens.erase r, used := mset 0 c.used r.act (mget 0 c.used r.act + 1)
      rows := if hold && !(c.refresh.any fun x => x.1 == bankOf r.pa && decide (s.dev.phase < x.2 + 460)) then insertUp (bankOf r.pa) c.rows else c.rows.filter (· != bankOf r.pa) }).tick

/-- A VLDC takes a slot (R128, R152): its 256 bytes are read, behind both cache levels, its row is precharged (R132), and the data is on its way. -/
def serveVldc (ch : Nat) (r : Nat × Nat × Nat × Nat) (s : State) : State :=
  let v : Vec := .ofNat 2048 (leNat ((List.range 256).map fun j => s.channelByte (r.2.2.2 + j)))
  (s.modChannel ch fun c => { c with
    reqs := c.reqs.erase r, due := c.due ++ [((s.time + dueAfter) % 2 ^ 41, r.2.2.1, v)]
    rows := c.rows.filter (· != bankOf r.2.2.2) }).arrived r.2.2.1

/-- The VLDC that a slot goes to (R128, R129): the oldest of the slot's owner that was issued at least 40 whole nanoseconds ago, whose bank is
not reserved, and which no earlier access of its agent holds back (R161, R164). So it stands too where a younger one of the core meets its own window in the slot, for which R128 has words of its own (log 42). -/
def vldcOf (c : Channel) (ch now slot : Nat) (free : Nat → Bool) : Option (Nat × Nat × Nat × Nat) :=
  c.reqs.find? fun r =>
    slotOwner c ch slot == some (coreOf r.2.1) && decide (40 ≤ sinceNs now r.1) && !reserved c slot (bankOf r.2.2.2) && free r.2.2.1

/-- CALENDAR_SLOT (R128-R136): what earlier slots have read arrives; the slot that starts now serves a VLDC of its owner, or is an open slot; one of
512 bytes serves open traffic with its second half. The slots of a dormant channel are idle (R135). -/
def execCalendarSlot (channel : Nat) (s : State) : Host.Outcome State Fault Refusal :=
  let s := askWriteBack channel (deliverDue channel s)
  let c := s.channel channel
  if c.dormant || c.lent || c.shaking then .next s else
  let s := match vldcOf c channel s.time s.dev.phase s.mayCome with
    | some r => serveVldc channel r s
    | none => serveOpen channel s
  .next (if isDoubled s channel then serveOpen channel s else s)

/-- BUDGET_PERIOD (R131): every activity may take its budget again; WATTS takes the draw over the last microsecond, which is left open
(R422, log 16). -/
def execBudgetPeriod (s : State) : Host.Outcome State Fault Refusal :=
  .next (s.tick.modDev fun d => { d with
    watts := Config.watts s.free, channels := d.channels.map fun x => (x.1, { x.2 with used := [] }) })

/-- An entry of the channel table is valid (R126, R127). -/
def calEntryOk (b : List Byte) : Bool :=
  numAt b 0 2 / 4 == 0 && (List.range 8).all (fun j => decide (numAt b (2 + 2 * j) 2 ≤ 1000)) && zeroIn b 0x12 46 &&
    (List.range 512).all fun j =>
      let e := numAt b (0x40 + 2 * j) 2
      e / 2 ^ 10 % 32 == 0 && (if e / 2 ^ 15 = 1 then decide (e % 2 ^ 10 < 512) else e % 2 ^ 10 == 0)

/-- The map that a valid entry gives: dormant, lend, budgets, slots. -/
def calEntry (b : List Byte) : Bool × Bool × FMap Nat × FMap Nat :=
  (numAt b 0 1 % 2 == 1, numAt b 0 1 / 2 % 2 == 1,
   (List.range 8).foldl (fun m j => mset 1000 m j (numAt b (2 + 2 * j) 2)) [],
   (List.range 512).map fun j => let e := numAt b (0x40 + 2 * j) 2; (j, if e / 2 ^ 15 = 1 then e % 2 ^ 10 + 2 else 1))

/-- CALENDAR_COMMIT (R127): the table is read; valid entries switch at the next rotation, an invalid one sets ERR, and so does one that lies
outside the channels (log 46). Reduced service ignores commits (R420). -/
def execCalendarCommit (s : State) : Host.Outcome State Fault Refusal :=
  if !s.dev.calbusy || s.dev.calread then .next s
  else if s.dev.reduced then .next (s.modDev fun d => { d with calbusy := false })
  else
    let base := s.dev.caltbase.toNat * 128
    .next ((List.range 256).foldl (fun t ch =>
      let k := base + 1088 * ch
      let b := s.bytes k 1088
      if !s.shut k && !s.shut (k + 1087) && calEntryOk b then t.modChannel ch fun c => { c with next := some (calEntry b) }
      else t.modDev fun d => { d with calerr := true }) (s.modDev fun d => { d with calread := true }))

/-- A channel switches to its committed entry (R127). -/
def switchChannel (c : Channel) : Channel :=
  match c.next with
  | none => c
  | some (dm, ln, bs, sl) => { c with dormant := dm, lend := ln, budgets := bs, slots := sl, next := none }

/-- The refresh of a rotation in one channel (R133, R134): postponed where open traffic holds a row of the bank open, but forced when the bank's
count is 8: then the burst that holds the row is cut at its next boundary, at this slot or the next as a free value has it (log 42). -/
def refreshChannel (bank pick : Nat) (c : Channel) : Channel :=
  let n := mget 0 c.counts bank
  let held := c.rows.contains bank
  if held && n != 8 then { c with refresh := none, counts := mset 0 c.counts bank (n + 1) }
  else { c with
    refresh := some (bank, if held then pick % 2 else 0), counts := mset 0 c.counts bank 0, rows := c.rows.filter (· != bank) }

/-- A channel is to lend its lanes (R136). -/
def lends (s : State) (ch : Nat) : Bool :=
  (s.channel ch).dormant && (s.channel ch).lend && !(s.channel (neighbour ch)).dormant && !s.dev.reduced

/-- The start of a rotation in one channel (R133, R136): its refresh, and the handshake that lends or returns lanes, which is complete within
3 µs of the commit. -/
def startRotation (s : State) (ch : Nat) (c : Channel) : Channel :=
  let c := refreshChannel (s.dev.rot % 32) (Config.choice (s.free + ch)) c
  if !c.shaking && lends s ch != c.lent then { c with shaking := true, shakeBy := (s.dev.calat + 3000) % 2 ^ 41 } else c

/-- The refreshes and handshakes of the rotation that starts. -/
def startRotations (s : State) : State :=
  { (List.range 256).foldl (fun t ch => t.modChannel ch (startRotation s ch)) s with free := s.free + 256 }

/-- CALENDAR_ROTATION (R122, R127, R133, R136): entries switch, handshakes begin, banks are reserved. -/
def execCalendarRotation (s : State) : Host.Outcome State Fault Refusal :=
  .next (startRotations (s.modDev fun d => { d with
    rot := (d.rot + 1) % 2 ^ 32, phase := 0, calbusy := d.calbusy && !d.calread, calread := false
    channels := d.channels.map fun x => (x.1, switchChannel x.2) }))

/-- LANE_LENDING_HANDSHAKE (R136): lanes are lent, or returned. -/
def execLaneLendingHandshake (channel : Nat) (s : State) : Host.Outcome State Fault Refusal :=
  .next (if (s.channel channel).shaking then
      s.modChannel channel fun c => { c with lent := lends s channel, shaking := false }
    else s)

/-- The channels in whose slots something may happen: a request or data that waits, or a line dirty in L2. -/
def busyChannels (s : State) : List Nat :=
  let l := s.dev.channels.filterMap fun x => if x.2.reqs.isEmpty && x.2.due.isEmpty && x.2.opens.isEmpty then none else some x.1
  (s.l2.dirty ++ s.l2.evicted).foldl (fun acc x => let n := channelOf (128 * x); if acc.contains n then acc else acc ++ [n]) l

/-- The events that a nanosecond brings (R122, R128, R131, R136, R145). -/
def nsEvents (s : State) : List Instr :=
  let t := s.time
  (if s.dev.period = 0 then [Instr.budgetPeriod] else []) ++ (if t % 1024 = 0 then [Instr.migrationWindow] else []) ++
    ((s.dev.channels.filter fun x => x.2.shaking && decide (sinceNs t x.2.shakeBy < 2 ^ 40)).map fun x => Instr.laneLendingHandshake x.1) ++
    (busyChannels s).map fun c => Instr.calendarSlot c

/-- A core cycle of the device has passed (R19, R123): PHASE follows, a rotation starts every 512 ns, and what falls due comes next. -/
def passCycle (s : State) : State :=
  let s := { s with clusters := mmap (fun _ c => { c with met := [] }) s.clusters }
  let den := 1000 + 50 * s.dev.clock.toNat
  let f := s.dev.frac + 1000
  if f < den then s.modDev fun d => { d with frac := f }
  else
    let s := s.modDev fun d => { d with frac := f - den, phase := d.phase + 1, period := (d.period + 1) % 1000 }
    let rot := if 512 ≤ s.dev.phase then [Instr.calendarRotation] else []
    let at' := if 512 ≤ s.dev.phase then { s with dev := { s.dev with phase := 0, rot := s.dev.rot + 1 } } else s
    { s with agenda := s.agenda ++ rot ++ nsEvents at' }

end Sys2Proof.Machine
end

