-- ==== Sys2Proof/Machine/Power.lean ====
section
/-! DEFINITION. Machine/Power.lean: bring-up, power and trust (R419-R426), cores in reset and gated (R296, R297), and writes of registers
that have no row of their own (R390). -/

namespace Sys2Proof.Machine

/-- CLOCK_STEP_CHANGE (R19, R422): STEP is 0 throughout reduced service, and at most 14. -/
def execClockStepChange (step : BitVec 4) (s : State) : Host.Outcome State Fault Refusal :=
  .next (if s.dev.reduced || decide (14 < step.toNat) then s
    else s.modDev fun d => { d with clock := step, frac := d.frac * (1000 + 50 * step.toNat) / (1000 + 50 * d.clock.toNat) })

/-- POWER_ON_RESET (R419): bring-up begins. What is fused stays; memory outside the scratchpads keeps its bytes, and the banks read as zero (R261,
log 3). -/
def execPowerOnReset (s : State) : Host.Outcome State Fault Refusal :=
  .next { State.reset with
    free := s.free + 1, mem := dropRange s.mem (2 ^ 64) (2 ^ 65), env := { s.env with answer := [] }
    dev := { State.reset.dev with firmware := s.dev.firmware.filter fun x => x.1 == 3 || x.1 == 4 } }

/-- FULL_SERVICE_SWITCH (R421): training has ended. The switch waits for the launches that run, and no other is admitted meanwhile. Rotation 0
starts (R122, R133). The clock takes the controller's setting, which is left open (log 5). -/
def execFullServiceSwitch (s : State) : Host.Outcome State Fault Refusal :=
  if !s.dev.reduced || s.dev.boot != 0 then .next s
  else if s.dev.launches.any (·.admitted) then .next (s.modDev fun d => { d with switching := true })
  else .next (startRotations (s.tick.modDev fun d => { d with
    reduced := false, switching := false, rot := 0, phase := 0, frac := 0, period := 0, clock := .ofNat 4 (Config.choice s.free % 15) }))

/-- The agents of a core. -/
def agentsOf (core : Nat) : List Nat := [4 * core, 4 * core + 1, 4 * core + 2, 4 * core + 3, 2048 + core]

/-- CORE_ENTERS_RESET (R296, R297): signals to it are refused; it issues nothing (log 23). -/
def execCoreEntersReset (core : Nat) (s : State) : Host.Outcome State Fault Refusal :=
  .next (s.modCore core fun k => { k with inReset := true })

/-- CORE_LEAVES_RESET (R296): its flag file is cleared. The flags of a saved context stand in its image, which stays (R290). -/
def execCoreLeavesReset (core : Nat) (s : State) : Host.Outcome State Fault Refusal :=
  .next ((agentsOf core).foldl (fun s a => s.modCtx a fun c => if c.mode == .saved then c else { c with flags := [] }) (s.modCore core fun k => { k with inReset := false }))

/-- A core without a task, a command or a program. -/
def coreIdle (s : State) (core : Nat) : Bool :=
  let k := s.core core
  (agentsOf core).all (fun a => (s.ctx a).mode == .empty) && k.cmds.isEmpty && k.access.isNone && k.staged.isNone

/-- A latch with free contents (log 5). -/
def freeLatch (n : Nat) : Latch :=
  { fmt := Config.choice n % 14, kl := Config.choice (n + 1) % 129
    rows := (List.range 128).foldl (fun m k => mset 0 m k (Config.bits (n * 1024 + 2 * k) ++ Config.bits (n * 1024 + 2 * k + 1))) [] }

/-- CORE_POWER_GATE (R296): an idle core keeps only its flag file and its banks; what its tiles, latches and counters hold after is left
open (log 5). -/
def execCorePowerGate (core : Nat) (s : State) : Host.Outcome State Fault Refusal :=
  if !coreIdle s core || (s.core core).gated then .next s else
  let n := s.free
  .next { s.modCore core fun k => { k with
      gated := true, tlb := [], sfuq := [], sfuPipe := [], sfuLast := none
      tiles := (List.range 8).foldl (fun m t => mset [] m t (freeTile (n + t))) []
      latches := (List.range 4).foldl (fun m e => mset {} m e (freeLatch (n + 8 + e))) []
      acyc := (List.range 5).foldl (fun m j => mset 0 m j ((Config.bits (n * 1024 + j)).setWidth 64)) [] }
    with free := n + 16 }

/-- CORE_POWER_UNGATE (R296). -/
def execCorePowerUngate (core : Nat) (s : State) : Host.Outcome State Fault Refusal :=
  .next (s.modCore core fun k => { k with gated := false })

/-- REGISTER_WRITE (R390): `unit` is the context of a context's register, the core's cluster for a trace unit's. -/
def execRegisterWrite (csel : BitVec 10) (unit : Nat) (v : W64) (s : State) : Host.Outcome State Fault Refusal :=
  .next (writeCsr true (if csel = 0x49 ∨ csel = 0x4A then 32 * unit else unit) csel v s)

/-! Signed images and attestation (R423-R426). The map `firmware` holds, by key: 1 and 2 the digests of the images in force, 3 and 4 the
fused minimum versions. -/

/-- Bytes of host memory. -/
def hostBytes (s : State) (pa n : Nat) : List Byte := s.bytes (hostKey pa) n

/-- A range lies in the host's physical address space. -/
def hostOk (pa n : Nat) : Bool := decide (pa + n ≤ 2 ^ 46)

/-- Bytes of a header and a signature (R423). -/
def imageHead : Nat := 72 + 4627

/-- The check of an image (R423): its kind and version, the digest of its body, and the signature over that digest under the fused key. -/
def imageOk (d : Device) (b : List Byte) : Bool :=
  let kind := numAt b 0 2
  decide (imageHead ≤ b.length) && (kind == 1 || kind == 2) && decide (mget 0 d.firmware (kind + 2) ≤ numAt b 2 2) &&
    numAt b 8 64 == (sha3 (b.drop imageHead)).toNat && Config.verify Config.rootKey ((b.drop 72).take 4627) (.ofNat 512 (numAt b 8 64))

/-- An accepted image is in force (R423, R424). -/
def takeImage (b : List Byte) (d : Device) : Device :=
  let kind := numAt b 0 2
  { d with firmware := mset 0 d.firmware kind (numAt b 8 64), microcode := d.microcode || kind == 2 }

/-- A command ends: STATUS is 1, or 0x100 plus a cause, an interrupt message goes to the host, and BUSY clears (R426). A block that the host's
memory does not hold takes no STATUS. -/
def endMgmt (blk : Nat) (cause : Option Nat) (s : State) : State :=
  let s := if hostOk (64 * blk) 64 then s.writeLE (hostKey (64 * blk + 0x30)) 8 (match cause with | none => 1 | some c => 0x100 + c) else s
  s.modDev fun d => { d with mgmt := none, irqs := d.irqs + 1 }

/-- A management command (R426): a write while none is in progress begins it; the event that ends it names its block too; any other write is
ignored. -/
def mgmtCmd (load : Bool) (blk : Nat) (run : State → State) (s : State) : State :=
  match s.dev.mgmt with
  | none => s.modDev fun d => { d with mgmt := some (load, blk) }
  | some c =>
    if c != (load, blk) then s
    else if !hostOk (64 * blk) 64 then endMgmt blk (some 0x0A) s
    else run s

/-- LOAD: the image takes effect when the check accepts it (R423, R424). -/
def loadImage (blk : Nat) (s : State) : State :=
  let c := hostBytes s (64 * blk) 64
  let pa := numAt c 0 8
  let n := numAt c 8 8
  if !hostOk pa n then endMgmt blk (some 0x0A) s else
  let b := hostBytes s pa n
  if !imageOk s.dev b then endMgmt blk (some 0x0F) s else endMgmt blk none (s.modDev (takeImage b))

/-- MGMTCMD_LOAD (R424, R426). `blk` holds address bits [45:6]. -/
def execMgmtcmdLoad (blk : Nat) (s : State) : Host.Outcome State Fault Refusal := .next (mgmtCmd true blk (loadImage blk) s)

/-- The report of ATTEST before its signature (R426). -/
def attestBody (d : Device) (nonce : List Byte) : List Byte :=
  leBytes 4 3 ++ leBytes 4 d.devno.toNat ++ leBytes 2 (mget 0 d.firmware 3) ++ leBytes 2 (mget 0 d.firmware 4) ++ leBytes 4 0 ++
    leBytes 64 (mget 0 d.firmware 1) ++ leBytes 64 (if d.microcode then mget 0 d.firmware 2 else 0) ++ nonce ++ leBytes 16 0

/-- ATTEST: the signed report goes into the buffer. -/
def attest (blk : Nat) (s : State) : State :=
  let c := hostBytes s (64 * blk) 64
  let pa := numAt c 0 8
  let n := numAt c 8 8
  if n < 4819 then endMgmt blk (some 0x0F) s
  else if !hostOk pa 4819 then endMgmt blk (some 0x0A) s
  else
    let body := attestBody s.dev ((c.drop 0x10).take 32)
    endMgmt blk none (s.setBytes (hostKey pa) (body ++ leBytes 4627 (Config.sign (sha3 body)).toNat))

/-- MGMTCMD_ATTEST (R425, R426). -/
def execMgmtcmdAttest (blk : Nat) (s : State) : Host.Outcome State Fault Refusal := .next (mgmtCmd false blk (attest blk) s)

/-! Bring-up (R419). -/

/-- The route table that bring-up loads (R408): a byte from 0 to 17 names a link; any other leaves its device unreachable. -/
def routeTable (l : FMap Nat) : FMap Nat := l.foldl (fun m r => if r.1 < 2 ^ 18 ∧ r.2 < 18 then mset 0 m r.1 (r.2 + 1) else m) []

/-- A step of bring-up (R419): the boot firmware is checked, and an image that fails is rejected; then the device number, the route table and the
mailbox base are loaded, and reduced service starts. -/
def bootStep (s : State) : State :=
  let b := s.env.boot
  if s.dev.boot = 2 then
    (if imageOk s.dev b.image && numAt b.image 0 2 == 1 then s.modDev fun d => { takeImage b.image d with boot := 1 } else s)
  else s.modDev fun d => { d with devno := b.devno, routes := routeTable b.routes, mbox := b.mbox, boot := 0 }

/-- Bring-up goes on with the device's time; how long a step takes is open (log 5). -/
def bringUp (s : State) : State :=
  if s.dev.boot = 0 then s else if Config.choice s.free % 2 = 0 then s.tick else bootStep s.tick

end Sys2Proof.Machine
end

