-- ==== Sys2Proof/Machine/Dispatch.lean ====
section
/-! DEFINITION. Machine/Dispatch.lean: the meaning of every instruction: one arm for each constructor. -/

namespace Sys2Proof.Machine

def exec (i : Instr) (s : State) : Host.Outcome State Fault Refusal :=
  match i with
  | .nopS => Sys2Proof.Machine.execNopS s
  | .addReg st d a b => Sys2Proof.Machine.execAddReg st d a b s
  | .addImm st d a im => Sys2Proof.Machine.execAddImm st d a im s
  | .subReg st d a b => Sys2Proof.Machine.execSubReg st d a b s
  | .subImm st d a im => Sys2Proof.Machine.execSubImm st d a im s
  | .mulReg st d a b => Sys2Proof.Machine.execMulReg st d a b s
  | .mulImm st d a im => Sys2Proof.Machine.execMulImm st d a im s
  | .mulhReg st d a b u => Sys2Proof.Machine.execMulhReg st d a b u s
  | .mulhImm st d a im => Sys2Proof.Machine.execMulhImm st d a im s
  | .divReg st d a b u => Sys2Proof.Machine.execDivReg st d a b u s
  | .divImm st d a im => Sys2Proof.Machine.execDivImm st d a im s
  | .remReg st d a b u => Sys2Proof.Machine.execRemReg st d a b u s
  | .remImm st d a im => Sys2Proof.Machine.execRemImm st d a im s
  | .minReg st d a b u => Sys2Proof.Machine.execMinReg st d a b u s
  | .minImm st d a im => Sys2Proof.Machine.execMinImm st d a im s
  | .maxReg st d a b u => Sys2Proof.Machine.execMaxReg st d a b u s
  | .maxImm st d a im => Sys2Proof.Machine.execMaxImm st d a im s
  | .andReg st d a b => Sys2Proof.Machine.execAndReg st d a b s
  | .andImm st d a im => Sys2Proof.Machine.execAndImm st d a im s
  | .orReg st d a b => Sys2Proof.Machine.execOrReg st d a b s
  | .orImm st d a im => Sys2Proof.Machine.execOrImm st d a im s
  | .xorReg st d a b => Sys2Proof.Machine.execXorReg st d a b s
  | .xorImm st d a im => Sys2Proof.Machine.execXorImm st d a im s
  | .shlReg st d a b => Sys2Proof.Machine.execShlReg st d a b s
  | .shlImm st d a im => Sys2Proof.Machine.execShlImm st d a im s
  | .shrReg st d a b => Sys2Proof.Machine.execShrReg st d a b s
  | .shrImm st d a im => Sys2Proof.Machine.execShrImm st d a im s
  | .sraReg st d a b => Sys2Proof.Machine.execSraReg st d a b s
  | .sraImm st d a im => Sys2Proof.Machine.execSraImm st d a im s
  | .lih st d a im => Sys2Proof.Machine.execLih st d a im s
  | .cmpReg st d a b c => Sys2Proof.Machine.execCmpReg st d a b c s
  | .cmpImm st d a im c => Sys2Proof.Machine.execCmpImm st d a im c s
  | .selReg st d a b c => Sys2Proof.Machine.execSelReg st d a b c s
  | .selImm st d a im c => Sys2Proof.Machine.execSelImm st d a im c s
  | .bfxReg st d a b g w => Sys2Proof.Machine.execBfxReg st d a b g w s
  | .bfxImm st d a g p w => Sys2Proof.Machine.execBfxImm st d a g p w s
  | .bfi st d a p w => Sys2Proof.Machine.execBfi st d a p w s
  | .clz st d a => Sys2Proof.Machine.execClz st d a s
  | .popc st d a => Sys2Proof.Machine.execPopc st d a s
  | .addsReg st d a b h => Sys2Proof.Machine.execAddsReg st d a b h s
  | .addsImm st d a im => Sys2Proof.Machine.execAddsImm st d a im s
  | .wid st d t f => Sys2Proof.Machine.execWid st d t f s
  | .brScalar c a o => Sys2Proof.Machine.execBrScalar c a o s
  | .brPred c p o => Sys2Proof.Machine.execBrPred c p o s
  | .bra o => Sys2Proof.Machine.execBra o s
  | .call d o => Sys2Proof.Machine.execCall d o s
  | .ret a => Sys2Proof.Machine.execRet a s
  | .jmpr a o => Sys2Proof.Machine.execJmpr a o s
  | .loopn l a k => Sys2Proof.Machine.execLoopn l a k s
  | .lend l => Sys2Proof.Machine.execLend l s
  | .taskend => Sys2Proof.Machine.execTaskend s
  | .lift a o => Sys2Proof.Machine.execLift a o s
  | .lret => Sys2Proof.Machine.execLret s
  | .brbScalar c a o => Sys2Proof.Machine.execBrbScalar c a o s
  | .brbPred c p o => Sys2Proof.Machine.execBrbPred c p o s
  | .ljoin => Sys2Proof.Machine.execLjoin s
  | .ctlrd d c => Sys2Proof.Machine.execCtlrd d c s
  | .ctlwr a c => Sys2Proof.Machine.execCtlwr a c s
  | .eret => Sys2Proof.Machine.execEret s
  | .trap im => Sys2Proof.Machine.execTrap im s
  | .nopV => Sys2Proof.Machine.execNopV s
  | .vadd h d a b ch => Sys2Proof.Machine.execVadd h d a b ch s
  | .vsub h d a b ch => Sys2Proof.Machine.execVsub h d a b ch s
  | .vmul h d a b ch => Sys2Proof.Machine.execVmul h d a b ch s
  | .vfma h d a b c ch => Sys2Proof.Machine.execVfma h d a b c ch s
  | .vmin h d a b ch => Sys2Proof.Machine.execVmin h d a b ch s
  | .vmax h d a b ch => Sys2Proof.Machine.execVmax h d a b ch s
  | .vabs h d a ch => Sys2Proof.Machine.execVabs h d a ch s
  | .vneg h d a ch => Sys2Proof.Machine.execVneg h d a ch s
  | .vand h d a b ch => Sys2Proof.Machine.execVand h d a b ch s
  | .vor h d a b ch => Sys2Proof.Machine.execVor h d a b ch s
  | .vxor h d a b ch => Sys2Proof.Machine.execVxor h d a b ch s
  | .vshl h d a b ch => Sys2Proof.Machine.execVshl h d a b ch s
  | .vshr h d a b ch => Sys2Proof.Machine.execVshr h d a b ch s
  | .vsra h d a b ch => Sys2Proof.Machine.execVsra h d a b ch s
  | .vmov h d a ch => Sys2Proof.Machine.execVmov h d a ch s
  | .vcmp h pd a b c => Sys2Proof.Machine.execVcmp h pd a b c s
  | .vsel h d a b ps => Sys2Proof.Machine.execVsel h d a b ps s
  | .vmac16 h d a b c sh => Sys2Proof.Machine.execVmac16 h d a b c sh s
  | .vdot4 h d a b c => Sys2Proof.Machine.execVdot4 h d a b c s
  | .vred h d a op => Sys2Proof.Machine.execVred h d a op s
  | .vscan h d a op x => Sys2Proof.Machine.execVscan h d a op x s
  | .vperm h d a b => Sys2Proof.Machine.execVperm h d a b s
  | .vslide h d a b k => Sys2Proof.Machine.execVslide h d a b k s
  | .vbcastScalar h d x => Sys2Proof.Machine.execVbcastScalar h d x s
  | .vbcastLane h d a lane => Sys2Proof.Machine.execVbcastLane h d a lane s
  | .vpopc h d a => Sys2Proof.Machine.execVpopc h d a s
  | .vcompress h d a => Sys2Proof.Machine.execVcompress h d a s
  | .vexpand h d a => Sys2Proof.Machine.execVexpand h d a s
  | .viota h d => Sys2Proof.Machine.execViota h d s
  | .pand h pd pa pb => Sys2Proof.Machine.execPand h pd pa pb s
  | .por h pd pa pb => Sys2Proof.Machine.execPor h pd pa pb s
  | .pxor h pd pa pb => Sys2Proof.Machine.execPxor h pd pa pb s
  | .pnot h pd pa => Sys2Proof.Machine.execPnot h pd pa s
  | .pcnt h sd pa => Sys2Proof.Machine.execPcnt h sd pa s
  | .pfirst h sd pa => Sys2Proof.Machine.execPfirst h sd pa s
  | .vcvt h d a part src dst sat sr => Sys2Proof.Machine.execVcvt h d a part src dst sat sr s
  | .vpackb h d a part rec sr => Sys2Proof.Machine.execVpackb h d a part rec sr s
  | .vunpackb h d a part rec => Sys2Proof.Machine.execVunpackb h d a part rec s
  | .vbpackPack h d a part k bp6 sr => Sys2Proof.Machine.execVbpackPack h d a part k bp6 sr s
  | .vbpackUnpack h d a part k bp6 => Sys2Proof.Machine.execVbpackUnpack h d a part k bp6 s
  | .vtr h d idx mt x => Sys2Proof.Machine.execVtr h d idx mt x s
  | .vtw h idx mt x a => Sys2Proof.Machine.execVtw h idx mt x a s
  | .lreduce h d a op lvl => Sys2Proof.Machine.execLreduce h d a op lvl s
  | .nopF => Sys2Proof.Machine.execNopF s
  | .frcp st d a p z => Sys2Proof.Machine.execFrcp st d a p z s
  | .frsq st d a p z => Sys2Proof.Machine.execFrsq st d a p z s
  | .fsqrt st d a p z => Sys2Proof.Machine.execFsqrt st d a p z s
  | .fexp2 st d a p z => Sys2Proof.Machine.execFexp2 st d a p z s
  | .flog2 st d a p z => Sys2Proof.Machine.execFlog2 st d a p z s
  | .fsig st d a p z => Sys2Proof.Machine.execFsig st d a p z s
  | .ftanh st d a p z => Sys2Proof.Machine.execFtanh st d a p z s
  | .fsin st d a p z => Sys2Proof.Machine.execFsin st d a p z s
  | .fcos st d a p z => Sys2Proof.Machine.execFcos st d a p z s
  | .nopM => Sys2Proof.Machine.execNopM s
  | .ld st h d base lur size sx stride ofs => Sys2Proof.Machine.execLd st h d base lur size sx stride ofs s
  | .st st h x base lur size stride ofs => Sys2Proof.Machine.execSt st h x base lur size stride ofs s
  | .vld st h p d base lur stride ofs => Sys2Proof.Machine.execVld st h p d base lur stride ofs s
  | .vst st h p x base lur stride ofs => Sys2Proof.Machine.execVst st h p x base lur stride ofs s
  | .vldc st h p d base stride ofs => Sys2Proof.Machine.execVldc st h p d base stride ofs s
  | .lda h d base lur size sx ofs => Sys2Proof.Machine.execLda h d base lur size sx ofs s
  | .strel h x base lur size ofs => Sys2Proof.Machine.execStrel h x base lur size ofs s
  | .amo h aop src base cmp rd size ofs => Sys2Proof.Machine.execAmo h aop src base cmp rd size ofs s
  | .cflush st h base stride ofs => Sys2Proof.Machine.execCflush st h base stride ofs s
  | .cinv st h base stride ofs => Sys2Proof.Machine.execCinv st h base stride ofs s
  | .cpref st h base stride ofs => Sys2Proof.Machine.execCpref st h base stride ofs s
  | .vspill h v base lur n1 ofs => Sys2Proof.Machine.execVspill h v base lur n1 ofs s
  | .vfill h v base lur n1 ofs => Sys2Proof.Machine.execVfill h v base lur n1 ofs s
  | .fenceC scope mask => Sys2Proof.Machine.execFenceC scope mask s
  | .fenceR scope o os => Sys2Proof.Machine.execFenceR scope o os s
  | .tla k p lvl node v ti => Sys2Proof.Machine.execTla k p lvl node v ti s
  | .tld k p lvl node v ti band => Sys2Proof.Machine.execTld k p lvl node v ti band s
  | .tsa k p lvl node x ti => Sys2Proof.Machine.execTsa k p lvl node x ti s
  | .tsd k p lvl node x ti band => Sys2Proof.Machine.execTsd k p lvl node x ti band s
  | .tdsc k p lvl node pd ti te => Sys2Proof.Machine.execTdsc k p lvl node pd ti te s
  | .tcellCommit k lvl node ti => Sys2Proof.Machine.execTcellCommit k lvl node ti s
  | .tcellRelease k lvl node ti => Sys2Proof.Machine.execTcellRelease k lvl node ti s
  | .gath h d base lur sz idx cnt => Sys2Proof.Machine.execGath h d base lur sz idx cnt s
  | .scat h x base lur sz idx cnt => Sys2Proof.Machine.execScat h x base lur sz idx cnt s
  | .scatAdd h x base lur sz idx cnt fadd => Sys2Proof.Machine.execScatAdd h x base lur sz idx cnt fadd s
  | .qpush core x q => Sys2Proof.Machine.execQpush core x q s
  | .qpop st p d q => Sys2Proof.Machine.execQpop st p d q s
  | .bari h src base ofs => Sys2Proof.Machine.execBari h src base ofs s
  | .bara h src base rd ofs => Sys2Proof.Machine.execBara h src base rd ofs s
  | .barw h src base ofs => Sys2Proof.Machine.execBarw h src base ofs s
  | .barx h base rd ofs => Sys2Proof.Machine.execBarx h base rd ofs s
  | .commit cls cnt base => Sys2Proof.Machine.execCommit cls cnt base s
  | .decommit cls cnt base unmap => Sys2Proof.Machine.execDecommit cls cnt base unmap s
  | .alloc h base rd => Sys2Proof.Machine.execAlloc h base rd s
  | .free h src base => Sys2Proof.Machine.execFree h src base s
  | .tlbinv scope asid base size => Sys2Proof.Machine.execTlbinv scope asid base size s
  | .nopX => Sys2Proof.Machine.execNopX s
  | .mmaScratchpad k md eb tia base kf => Sys2Proof.Machine.execMmaScratchpad k md eb tia base kf s
  | .mmaVector k md eb tia v kf => Sys2Proof.Machine.execMmaVector k md eb tia v kf s
  | .mmas k md eb tia base kf => Sys2Proof.Machine.execMmas k md eb tia base kf s
  | .lde k eb tib cmask base => Sys2Proof.Machine.execLde k eb tib cmask base s
  | .mzero ks mt => Sys2Proof.Machine.execMzero ks mt s
  | .msave k mt sp base ofs => Sys2Proof.Machine.execMsave k mt sp base ofs s
  | .mload k mt sp base ofs => Sys2Proof.Machine.execMload k mt sp base ofs s
  | .copy k desc soff doff => Sys2Proof.Machine.execCopy k desc soff doff s
  | .rlay k tis tid sb db prm rm sat => Sys2Proof.Machine.execRlay k tis tid sb db prm rm sat s
  | .stage k n soff doff => Sys2Proof.Machine.execStage k n soff doff s
  | .mgset k desc tag => Sys2Proof.Machine.execMgset k desc tag s
  | .mgpush k stream v cnt tag => Sys2Proof.Machine.execMgpush k stream v cnt tag s
  | .mgfin k ti tag tsk dec => Sys2Proof.Machine.execMgfin k ti tag tsk dec s
  | .contract k blk => Sys2Proof.Machine.execContract k blk s
  | .astart k entry arg => Sys2Proof.Machine.execAstart k entry arg s
  | .astartPost k flag n => Sys2Proof.Machine.execAstartPost k flag n s
  | .send k link sp buf len tag => Sys2Proof.Machine.execSend k link sp buf len tag s
  | .recv k link sp buf len tag => Sys2Proof.Machine.execRecv k link sp buf len tag s
  | .ramo k aop d8 base src cmp rd => Sys2Proof.Machine.execRamo k aop d8 base src cmp rd s
  | .launch k rec => Sys2Proof.Machine.execLaunch k rec s
  | .taskset k ent slot => Sys2Proof.Machine.execTaskset k ent slot s
  | .taskdec k val => Sys2Proof.Machine.execTaskdec k val s
  | .nopY => Sys2Proof.Machine.execNopY s
  | .fwait f n => Sys2Proof.Machine.execFwait f n s
  | .fpost f self ctx n => Sys2Proof.Machine.execFpost f self ctx n s
  | .fpostr f a => Sys2Proof.Machine.execFpostr f a s
  | .kwait nt k => Sys2Proof.Machine.execKwait nt k s
  | .killScalar blk mask => Sys2Proof.Machine.execKillScalar blk mask s
  | .killImmLo blk imm => Sys2Proof.Machine.execKillImmLo blk imm s
  | .killImmHi blk imm => Sys2Proof.Machine.execKillImmHi blk imm s
  | .headerOnlyBundle => Sys2Proof.Machine.execHeaderOnlyBundle s
  | .instructionFetch agent => Sys2Proof.Machine.execInstructionFetch agent s
  | .resultLanding agent => Sys2Proof.Machine.execResultLanding agent s
  | .lateDataArrival agent => Sys2Proof.Machine.execLateDataArrival agent s
  | .translationAnswer agent => Sys2Proof.Machine.execTranslationAnswer agent s
  | .blockEnd agent => Sys2Proof.Machine.execBlockEnd agent s
  | .quantumBlock agent => Sys2Proof.Machine.execQuantumBlock agent s
  | .sfuTake core => Sys2Proof.Machine.execSfuTake core s
  | .storePerform agent id => Sys2Proof.Machine.execStorePerform agent id s
  | .migrationWindow => Sys2Proof.Machine.execMigrationWindow s
  | .calendarRotation => Sys2Proof.Machine.execCalendarRotation s
  | .calendarSlot channel => Sys2Proof.Machine.execCalendarSlot channel s
  | .budgetPeriod => Sys2Proof.Machine.execBudgetPeriod s
  | .calendarCommit => Sys2Proof.Machine.execCalendarCommit s
  | .laneLendingHandshake channel => Sys2Proof.Machine.execLaneLendingHandshake channel s
  | .arrayCommandStart core => Sys2Proof.Machine.execArrayCommandStart core s
  | .arrayCommandComplete core => Sys2Proof.Machine.execArrayCommandComplete core s
  | .latchCommandStart core => Sys2Proof.Machine.execLatchCommandStart core s
  | .ldeComplete core => Sys2Proof.Machine.execLdeComplete core s
  | .treeCommandStart core => Sys2Proof.Machine.execTreeCommandStart core s
  | .treeAccessPerform core => Sys2Proof.Machine.execTreeAccessPerform core s
  | .copyCommandStart core => Sys2Proof.Machine.execCopyCommandStart core s
  | .copyComplete core id => Sys2Proof.Machine.execCopyComplete core id s
  | .scheduleEntryStart core => Sys2Proof.Machine.execScheduleEntryStart core s
  | .barrierArrival n => Sys2Proof.Machine.execBarrierArrival n s
  | .flagPostArrival n => Sys2Proof.Machine.execFlagPostArrival n s
  | .mgsetOpen cluster => Sys2Proof.Machine.execMgsetOpen cluster s
  | .mgpushArrival cluster => Sys2Proof.Machine.execMgpushArrival cluster s
  | .mgfinClose cluster => Sys2Proof.Machine.execMgfinClose cluster s
  | .accessProgramStart core => Sys2Proof.Machine.execAccessProgramStart core s
  | .rangeCounterRelease core => Sys2Proof.Machine.execRangeCounterRelease core s
  | .freeApply agent => Sys2Proof.Machine.execFreeApply agent s
  | .messageArrival core => Sys2Proof.Machine.execMessageArrival core s
  | .creditReturn link flits => Sys2Proof.Machine.execCreditReturn link flits s
  | .recvComplete core => Sys2Proof.Machine.execRecvComplete core s
  | .ramoRemoteOperation core => Sys2Proof.Machine.execRamoRemoteOperation core s
  | .remoteSignalDelivery n => Sys2Proof.Machine.execRemoteSignalDelivery n s
  | .linkTrained link => Sys2Proof.Machine.execLinkTrained link s
  | .linkDown link => Sys2Proof.Machine.execLinkDown link s
  | .hostAccess pa write data => Sys2Proof.Machine.execHostAccess pa write data s
  | .launchAdmission => Sys2Proof.Machine.execLaunchAdmission s
  | .taskDispatch ctx => Sys2Proof.Machine.execTaskDispatch ctx s
  | .taskStart ctx => Sys2Proof.Machine.execTaskStart ctx s
  | .taskStaging core => Sys2Proof.Machine.execTaskStaging core s
  | .budgetOverrun ctx => Sys2Proof.Machine.execBudgetOverrun ctx s
  | .slotDecrement n => Sys2Proof.Machine.execSlotDecrement n s
  | .slotEnqueue slot => Sys2Proof.Machine.execSlotEnqueue slot s
  | .taskendComplete agent => Sys2Proof.Machine.execTaskendComplete agent s
  | .launchCompletion launch => Sys2Proof.Machine.execLaunchCompletion launch s
  | .lqtailWrite v => Sys2Proof.Machine.execLqtailWrite v s
  | .ringEntryRead => Sys2Proof.Machine.execRingEntryRead s
  | .launchQueueReset v => Sys2Proof.Machine.execLaunchQueueReset v s
  | .taskRerun ctx => Sys2Proof.Machine.execTaskRerun ctx s
  | .machineCheck ctx => Sys2Proof.Machine.execMachineCheck ctx s
  | .svcdoneResume index arg => Sys2Proof.Machine.execSvcdoneResume index arg s
  | .svcdoneEnd index => Sys2Proof.Machine.execSvcdoneEnd index s
  | .svcdoneRerun index => Sys2Proof.Machine.execSvcdoneRerun index s
  | .preemptionRequest ctx => Sys2Proof.Machine.execPreemptionRequest ctx s
  | .preemptionSaveComplete ctx => Sys2Proof.Machine.execPreemptionSaveComplete ctx s
  | .contextResume ctx => Sys2Proof.Machine.execContextResume ctx s
  | .ctxcmdPreempt ctx => Sys2Proof.Machine.execCtxcmdPreempt ctx s
  | .ctxcmdStop ctx => Sys2Proof.Machine.execCtxcmdStop ctx s
  | .ctxcmdResume ctx => Sys2Proof.Machine.execCtxcmdResume ctx s
  | .ctxcmdSetdbg ctx dbg => Sys2Proof.Machine.execCtxcmdSetdbg ctx dbg s
  | .ctxcmdArmdbg ctx dbg => Sys2Proof.Machine.execCtxcmdArmdbg ctx dbg s
  | .debugStop ctx => Sys2Proof.Machine.execDebugStop ctx s
  | .singleStepStop ctx => Sys2Proof.Machine.execSingleStepStop ctx s
  | .traceOpen cluster => Sys2Proof.Machine.execTraceOpen cluster s
  | .traceClose cluster => Sys2Proof.Machine.execTraceClose cluster s
  | .mgmtcmdLoad blk => Sys2Proof.Machine.execMgmtcmdLoad blk s
  | .mgmtcmdAttest blk => Sys2Proof.Machine.execMgmtcmdAttest blk s
  | .clockStepChange step => Sys2Proof.Machine.execClockStepChange step s
  | .powerOnReset => Sys2Proof.Machine.execPowerOnReset s
  | .fullServiceSwitch => Sys2Proof.Machine.execFullServiceSwitch s
  | .coreLeavesReset core => Sys2Proof.Machine.execCoreLeavesReset core s
  | .registerWrite csel unit v => Sys2Proof.Machine.execRegisterWrite csel unit v s
  | .coreEntersReset core => Sys2Proof.Machine.execCoreEntersReset core s
  | .corePowerGate core => Sys2Proof.Machine.execCorePowerGate core s
  | .corePowerUngate core => Sys2Proof.Machine.execCorePowerUngate core s
  | .inboundFabricAccess pa write data => Sys2Proof.Machine.execInboundFabricAccess pa write data s
  | .tasksetArm core => Sys2Proof.Machine.execTasksetArm core s

end Sys2Proof.Machine
end

