-- ==== Sys2Proof/Machine/Issue.lean ====
section
/-! DEFINITION. Machine/Issue.lean: fetching a bundle (R174-R180), its checks in order (R23, R35, R36, R45, R46), running its slots in
one issue (R21-R47, R335-R338), and what follows the issue (R42, R67-R69, R175, R193-R200). -/

namespace Sys2Proof.Machine

/-! Fetch (R174-R179). -/

/-- What the fetch of the next bundle gives. -/
inductive Fetched where
  | bundle (b : Bundle) (s : State)
  | trap (t : Trap)

/-- A captured loop body of the agent holds the bundle at an address (R178). -/
def inBuffer (s : State) (a va : Nat) : Bool :=
  (s.core (coreOf a)).bodies.any fun b => b.agent == a && decide (b.start.toNat ≤ va) && decide (va < b.start.toNat + b.size)

/-- The cause of a fetch whose translation ends otherwise than at a place: 0x09 for a bad entry (R353), else 0x08 (R179). A page that no access
reaches (0x0A or 0x24 of `State.place`) raises 0x08 too: the rules give a fetch no other cause (log 11). -/
def fetchCause : Place → Nat
  | .cause c _ => if c = 0x09 then 0x09 else 0x08
  | .at _ => 0x08
  | .zero => 0x08
  | .commit _ _ => 0x08

/-- One fetch line of an agent: as read ahead, or read now, through the instruction cache or from the loop buffer (R174, R177, R178). A
translation failure names the lowest byte of the bundle in the failing page (R179): `first` is the bundle's lowest address in the line, `here`
the header's. -/
def fetchLine (a : Nat) (here first : Nat) (s : State) : Except Fetched (BitVec 512 × State) :=
  let line := first / 64
  match (s.ctx a).lines.find? fun x => x.1 == line with
  | some x => .ok (x.2, s)
  | none =>
    let asid := (s.ctx a).ctl.asid
    match fetchKey s a line with
    | .at k =>
      let b := lineBytes s k
      let s := if inBuffer s a first then s else (fetchCode a asid line k s).tick
      .ok (b, (s.holdTr (coreOf a) asid (line * 64)).modCtx a fun c => { c with lines := (line, b) :: c.lines })
    | .zero | .commit _ _ | .cause _ _ =>
      .error (.trap { cause := fetchCause (fetchKey s a line), faddr := .ofNat 64 (if first / 65536 = here / 65536 then here else first) })

/-- The length that a header at a place in a line declares (R22). -/
def lengthAt (line : BitVec 512) (here : Nat) : Nat := bundleLength (headerOf (fld line.toNat (8 * (here % 64)) 32))

/-- Decode the bytes of a bundle that starts in one line and may end in the next. -/
def bundleIn (v here len : Nat) (s : State) : Fetched :=
  match decodeBundle (leBytes len (v / 2 ^ (8 * (here % 64)))) with
  | .ok (b, _) => .bundle b s
  | .error _ => .trap { cause := 0x01, sub := 2 }

/-- Fetch the bundle at an agent's PC, whole (R179). One fetch serves every issue of a bundle. -/
def fetchBundle (a : Nat) (s : State) : Fetched :=
  match (s.ctx a).whole with
  | some b => .bundle b s
  | none =>
    let here := (s.ctx a).pc.toNat
    match fetchLine a here here s with
    | .error e => e
    | .ok (l0, s) =>
      let len := lengthAt l0 here
      if here % 64 + len ≤ 64 then bundleIn l0.toNat here len s
      else
        match fetchLine a here ((here / 64 + 1) * 64 % 2 ^ 64) s with
        | .error e => e
        | .ok (l1, s) => bundleIn (l0.toNat + 2 ^ 512 * l1.toNat) here len s

/-! The operations of a bundle (R38, R39). -/

/-- An operation that issues in a bundle: its slot, its word, and, for a re-issue of a sticky one, what was latched. -/
structure Oper where
  slot  : Nat
  instr : Instr
  fresh : Bool := true
  count : Nat := 0
  base  : W64 := 0
  cls   : BitVec 4 := 0
  deriving DecidableEq, Repr

/-- The live sticky operation of a slot as an operation. -/
def Sticky.oper (k : Sticky) (n : Nat) : Oper := ⟨n, k.instr, false, k.count, k.base, k.cls⟩

/-- The words of the present slots. -/
def bundleInstrs (b : Bundle) : List (Nat × Instr) :=
  b.slots.filterMap fun p => match p.2 with | .ok i => some (p.1.num, i) | .error _ => none

/-- The bundle holds TASKEND, in which no sticky operation issues (R186). -/
def isTaskendBundle (b : Bundle) : Bool := (bundleInstrs b).any fun p => p.2 == .taskend

/-- The live sticky operations that issue in slots whose PRESENT bit is clear (R38, R34). -/
def stickyOpers (c : Ctx) (b : Bundle) : List Oper :=
  if isTaskendBundle b then [] else
  (List.range 8).filterMap fun n =>
    if b.hdr.present.getLsbD n then none else (mget none c.flow.sticky n).map fun (k : Sticky) => k.oper n

/-- The operations of a bundle in slot order (R21, R38). -/
def opersOf (c : Ctx) (b : Bundle) : List Oper :=
  let all := (bundleInstrs b).map (fun p => ({ slot := p.1, instr := p.2 } : Oper)) ++ stickyOpers c b
  (List.range 11).flatMap fun n => all.filter fun r => r.slot == n

/-- A control slot, which takes part in every issue of a widened bundle (R342). -/
def everyIssue : Instr → Bool
  | .brScalar .. | .brPred .. | .bra .. | .call .. | .ret .. | .jmpr .. | .loopn .. | .lend .. | .lift .. | .lret
  | .brbScalar .. | .brbPred .. | .ljoin | .eret | .trap .. => true
  | _ => false

/-- Operations whose effect comes after those of the other slots (R181, R343-R347, R396). -/
def actsLast : Instr → Bool
  | .lift .. | .lret | .brbScalar .. | .brbPred .. | .ljoin | .eret | .trap .. | .ctlwr .. | .taskend => true
  | _ => false

/-- Waits whose outcome the other slots of the bundle see (R23, R288, R292). -/
def actsFirst : Instr → Bool
  | .fwait .. | .kwait .. => true
  | _ => false

/-- VSPILL and VFILL (R66). -/
def isMove : Instr → Bool
  | .vspill .. | .vfill .. => true
  | _ => false

/-- The instance of a bundle's issue (R336): the tag U, the enabled instances, the one of this issue. -/
structure Inst where
  tag  : BitVec 3
  all  : List Nat
  this : Nat
  deriving DecidableEq, Repr

/-- The instance at which a context's next issue stands. -/
def instOf (c : Ctx) (u : BitVec 3) : Inst :=
  let all := match enabled c.flow.lift u with | [] => [0] | l => l
  ⟨u, all, (all.find? fun f => decide (c.iflat ≤ f)).getD 0⟩

/-- This is the first issue of a bundle's instances. -/
def Inst.first (x : Inst) : Bool := x.all.head? == some x.this
/-- This is the last. -/
def Inst.last (x : Inst) : Bool := x.all.getLast? == some x.this

/-- The first instance of the bundle that projects onto the instance that a slot of tag u has in this one (R336). -/
def firstFor (l : Lift) (x : Inst) (u : BitVec 3) : Option Nat :=
  x.all.find? fun f => reKey l.levels x.tag u f == reKey l.levels x.tag u x.this

/-- A slot acts in this issue (R336, R342, R348). -/
def actsHere (s : State) (x : Inst) (i : Instr) : Bool :=
  everyIssue i || firstFor s.me.flow.lift x (resultTag i s) == some x.this

/-- The slot has acted before in this bundle: in an earlier repeat or instance. -/
def actedBefore (s : State) (x : Inst) (i : Instr) : Bool :=
  s.me.ridx != 0 || (x.all.takeWhile (· != x.this)).any fun f => firstFor s.me.flow.lift { x with this := f } (resultTag i s) == some f

/-- A word of a slot whose sticky operation an earlier issue of the bundle introduced is a re-issue of it (R39, R40). -/
def Oper.resume (s : State) (x : Inst) (r : Oper) : Oper :=
  match mget none s.me.flow.sticky r.slot with
  | some k => if r.fresh && k.instr == r.instr && actedBefore s x r.instr then k.oper r.slot else r
  | none => r

/-- The state in which an operation of the bundle is given its meaning. -/
def atOper (x : Inst) (r : Oper) (s : State) : State :=
  s.modIssue fun i => { i with
    slot := r.slot, fresh := r.fresh, count := r.count, base := r.base, cls := r.cls
    tag := x.tag, flat := x.this, first := x.first, last := x.last, status := .ok }

/-! Causes that stand before the slots' own (R35, R36, R45, R46). -/

/-- Register codes among operands: each takes a read port (R35). -/
def portCount (cs : List VCode) : Nat := (cs.filter fun c => match c with | .v _ => true | .qv _ => false | .held => false).length

/-- The ports of an operation (R35): those of M0 and M1 are of an access, or of TSA and TSD. -/
def portsOf (i : Instr) : Nat :=
  match i with
  | .gath .. | .scat .. | .scatAdd .. | .qpush .. => 0
  | _ => portCount ((info i).vs.map Prod.snd ++ (info i).pv)

/-- The ports that the operations of a slot take. -/
def slotPorts (rs : List Oper) (n : Nat) : Nat := ((rs.filter fun r => r.slot == n).map fun r => portsOf r.instr).sum

/-- PORTS does not declare what the slots take, or they take more than eight (R36). -/
def portsBad (rs : List Oper) (p : Nat) : Bool :=
  decide (125 ≤ p) || p % 5 != slotPorts rs 2 || p / 5 % 5 != slotPorts rs 3 || p / 25 != slotPorts rs 4 ||
    decide (8 < ((List.range 6).map fun n => slotPorts rs (n + 2)).sum)

/-- Access code in a bundle with a slot or a K word that it may not hold (R47). -/
def accessBad (b : Bundle) : Bool := (b.hdr.present &&& 0b0100111100) != 0 || b.hdr.kpos != 0

/-- An assigned opcode is not legal in this kind of code: not marked A in access code, or marked A only in a context's (R47-R53). -/
def wrongCode (acc : Bool) (kd : Kind) (o : Nat) : Bool :=
  match kd with
  | .s => acc && !(decide (o ≤ 0x17) || [0x20, 0x21, 0x25, 0x26, 0x27].contains o)
  | .m =>
    if acc then !([0x00, 0x01, 0x02, 0x06, 0x07, 0x08, 0x0B, 0x0E, 0x0F, 0x18, 0x19, 0x1A, 0x1B].contains o)
    else decide (0x18 ≤ o) && decide (o ≤ 0x1B)
  | .y => acc && decide (o = 4)
  | .v => acc
  | .f => acc
  | .x => acc
  | .k => acc

/-- Subcodes of the words that did not decode, with their slots (R45). -/
def wordFaults (acc : Bool) (b : Bundle) : List (Nat × Nat) :=
  b.slots.filterMap fun p => match p.2 with
    | .ok _ => none
    | .error .unassigned => some (1, p.1.num)
    | .error (.reserved o) => some (if wrongCode acc p.1.kind o then 1 else 2, p.1.num)
    | .error .truncated => some (2, p.1.num)

/-- The position of a KPOS value is that of a present slot, or the value is reserved (R25). -/
def kposBad (h : Header) : Bool :=
  let k := h.kpos.toNat
  k == 7 || (k != 0 && h.present.getLsbD (match k with | 1 => 2 | 2 => 3 | 3 => 4 | 4 => 6 | 5 => 7 | _ => 8))

/-- A control instruction (S opcodes 0x20-0x2F) of the bundle. -/
def controlsOf (b : Bundle) : List Instr := ((bundleInstrs b).map Prod.snd).filter Instr.isControl

/-- S words with an opcode from 0x20 to 0x2F, well formed or not (R45). -/
def controlWords (b : Bundle) : Nat :=
  (b.slots.filter fun p => p.1.kind == .s && match p.2 with
    | .ok i => i.isControl
    | .error (.reserved o) => decide (0x20 ≤ o)
    | .error .unassigned => false
    | .error .truncated => false).length

/-- Cause 0x01 of a bundle: the lowest subcode, at its lowest slot (R45). -/
def bundleFault (b : Bundle) (x : Inst) (rs : List Oper) (s : State) : Option Trap :=
  let acc := isAccess s.issue.agent
  let two := decide (1 < controlWords b)
  let res := kposBad b.hdr || (!(controlsOf b).isEmpty && b.hdr.rep != 0) || (isTaskendBundle b && decide (1 < b.slots.length))
  let whole := (if two || (acc && accessBad b) then [(1, 15)] else []) ++ (if res then [(2, 15)] else []) ++
    (if acc then (if b.hdr.ports != 0 then [(2, 15)] else []) else if portsBad rs b.hdr.ports.toNat then [(3, 15)] else [])
  let own := rs.filterMap fun r => (illegal r.instr (atOper x r s)).map fun t => (t.sub, t.slot)
  let all := wordFaults acc b ++ own ++ whole
  let least := all.foldl (fun (m : Option (Nat × Nat)) p => match m with
    | none => some p
    | some q => if p.1 < q.1 || (p.1 == q.1 && p.2 < q.2) then some p else some q) none
  least.map fun p => { cause := 0x01, slot := p.2, sub := p.1 }

/-- The first of a cause over the operations in slot order. -/
def firstTrap (f : Instr → State → Option Trap) (x : Inst) (rs : List Oper) (s : State) : Option Trap :=
  rs.findSome? fun r => f r.instr (atOper x r s)

/-- The causes that stand before the slots' own, in the order of R46: a debug-bit break, 0x01, 0x04, 0x02 (log 26). -/
def earlyTrap (b : Bundle) (x : Inst) (rs : List Oper) (s : State) : Option Trap :=
  let c := s.me
  if b.hdr.dbg && c.ctl.dbgctl.getLsbD 1 && !c.flow.brk && c.ridx == 0 && x.first && !c.moving then some { cause := 0x29 }
  else
    (bundleFault b x rs s).orElse fun _ => (firstTrap privTrap x rs s).orElse fun _ => firstTrap groupTrap x rs s

/-! Running the slots. -/

/-- How the slots run so far stand: the state that their effects leave, and the first trap and block in slot order. -/
structure Tally where
  state : State
  trap  : Option (Nat × Trap) := none
  block : Option (Nat × Blk) := none
  stall : Bool := false

/-- The entry of the lower slot. -/
def lower {α : Type} (o : Option (Nat × α)) (n : Nat) (v : α) : Option (Nat × α) :=
  match o with
  | none => some (n, v)
  | some p => if n < p.1 then some (n, v) else some p

/-- Where a trap of a slot stands among those of its bundle: in slot order, but LIFT's own reasons come after the causes of the other slots
(R46, R346). -/
def trapOrder (r : Oper) (e : Trap) : Nat := match r.instr with | .lift .. => if e.cause = 0x10 then r.slot + 16 else r.slot | _ => r.slot

/-- Run one operation after others. A trap, a block and a stall leave the state as it was, but for TRAP, which acts when nothing else
is amiss (R23, R46, R396). -/
def runOper (x : Inst) (t : Tally) (r : Oper) : Host.Outcome Tally Fault Refusal :=
  match exec r.instr (atOper x r t.state) with
  | .fault f => .fault f
  | .refused f => .refused f
  | .next u =>
    .next (match u.issue.status with
      | .ok => { t with state := u }
      | .trapped e => if e.cause = 0x30 then { t with state := u } else { t with trap := lower t.trap (trapOrder r e) e }
      | .blocked b => { t with block := lower t.block r.slot b }
      | .stalled => { t with stall := true })

/-- Run operations in order. -/
def runOpers (x : Inst) : List Oper → Tally → Host.Outcome Tally Fault Refusal
  | [], t => .next t
  | r :: rs, t =>
    match runOper x t r with
    | .next t => runOpers x rs t
    | .fault f => .fault f
    | .refused f => .refused f

/-- Go on with the outcome of a part of an issue. -/
def andRun {α β : Type} (o : Host.Outcome α Fault Refusal) (k : α → Host.Outcome β Fault Refusal) : Host.Outcome β Fault Refusal :=
  match o with
  | .next t => k t
  | .fault f => .fault f
  | .refused f => .refused f

/-- KILL, which comes after the reads of its bundle (R60). -/
def isKill : Instr → Bool
  | .killScalar .. | .killImmLo .. | .killImmHi .. => true
  | _ => false

/-- TRAP and ERET, which come after everything else in their bundle (R393, R396). -/
def leavesState : Instr → Bool
  | .trap .. | .eret => true
  | _ => false

/-- The turn in which an operation of a bundle acts: waits, the others in slot order, those whose effect comes last, KILL, TRAP and ERET. -/
def turnOf (i : Instr) : Nat :=
  if actsFirst i then 0 else if leavesState i then 4 else if isKill i then 3 else if actsLast i then 2 else 1

/-- The order in which the operations of a bundle act. -/
def runOrder (rs : List Oper) : List Oper := (List.range 5).flatMap fun n => rs.filter fun r => turnOf r.instr == n

/-- A bundle without slot words (R24). -/
def headerOnly (b : Bundle) : List Oper := if b.slots.isEmpty then [⟨15, .headerOnlyBundle, true, 0, 0, 0⟩] else []

/-! After the issue. -/

/-- One context cycle has passed (R196, R198, R391); a handler's does not count in CCYC (R392). -/
def contextCycle (a : Nat) (priv : Bool) (s : State) : State :=
  s.modCtx a fun c => { c with
    quantum := c.quantum + 1, ctl := if priv then c.ctl else { c.ctl with ccyc := c.ctl.ccyc + 1 } }

/-- The lines that the fetch of later bundles may still use (R175, R177). -/
def keepLines (taken : Bool) (next : W64) (ls : List (Nat × BitVec 512)) : List (Nat × BitVec 512) :=
  if taken then [] else ls.filter fun x => decide (next.toNat / 64 ≤ x.1)

/-- The key of the code at an address, if the agent may fetch it. -/
def codeKey (s : State) (a va : Nat) : Option Nat :=
  match s.place a (s.ctx a).ctl.asid (fun _ => false) va .exec with
  | .at k => some k
  | .zero | .commit _ _ | .cause _ _ => none

/-- The bytes of code from an address on, if the agent may fetch them. -/
def codeBytes (s : State) (a va n : Nat) : Option (List Byte) := (List.range n).mapM fun j => (codeKey s a (va + j)).map s.byte

/-- The bundles of code from an address up to another, at most so many. -/
def bundlesTo (s : State) (a stop : Nat) : Nat → Nat → Option (List Bundle)
  | 0, _ => some []
  | n + 1, va =>
    if stop ≤ va then some []
    else
      (codeBytes s a va 4).bind fun h =>
      (codeBytes s a va (bundleLength (headerOf (leNat h)))).bind fun bs =>
      match decodeBundle bs with
      | .ok (b, _) => (bundlesTo s a stop n (va + bs.length)).map (b :: ·)
      | .error _ => none

/-- A loop begins in the bundles: the body around them is not an innermost one (R178). -/
def loopsIn (bs : List Bundle) : Bool := bs.any fun b => (controlsOf b).any fun c => match c with | .loopn .. => true | _ => false

/-- The bodies that the 64 bundles of the loop buffer hold, the least recently used ones left out (R178). -/
def fitBodies : Nat → List Body → List Body
  | _, [] => []
  | n, b :: r => if b.count ≤ n then b :: fitBodies (n - b.count) r else []

/-- LEND leads back to the start of a body. An innermost one is captured in the loop buffer, or, of more than 64 bundles, is not, which is
traced; one around another is none of those that the buffer takes (R178, log 11). -/
def captureBody (a start stop : Nat) (s : State) : State :=
  let core := coreOf a
  match (s.core core).bodies.find? fun b => b.agent == a && b.start.toNat == start && b.size == stop - start with
  | some b => s.modCore core fun k => { k with bodies := b :: k.bodies.erase b }
  | none =>
    match bundlesTo s a stop ((stop - start) / 4 + 1) start with
    | none => s
    | some bs =>
      if loopsIn bs then s else
      if 64 < bs.length then traceLater (core / 8) 10 4 (ctxNumber a) (.ofNat 64 start) 0 s else
      let lines := (List.range (stop / 128 + 1 - start / 128)).filterMap fun j => (codeKey s a ((start / 128 + j) * 128)).map (· / 128)
      let new : Body := ⟨a, .ofNat 64 start, stop - start, bs.length, lines⟩
      s.modCore core fun k => { k with bodies := fitBodies 64 (new :: k.bodies.filter fun b => !(b.agent == a && b.start.toNat == start)) }

/-- The loop buffer after a bundle: a LEND of it that leads back captures its loop's body (R178). -/
def noteLoop (b : Bundle) (s : State) : State :=
  let i := s.issue
  if i.taken && ((controlsOf b).any fun c => match c with | .lend .. => true | _ => false) && decide (i.next.toNat ≤ i.here.toNat) then
    captureBody i.agent i.next.toNat (i.here.toNat + i.length) s
  else s

/-- The microcode that a bundle's CONTRACT has begun runs before what follows the issue (R324). -/
def enterMicro (here : W64) (ridx iflat : Nat) (c : Ctx) : Ctx :=
  match c.flow.micro with
  | none => c
  | some m => { c with
      pc := here, ridx := ridx, iflat := iflat
      flow := { c.flow with micro := some { m with next := c.pc, ridx := c.ridx, iflat := c.iflat } } }

/-- The successor of an issue: the next instance, the next repeat, or the bundle's successor (R40, R42, R43, R175, R179, R336, R338). -/
def nextIssue (b : Bundle) (x : Inst) (s : State) : State :=
  match x.all.find? fun f => decide (x.this < f) with
  | some f => s.modMe fun c => { c with iflat := f, whole := some b }
  | none =>
    let c := s.me
    if c.ridx < b.hdr.rep.toNat then
      s.modMe fun c => { c with ridx := c.ridx + 1, iflat := 0, whole := some b, group := c.groupNew ++ c.group, groupNew := [] }
    else
      let s := noteLoop b (settle s)
      let ends := b.hdr.stop || !(controlsOf b).isEmpty
      s.modMe fun c => { c with
        pc := s.issue.next, ridx := 0, iflat := 0, whole := none, group := if ends then [] else c.groupNew ++ c.group, groupNew := []
        flow := { c.flow with brk := false }
        lines := keepLines s.issue.taken s.issue.next c.lines }

/-- An issue of a bundle is complete: what it kept over its waits and its moves is done with, and its successor is next. -/
def finishIssue (b : Bundle) (x : Inst) (s : State) : State :=
  let r := s.me.ridx
  (nextIssue b x (s.modMe fun c => { c with
    moving := false, moveAt := [], answer := none, barw := [], flow := { c.flow with prefill := [], unmapped := [] } })).modMe
    (enterMicro s.issue.here r x.this)

/-- The number of a blocking cause's row in R193, for its trace record (log 20). -/
def blockRow : Blk → Nat
  | .queue _ | .credits _ _ => 1
  | .recv _ | .aq _ _ => 2
  | .flag _ _ | .token _ | .bar _ _ _ | .micro => 3
  | .late | .order _ => 4
  | .trans _ _ _ | .walk => 5
  | .sfu => 6
  | .taskend => 7
  | .quantum => 8

/-- The inputs that an attempt has met are used up when it blocks on one of them (log 9). -/
def dropInputs (b : Blk) (e : Env) : Env :=
  match b with
  | .trans _ _ _ => { e with walks := (e.walks.dropWhile (!·)).drop 1 }
  | .late => { e with late := (e.late.dropWhile (!·)).drop 1 }
  | _ => e

/-- A context's block is traced, and, as an event of its resource, a full command queue (R206, R216, R254, R264, R326, R406). -/
def traceBlock (a : Nat) (b : Blk) (s : State) : State :=
  if isAccess a then s else
  let s := traceRec (clusterOf a) 2 0 a (s.ctx a).pc (.ofNat 64 (blockRow b)) s
  match b with
  | .queue q => traceRec (clusterOf a) 10 5 a (s.ctx a).pc (.ofNat 64 q) s
  | _ => s

/-- A context or program leaves the issue path for a blocking cause, and the block is traced (R193, R195). -/
def leavePath (a : Nat) (b : Blk) (s : State) : State := traceBlock a b (blockOn a b s)

/-- A bundle blocks on a cause that its slots have met. -/
def blockBundle (a : Nat) (b : Blk) (s : State) : State := leavePath a b { s with env := dropInputs b s.env }

/-- A trap is taken, and traced (R392, R406). -/
def trapBundle (t : Trap) (s : State) : State :=
  writeStopped s.issue.agent (takeTrap t (if isAccess s.issue.agent then s else traceTrap t s.me.ctl.priv s))

/-- The state of a bundle that takes no effect, beside what a faulting COMMIT or DECOMMIT has done (R46, R359): registers, records and
tiles are as in the state given, but for the values of late loads that had to perform first. -/
def unland (a : Nat) (s0 p : State) : State :=
  let c := s0.ctx a
  let k := s0.core (coreOf a)
  (p.modCtx a fun d => { d with
    flow := { c.flow with
      unmapped := d.flow.unmapped
      records := c.flow.records.map fun r => (d.flow.records.find? fun q => q.id == r.id && q.ready && !r.ready).elim r fun q =>
        { r with val := q.val, ready := true } }
    regs := c.regs, ctl := c.ctl }).modCore (coreOf a) fun q =>
    { q with tiles := k.tiles, busy := k.busy }

/-- The moves of a cycle leave what the bundle's slots hold of sticky operations as it was: only the bundle's completion ends or introduces
one (R46, R69). -/
def keepSticky (a : Nat) (s0 s : State) : State := s.modCtx a fun c => { c with flow := { c.flow with sticky := (s0.ctx a).flow.sticky } }

/-- What a trap of a slot leaves behind: the tiles that a COMMIT or DECOMMIT has done (R46). -/
def afterTrap (a : Nat) (x : Inst) (rs : List Oper) (n : Nat) (s0 s1 : State) : State :=
  match rs.find? fun r => r.slot == n with
  | none => s0
  | some r =>
    match r.instr with
    | .commit .. | .decommit .. => unland a s0 (tileCycle r.instr (afterReads r.instr (atOper x r s1))).1
    | _ => s0

/-! VSPILL and VFILL over their cycles (R67-R69). -/

/-- An instance of a VSPILL that stores nothing: in an axis conflict another is the last to act (R341). -/
def moveIdle (x : Inst) (s : State) (r : Oper) : Bool :=
  match r.instr with
  | .vspill _ v base _ n1 _ =>
    let t := atOper x r s
    let l := t.me.flow.lift
    axisConflict (orTags ((List.range (n1.toNat + 1)).map fun j => tagOfV l (v.toNat + j))) (tagOfS l base) && !lastToAct (slotTag r.instr t) t
  | _ => false

/-- The registers that a move has still to move. -/
def movesLeft (x : Inst) (s : State) (r : Oper) : Nat :=
  if moveIdle x s r then 0 else
  match r.instr with
  | .vspill _ _ _ _ n1 _ => n1.toNat + 1 - progress (atOper x r s)
  | .vfill _ _ _ _ n1 _ => n1.toNat + 1 - progress (atOper x r s)
  | _ => 0

/-- A granule that is live lies in what a VSPILL is to write: cause 0x0E, decided before the first move (R69, R278). -/
def spillLive (x : Inst) (s : State) (r : Oper) : Option Trap :=
  if moveIdle x s r then none else
  match r.instr with
  | .vspill _ _ base _ n1 ofs =>
    let t := atOper x r s
    let a := accAddr (t.sc base) ofs (0 : BitVec 14) 256 0
    let lo := 256 * progress t
    ((List.range ((256 * (n1.toNat + 1) - lo) / 16)).map fun j => vaAt a (lo + 16 * j)).findSome? fun va =>
      if inWindow va && t.live (padKey (clusterOf t.issue.agent) (va - spw)) then some (t.cause 0x0E 0 (.ofNat 64 va) true) else none
  | _ => none

/-- A trap is a fault of a move: translation, protection or tile (R69). -/
def isMoveFault (t : Trap) : Bool := t.cause == 0x09 || t.cause == 0x0A || t.cause == 0x0C

/-- The other causes that a page of the registers still to move raises, decided before the first move (R69). -/
def movePlace (x : Inst) (s : State) (r : Oper) : Option Trap :=
  let find := fun (base : SCode) (n1 : BitVec 10) (ofs : BitVec 14) (need : Need) =>
    let t := atOper x r s
    let a := accAddr (t.sc base) ofs (0 : BitVec 14) 256 0
    let lo := 256 * progress t
    (pagesOf a ((List.range (256 * (n1.toNat + 1) - lo)).map (lo + ·))).findSome? fun o =>
      match t.place t.issue.agent t.me.ctl.asid (bankOk t t.issue.agent) (vaAt a o) need with
      | .cause c w => let e := t.cause c 0 (.ofNat 64 (vaAt a o)) w; if isMoveFault e then none else some e
      | .at _ => none
      | .zero => none
      | .commit _ _ => none
  if moveIdle x s r then none else
  match r.instr with
  | .vspill _ _ base _ n1 ofs => find base n1 ofs .write
  | .vfill _ _ base _ n1 ofs => find base n1 ofs .read
  | _ => none

/-- The moves of one cycle of every move, with the faults that they meet; each slot keeps its own moves (R69). -/
def moveAll (x : Inst) : List Oper → State → State × Option (Nat × Trap)
  | [], s => (s, none)
  | r :: rs, s =>
    let q := spillCycle r.instr (afterReads r.instr (atOper x r s))
    let n := moveAll x rs q.1
    match q.2 with
    | some (.trap t) => (n.1, some (r.slot, t))
    | _ => n

/-- The last cycle of a bundle in which a move faults (R69): the moves stand, and the fault is taken. -/
def faultMoves (x : Inst) (ms : List Oper) (s : State) : State :=
  let q := moveAll x ms s
  match q.2 with
  | some (n, t) => trapBundle t (q.1.modIssue fun i => { i with slot := n, status := .ok })
  | none => q.1

/-! The issue. -/

/-- What one issue gives: the state, and whether it was a context cycle, and whether the bundle's last issue is complete. -/
structure Issued where
  state : State
  cycle : Bool
  done  : Bool

/-- Where a CONTRACT whose bundle holds a TRAP leads: past the bundle, as EPC does (R324, R396). The trap part has it, or, for a nested trap, the
context. -/
def trapMicro (a : Nat) (nested : Bool) (s : State) : State :=
  let past := fun (f : Flow) => { f with micro := f.micro.map fun m => { m with next := s.issue.next, ridx := 0, iflat := 0 } }
  s.modCtx a fun c => if nested then { c with flow := past c.flow } else { c with saved := past c.saved }

/-- The outcome of running all the slots: the causes of R23, in its order; `s0` is the state before the landings, `s1` after. -/
def decideIssue (a : Nat) (b : Bundle) (x : Inst) (rs : List Oper) (s0 s1 : State) (t : Tally) : Issued :=
  match t.trap with
  | some (n, e) => ⟨trapBundle e (afterTrap a x rs n s0 s1), false, false⟩
  | none =>
    match t.block with
    | some (_, k) => ⟨blockBundle a k s0, false, false⟩
    | none =>
      if t.stall then ⟨s1, true, false⟩
      else
        match t.state.issue.status with
        | .trapped e => ⟨traceTrap e s1.me.ctl.priv (trapMicro a s1.me.ctl.priv t.state), true, true⟩
        | _ =>
          let last := x.last && decide (s0.me.ridx = b.hdr.rep.toNat)
          ⟨finishIssue b x t.state, true, last⟩

/-- The moves are complete: the progress counts return to 0 (R69). -/
def clearProgress (a : Nat) (s : State) : State := s.modCtx a fun c => { c with flow := { c.flow with g0 := 0, g1 := 0 } }

/-- The first of some causes in slot order, after one. -/
def firstCause (l : List (Nat × Trap)) (o : Option (Nat × Trap)) : Option (Nat × Trap) := l.foldl (fun acc p => lower acc p.1 p.2) o

/-- The cause that an ended wait has left to be taken (R23), by its slot; a fault of a move is met again by the move (R69). -/
def answerOf (c : Ctx) (ms : List Oper) : Option (Nat × Trap) :=
  c.answer.bind fun t => if isMoveFault t && ms.any fun r => r.slot == t.slot then none else some (t.slot, t)

/-- The causes that moves meet before the first of them, each of its own: those of their words, a live granule, and what a page raises beside the
faults of a move (R69) (log 45). -/
def moveCauses (x : Inst) (ms : List Oper) (moving : Bool) (s1 : State) : List Oper → Host.Outcome (List (Nat × Trap)) Fault Refusal
  | [] => .next []
  | r :: rs =>
    andRun (runOper x { state := s1 } r) fun t => andRun (moveCauses x ms moving s1 rs) fun l =>
      let own := match t.trap with | some p => if isMoveFault p.2 then [] else [p] | none => []
      let ahead := if moving then [] else ([spillLive x s1 r, movePlace x s1 r].filterMap id).map fun e => (r.slot, e)
      .next (own ++ ahead ++ l)

/-- The outcome of one cycle of a bundle with moves, given the first cause, how the other slots and the moves of the cycle run; none when the cycle
is the last and the other slots issue (R67-R69). -/
def decideMoves (a : Nat) (b : Bundle) (x : Inst) (rs ms : List Oper) (s0 s1 : State) (cause : Option (Nat × Trap)) (others moves : Tally) :
    Option Issued :=
  match cause with
  | some (n, e) => some ⟨trapBundle e (afterTrap a x rs n s0 s1), false, false⟩
  | none =>
    match others.block with
    | some (_, k) => some ⟨blockBundle a k s0, false, false⟩
    | none =>
      if moves.trap.isSome then some ⟨faultMoves x ms s1, true, false⟩
      else
        match moves.block with
        | some (_, k) => some ⟨blockBundle a k s0, false, false⟩
        | none =>
          if others.stall then some ⟨s1, true, false⟩
          else if ms.any fun r => decide (2 < movesLeft x s1 r) then
            some ⟨(keepSticky a s1 moves.state).modCtx a fun c => { c with moving := true, whole := some b }, true, false⟩
          else none

/-- The issue of a bundle with moves (R67-R69): the other slots' causes first, then the moves of this cycle, then, in the last cycle,
the other slots. -/
def issueMoves (a : Nat) (b : Bundle) (x : Inst) (rs ms : List Oper) (s0 s1 : State) : Host.Outcome Issued Fault Refusal :=
  let others := runOrder (rs.filter fun r => !isMove r.instr)
  let s1 := if s0.me.moving then s1 else ms.foldl (fun s r => noteFills r.instr (atOper x r s)) s1
  let start : Tally := { state := s1, trap := answerOf s0.me ms }
  andRun (if s0.me.moving then .next start else runOpers x others start) fun t =>
  andRun (moveCauses x ms s0.me.moving s1 ms) fun l =>
  andRun (runOpers x ms { state := s1 }) fun m =>
    match decideMoves a b x rs ms s0 s1 (firstCause l t.trap) t m with
    | some r => .next r
    | none => andRun (runOpers x others { state := clearProgress a m.state }) fun t => .next (decideIssue a b x rs s0 s1 t)

/-- The first issue of a bundle starts with no tag change and no outcome of a control slot noted (R336, R342). -/
def freshNotes (a : Nat) (x : Inst) (s : State) : State :=
  s.modCtx a fun c =>
    if x.first && c.ridx == 0 && c.flow.g0 == 0 && c.flow.g1 == 0 then { c with flow := { c.flow with retag := [], votes := [], prefill := [] } } else c

/-- The operations of an instance's issue. -/
def opersHere (s : State) (x : Inst) (all : List Oper) : List Oper := (all.filter fun r => actsHere s x r.instr).map (Oper.resume s x)

/-- The issue of a bundle whose data is not late, after the landings of its cycle (R57). -/
def issueLanded (a : Nat) (b : Bundle) (x : Inst) (all : List Oper) (s0 s1 : State) : Host.Outcome Issued Fault Refusal :=
  let rs := opersHere s1 x all
  let ms := rs.filter fun r => isMove r.instr
  if !ms.isEmpty then issueMoves a b x rs ms s0 s1
  else
    andRun (runOpers x (headerOnly b ++ runOrder rs) { state := s1, trap := answerOf s0.me ms }) fun t =>
      if isTaskendBundle b && t.trap.isNone && t.block.isNone then .next ⟨traceBlock a .taskend t.state, false, false⟩
      else .next (decideIssue a b x rs s0 s1 t)

/-- The named registers that late data is to land in (R43's numbers), and whether it enters the scalar or the vector queue. -/
def lateDests (c : Ctx) : List Nat × Bool × Bool :=
  (c.flow.records.filter fun r => decide (r.count ≤ 1) && !r.ready).foldl (fun acc r =>
    match r.dest with
    | .scalar n => (n :: acc.1, true, acc.2.2)
    | .lane n _ => ((64 + n) :: acc.1, acc.2.1, acc.2.2)
    | .vector n q => ((64 + n) :: acc.1, acc.2.1, acc.2.2 || q)
    | .pred n => ((32 + n) :: acc.1, acc.2.1, acc.2.2)
    | .predAt _ => ((List.range 16).map (32 + ·) ++ acc.1, acc.2.1, acc.2.2)
    | .tile _ _ => acc
    | .tileAt _ _ _ => acc) ([], false, false)

/-- An operation without its data sources, on whose values no cause of it depends (R23). -/
def withoutData : Instr → Instr
  | .st st h _ base lur size stride ofs => .st st h (.s 0) base lur size stride ofs
  | .strel h _ base lur size ofs => .strel h (.s 0) base lur size ofs
  | .amo h aop _ base _ rd size ofs => .amo h aop (.s 0) base (.s 0) rd size ofs
  | .vst st h p _ base lur stride ofs => .vst st h p .held base lur stride ofs
  | .scat h _ base lur sz idx cnt => .scat h .held base lur sz idx cnt
  | .scatAdd h _ base lur sz idx cnt f => .scatAdd h .held base lur sz idx cnt f
  | .qpush core _ q => .qpush core .held q
  | .vspill h v base lur n1 ofs => .vfill h v base lur n1 ofs
  | i => i

/-- An operation's causes hang on what late data is to bring: they cannot be decided yet (R23). -/
def readsLate (s : State) (w : Instr) : Bool :=
  let d := lateDests s.me
  let i := withoutData w
  let n := info i
  (readsOf i s).any d.1.contains ||
    (d.2.1 && (scalarsRead i s).any fun c => match c with | .qs _ => true | .s _ => false) ||
    (d.2.2 && (n.vs.map Prod.snd ++ n.pv).any fun c => match c with | .qv _ => true | .v _ => false | .held => false)

/-- A bundle whose context has data late (R23, R193): a cause that can be decided is taken, those of operations that read none of the late data
and the lift causes of all; else the context blocks. -/
def issueLate (a : Nat) (x : Inst) (all : List Oper) (s0 s1 : State) : Host.Outcome Issued Fault Refusal :=
  let rs := opersHere s1 x all
  let known := rs.filter fun r => !readsLate (atOper x r s0) r.instr
  let lifts := rs.filterMap fun r => (liftTrap r.instr (atOper x r s1)).map fun e => (r.slot, e)
  let moving := s0.me.moving
  andRun (runOpers x (if moving then [] else runOrder (known.filter fun r => !isMove r.instr))
    { state := s1, trap := answerOf s0.me (rs.filter fun r => isMove r.instr) }) fun t =>
  andRun (if moving then .next [] else moveCauses x rs moving s1 (known.filter fun r => isMove r.instr)) fun l =>
    .next (match firstCause (l ++ lifts) t.trap with
      | some (n, e) => ⟨trapBundle e (afterTrap a x rs n s0 s1), false, false⟩
      | none => ⟨leavePath a .late s0, false, false⟩)

/-- The state in which a bundle's slots are evaluated: after the landings of its cycle (R57). What its issue goes by of the tiles is as they are
then (R23, R208). -/
def landed (a : Nat) (x : Inst) (s : State) : State :=
  let t := freshNotes a x (landAll s a)
  t.modIssue fun i => { i with busy := (t.core (coreOf a)).busy }

/-- One issue of a fetched bundle (R23, R46, R186, R193, R194). -/
def issueBundle (a : Nat) (b : Bundle) (s : State) : Host.Outcome Issued Fault Refusal :=
  let c := s.ctx a
  let len := bundleLength b.hdr
  let s := s.modIssue fun _ => { agent := a, here := c.pc, length := len, clsdef := b.hdr.clsdef, next := c.pc + .ofNat 64 len }
  let all := opersOf c b
  let x := instOf c (orTags (all.map fun r => slotTag r.instr s))
  let s := s.modCtx a fun c => { c with iflat := x.this }
  match earlyTrap b x (all.map (Oper.resume s x)) s with
  | some t => .next ⟨trapBundle t s, false, false⟩
  | none =>
    if lateNow c then issueLate a x all s (landed a x s)
    else if isTaskendBundle b && !c.flow.records.isEmpty then
      .next ⟨(landAll s a).modCtx a fun c => { c with task := { c.task with ending := true } }, true, false⟩
    else issueLanded a b x all s (landed a x s)

end Sys2Proof.Machine
end

