-- ==== Sys2Proof/Machine/Cycle.lean ====
section
/-! DEFINITION. Machine/Cycle.lean: a core cycle of a core and its access processor (R192-R200, R227, R228, R299, R393, R402, R403), the
events that may take place between them (log 1), and the state in which an instruction word is the next to issue (log 2). -/

namespace Sys2Proof.Machine

/-- Go on with the outcome of a part of a step. -/
def andThen (o : Host.Outcome State Fault Refusal) (k : State → Host.Outcome State Fault Refusal) : Host.Outcome State Fault Refusal :=
  match o with
  | .next s => k s
  | .fault f => .fault f
  | .refused f => .refused f

/-! The array's cycle classes (R227, R228). -/

/-- A command consumes a token of another. -/
def waitsFor (m x : Cmd) : Bool := x.out.any fun o => m.deps.contains (.wait o.2)

/-- An LDE, of any core of the cluster, is writing the latch of a command of a core (R209, R227). -/
def underLde (s : State) (core : Nat) (m : Cmd) : Bool := (latchNum m).any fun e => (writingLatch s core e).isSome

/-- A command waits on a latch that an LDE writes, or on an LDE's token (R227). -/
def waitsForLde (s : State) (core : Nat) (m : Cmd) : Bool :=
  underLde s core m || (s.core core).cmds.any fun x => unitOf x.op == 1 && waitsFor m x

/-- The command that the class of a cycle concerns: the one that runs, else the first that an LDE holds back, else the next one. -/
def arrayCmd (s : State) (core : Nat) : Option Cmd :=
  let k := s.core core
  (runningIn k 0).head?.orElse fun _ => ((waitingIn k 0).find? (waitsForLde s core)).orElse fun _ => (waitingIn k 0).head?

/-- The class of this cycle of a core's array: 0 computing, 1 drain, 2 loading weights, 3 awaiting activations, 4 none. How long a product
computes, waits and drains is left open (log 20). -/
def arrayClass (s : State) (core : Nat) : Nat :=
  match arrayCmd s core with
  | none => 4
  | some m =>
    if !m.started then (if waitsForLde s core m then 2 else 3)
    else if !isProduct m then 1
    else match Config.choice s.free % 3 with
      | 0 => 0
      | 1 => 1
      | _ => if (m :: waitingIn (s.core core) 0).any (waitsForLde s core) then 2 else 3

/-- A cycle of a class is charged to a command. -/
def Cmd.charge (n : Nat) (m : Cmd) : Cmd := { m with cycles := mset 0 m.cycles n (mget 0 m.cycles n + 1) }

/-- Count the cycle in its class, and charge it to the command that the class concerns (R228, R406, log 20). -/
def countArray (core : Nat) (s : State) : State :=
  let n := arrayClass s core
  (s.modCore core fun k => { k with
    acyc := mset 0 k.acyc n (mget 0 k.acyc n + 1)
    cmds := match arrayCmd s core with | some m => k.cmds.map fun x => if x.id = m.id then x.charge n else x | none => k.cmds }).tick

/-! What every core cycle counts (R195, R379). -/

/-- The task's time runs: it is on its context and not saved (R379). -/
def taskRuns (c : Ctx) : Bool := isLive c || c.mode == .stopped || c.mode == .starting

/-- A context's counts: cycles ready without issuing (R195), and the task's cycles (R379). -/
def countCtx (a : Nat) (s : State) : State :=
  s.modCtx a fun c =>
    { c with waiting := if c.mode == .ready then c.waiting + 1 else c.waiting
             task := if taskRuns c then { c.task with used := c.task.used + 1 } else c.task }

/-- The task of a context is past its budget, which its stage sets (R379). -/
def overBudget (s : State) (a : Nat) : Bool :=
  let c := s.ctx a
  let b := sdBudget (descOf s c.task)
  c.dir == 1 && isLive c && c.saver == 0 && b != 0 && decide (b * 65536 < c.task.used)

/-- The overruns of a core's contexts come next, each with the request that follows from it (R379, R399). -/
def noteOverruns (core : Nat) (s : State) : State :=
  { s with agenda := s.agenda ++ ((List.range 4).map (4 * core + ·)).flatMap fun a =>
      if overBudget s a then [.budgetOverrun a, .preemptionRequest a] else [] }

/-- A core cycle begins: its number, the records that its cluster's trace unit has still to write (R407), what the special-function unit delivers
and takes, the counts. -/
def beginCycle (core : Nat) (s : State) : Host.Outcome State Fault Refusal :=
  let s := sfuReady core ((flushTrace (core / 8) s).modCore core fun k => { k with cycle := k.cycle + 1 })
  andThen (exec (.sfuTake core) s) fun s =>
    .next (noteOverruns core (((List.range 4).map (4 * core + ·)).foldl (fun s a => countCtx a s) (countArray core s)))

/-! The active context. -/

/-- A context cycle that issues nothing: its records move on, or are late (R194, R199). -/
def landingCycle (a : Nat) (s : State) : State :=
  let c := s.ctx a
  if lateNow c then leavePath a .late s else contextCycle a c.ctl.priv (landAll s a)

/-- Every token of the context has completed (R403). -/
def tokensDone (c : Ctx) : Bool := c.toks.all (fun t => t.2.pend == 0) && c.past.all fun t => t.2.pend == 0

/-- The instance at which an agent's next bundle issues stands in IIDX when a cause comes before it (R331, R338). -/
def atInstance (a : Nat) (s : State) : State :=
  match fetchBundle a s with
  | .trap _ => s
  | .bundle b _ =>
    let t := s.modIssue fun i => { i with agent := a }
    let x := instOf (s.ctx a) (orTags ((opersOf (s.ctx a) b).map fun r => slotTag r.instr t))
    s.modCtx a fun c => { c with iflat := x.this }

/-- After a context cycle of a program under STEP: the stop comes next, or, with DRAIN, once the bundle's results and tokens are in
(R403) (log 43). A cycle that has entered a handler leaves its stop to the return. -/
def stepAfter (a : Nat) (c : Ctl) (done : Bool) (s : State) : State :=
  let drain := c.dbgctl.getLsbD 4
  if !c.dbgctl.getLsbD 3 || c.priv || drain && !done then s
  else if (s.ctx a).ctl.priv then s.modCtx a fun c => { c with saved := { c.saved with step := if drain then 2 else 1 } }
  else if drain then s.modCtx a fun c => { c with hold := 2 }
  else { atInstance a s with agenda := s.agenda ++ [.singleStepStop a] }

/-- The next bundle of an agent is fetched and issues, or not (R179, R23). -/
def issueBundleOf (a : Nat) (s : State) : Host.Outcome State Fault Refusal :=
  let c := s.ctx a
  match fetchBundle a s with
  | .trap t => .next (trapBundle t (s.modIssue fun _ => { agent := a, here := c.pc, next := c.pc }))
  | .bundle b s =>
    andRun (issueBundle a b s) fun r =>
      .next (if r.cycle then stepAfter a c.ctl r.done (contextCycle a c.ctl.priv r.state) else r.state)

/-- The next bundle of a CONTRACT's microcode issues, or meets a blocking cause (R324): one context cycle, after its landings (R198, R199). -/
def issueMicro (a : Nat) (m : Micro) (s : State) : State :=
  let c := s.ctx a
  match cmdOf s (coreOf a) m.id with
  | none => endMicro a m s
  | some cmd =>
    if lateNow c then leavePath a .late s
    else match microBlock a m cmd s with
      | some b => leavePath a b s
      | none => stepAfter a c.ctl false (contextCycle a c.ctl.priv (microStep a m cmd (landAll s a)))

/-- What is next to issue of an agent: the microcode that its CONTRACT has begun, or its next bundle. -/
def issueNext (a : Nat) (s : State) : Host.Outcome State Fault Refusal :=
  match (s.ctx a).flow.micro with
  | some m => .next (issueMicro a m s)
  | none => issueBundleOf a s

/-- The quantum count is reached before a next issue (R196); where what is next to issue meets a blocking cause, an ordinary block comes instead
(R201). -/
def issueOrYield (a : Nat) (s : State) : Host.Outcome State Fault Refusal :=
  andRun (issueNext a s) fun t =>
    match (t.ctx a).mode with
    | .blocked _ => .next t
    | _ => exec (.quantumBlock a) s

/-- What comes before an agent's next bundle issues: a debug stop (R402), a quantum block (R196). -/
def issueUnlessStopped (a : Nat) (s : State) : Host.Outcome State Fault Refusal :=
  if stopDue s a then exec (.debugStop a) (atInstance a s)
  else if quantumDue s a && !(s.ctx a).moving then issueOrYield a s
  else issueNext a s

/-- The return from a trap (R393): the program that waits for the handler's service goes on (R302); fills that a fault interrupted start again (R65,
R438); the stop of a step whose cycle entered the handler comes (R403). -/
def returnNow (a : Nat) (s : State) : Host.Outcome State Fault Refusal :=
  let s := s.modCtx a trapReturn
  let s := if (programOf s a).any fun p => (s.ctx p.2).hold == 4 then resumeProgram a s else s
  let n := (s.ctx a).flow.step
  let s := s.modCtx a fun c => { c with flow := { c.flow with step := 0 } }
  if (s.ctx a).task.fills = 0 then
    if n = 1 then exec (.singleStepStop a) (atInstance a s)
    else if n = 2 then .next (s.modCtx a fun c => { c with hold := 2 })
    else issueUnlessStopped a s
  else
    .next ((s.modCtx a fun c => { c with mode := .starting }).modCore (coreOf a) fun k => { k with active := none })

/-- A context that waits for its records: an ERET (R393), a step to drain (R403), the end of a task for rerun (R186, R380). The microcode of a
CONTRACT in the bundle runs first (R324). -/
def holdCycle (a : Nat) (s : State) : Host.Outcome State Fault Refusal :=
  let c := s.ctx a
  if c.flow.micro.isSome then issueNext a s
  else if c.hold = 1 then (if c.flow.records.isEmpty then returnNow a s else .next (landingCycle a s))
  else if c.hold = 2 then
    .next (if c.flow.records.isEmpty && tokensDone c then { atInstance a s with agenda := s.agenda ++ [.singleStepStop a] } else landingCycle a s)
  else .next (if c.flow.records.isEmpty then leavePath a .taskend s else landingCycle a s)

/-- What the active context does in a core cycle (R193-R196, R201, R402). -/
def runActive (a : Nat) (s : State) : Host.Outcome State Fault Refusal :=
  if (s.ctx a).hold ≠ 0 && !stopDue s a then holdCycle a s else issueUnlessStopped a s

/-- The issue path of a core in one cycle: the active context, or the ready context that is selected (R195). -/
def mainPath (core : Nat) (s : State) : Host.Outcome State Fault Refusal :=
  match (s.core core).active with
  | some j => runActive (4 * core + j) s
  | none =>
    match selectNext s core with
    | some j => runActive (4 * core + j) (activate core j s)
    | none => .next s

/-- A program's fault goes, in hardware mode, to the trap handler of the context that started it, which takes it at a bundle boundary outside a
handler; when the handler returns, the program goes on (R302, R356, log 22). -/
def serveProgram (core owner : Nat) (t : Trap) (s : State) : State :=
  let c := s.ctx owner
  if !isLive c || c.ctl.priv || c.moving || c.hold ≠ 0 then s
  else
    let s := atInstance owner s
    let c := s.ctx owner
    let s := s.modIssue fun _ => { agent := owner, here := c.pc, next := c.pc }
    let d := enterHandler t c.pc s.dev.tvec c
    ((traceTrap t false s).setCtx owner { d with mode := match d.mode with | .blocked _ => .ready | m => m }).modCtx (2048 + core) fun c =>
      { c with hold := 4 }

/-- The access processor's own issue path (R299). -/
def accessPath (core : Nat) (s : State) : Host.Outcome State Fault Refusal :=
  let a := 2048 + core
  let c := s.ctx a
  match (s.core core).access with
  | none => .next s
  | some (owner, _) =>
    if c.mode == .ready then issueNext a s
    else match c.mode, c.answer with
      | .blocked .walk, some t => .next (if c.hold = 0 then serveProgram core owner t s else s)
      | _, _ => .next s

/-- One cycle of a core. A core in reset, or gated, does nothing (R296, R297). -/
def coreCycle (core : Nat) (s : State) : Host.Outcome State Fault Refusal :=
  if (s.core core).inReset || (s.core core).gated then .next s
  else andThen (beginCycle core s) fun s => andThen (mainPath core s) (accessPath core)

/-- The core cycle that comes next: the cores take turns, and the device's time runs on when all have had one (log 1). -/
def nextCycle (s : State) : Host.Outcome State Fault Refusal :=
  andThen (coreCycle s.cur s) fun t =>
    let t := { t with bg := true, cur := (s.cur + 1) % 512 }
    .next (if t.cur = 0 then postRecords (bringUp (passCycle t)) else t)

/-! Background events (log 1). -/

/-- Events that may come only under a condition. -/
def onlyIf (b : Bool) (l : List Instr) : List Instr := if b then l else []

/-- The events of an agent in a mode. What is kept under a number from 4,096 on has none (log 19). -/
def modeEvents (a : Nat) (m : Mode) : List Instr :=
  if 4096 ≤ a then [] else
  match m with
  | .blocked .taskend => if isAccess a then [.taskendComplete a] else [.taskendComplete a, .taskRerun a]
  | .blocked (.trans ..) => [.translationAnswer a]
  | .blocked .walk => []
  | .blocked _ => [.blockEnd a]
  | .ready | .active => [.instructionFetch a]
  | .saving => [.preemptionSaveComplete a]
  | .saved => [.contextResume a]
  | .starting => [.taskStart a]
  | .empty | .stopped => []

/-- A pending access performs by an event of its own: not a load or an atomic operation, which LATE_DATA_ARRIVAL brings, nor what another unit
performs. -/
def ownEvent : Pend → Option Nat
  | .store id .. => some id
  | .access id _ _ _ _ _ act =>
    (match act with
     | .add .. | .line .. | .fetch .. => some id
     | .away | .load .. | .amo .. => none)
  | .fenceC .. => none
  | .fenceR .. => none

/-- The events of an agent. -/
def agentEvents (x : Nat × Ctx) : List Instr :=
  List.flatten [modeEvents x.1 x.2.mode,
    (x.2.order.pend.filterMap ownEvent).map (Instr.storePerform x.1 ·),
    onlyIf (!(pendingLoads x.2).isEmpty) [.lateDataArrival x.1]]

/-- The events of a core. -/
def coreEvents (s : State) (x : Nat × Core) : List Instr :=
  let n := x.1
  let k := x.2
  let has := fun (u : Nat) => k.cmds.any fun m => unitOf m.op == u
  List.flatten [
    onlyIf (has 0) [.arrayCommandStart n, .arrayCommandComplete n],
    onlyIf (has 1) [.latchCommandStart n, .ldeComplete n],
    onlyIf (has 2) [.treeCommandStart n, .treeAccessPerform n],
    onlyIf (has 3) [.copyCommandStart n],
    (runningCopies k).map (fun m => Instr.copyComplete n m.id),
    onlyIf (has 4 || !(suspended n s).isEmpty) [.accessProgramStart n],
    onlyIf (has 5) [.tasksetArm n],
    onlyIf (has 6) [.scheduleEntryStart n, .messageArrival n, .recvComplete n, .ramoRemoteOperation n],
    onlyIf (decide (0 < k.counters)) [.rangeCounterRelease n]]

/-- The events of the merge networks. -/
def mergeEvents (s : State) : List Instr :=
  let some4 := s.cores.filter fun x => x.2.cmds.any fun m => unitOf m.op == 4
  some4.flatMap fun x => let cl := x.1 / 8; [.mgsetOpen cl, .mgpushArrival cl, .mgfinClose cl]

/-- The signals on their way. -/
def signalEvents (s : State) : List Instr :=
  s.dev.signals.zipIdx.map fun g => match g.1 with
    | .flag .. => .flagPostArrival g.2
    | .barrier .. => .barrierArrival g.2
    | .slot .. => .slotDecrement g.2
    | .remote .. => .remoteSignalDelivery g.2
    | .inval .. => .remoteSignalDelivery g.2

/-- The context that the scheduler serves next: one that a staged task waits for, else the lowest (R373, R378). One that has no area holds back no
other (R398). -/
def nextDispatch (s : State) : Option Nat :=
  let l := (s.ctxs.map Prod.fst).filter (takesEntry s)
  (l.find? fun a => (stagedFor s a).isSome).orElse fun _ => l.head?

/-- The scheduler's events: it stages a task where no context can take one now (R373, R378). -/
def schedEvents (s : State) : List Instr :=
  List.flatten [
    onlyIf (s.dev.launches.any fun l => !l.admitted) [.launchAdmission],
    (s.dev.launches.filter fun l => l.admitted).map (fun l => Instr.launchCompletion l.id),
    (nextDispatch s).toList.map (fun a => Instr.taskDispatch a),
    ((s.ctxs.map Prod.fst).filter (lacksArea s)).map (fun a => Instr.taskDispatch a),
    onlyIf (!s.dev.launches.isEmpty && (nextDispatch s).isNone) (s.cores.map fun x => Instr.taskStaging x.1),
    (s.dev.slots.filter fun x => x.2.ready).map (fun x => Instr.slotEnqueue x.1),
    onlyIf (ringCount s.dev != 0) [.ringEntryRead]]

/-- The device's other events. -/
def deviceEvents (s : State) : List Instr :=
  List.flatten [
    s.dev.frees.map (fun f => Instr.freeApply f.agent),
    (s.dev.ctxstop.toList.filter fun a => (s.ctx a).dir == 0).map (fun a => Instr.debugStop a),
    (s.dev.channels.filter fun x => x.2.shaking).map (fun x => Instr.laneLendingHandshake x.1),
    s.dev.mgmt.toList.map (fun c => if c.1 then .mgmtcmdLoad c.2 else .mgmtcmdAttest c.2),
    onlyIf (!s.env.packets.isEmpty) [.remoteSignalDelivery s.dev.signals.length],
    onlyIf s.dev.switching [.fullServiceSwitch],
    onlyIf (!s.env.msgs.isEmpty) [.messageArrival 0]]

/-- The background events that may come next. -/
def candidates (s : State) : List Instr :=
  List.flatten [s.ctxs.flatMap agentEvents, s.cores.flatMap (coreEvents s), mergeEvents s, signalEvents s, schedEvents s, deviceEvents s]

/-- One of the events that may come next, or none: a free value chooses (log 1, log 5). -/
def background (s : State) : Host.Outcome State Fault Refusal :=
  let l := candidates s
  let s := { s.tick with bg := false }
  match l[Config.choice (s.free - 1) % (l.length + 1)]? with
  | some i => exec i s
  | none => .next s

/-! A word as the next to issue (log 2). -/

/-- The bytes of a bundle that holds one word alone, with a stop, and the ports that it takes (R21, R25, R35). -/
def soloBundle (kd : Kind) (i : Instr) (w : Nat) : List Byte :=
  let p := portsOf i
  leBytes 4 (headerWord (soloHeader kd (if kd = .v then p else 0))) ++ leBytes kd.bytes w

/-- Where the program of a placed word stands, its leaf and the tables of its translation (log 2). -/
def placeCode : Nat := 0x100000
/-- The root of the placed tables: the address space of ASID 0. -/
def placeTables : Nat := 0x200000

/-- An upper entry for a table (R352). -/
def tableEntry (pa : Nat) : Nat := pa / 2 ^ 8 * 2 ^ 8 + 1
/-- A leaf that may be read, written and executed, for a page of device memory (R353). -/
def leafEntry (pa : Nat) : Nat := pa / 2 ^ 16 * 2 ^ 16 + 0x1F

/-- The tables by which virtual addresses 0 to 2 MiB - 1 name the same physical addresses for ASID 0, by leaves of 64 KiB for the first
32 pages (R352, R353). -/
def placeMap (s : State) : State :=
  let t := placeTables
  let s := s.writeLE t 8 (tableEntry (t + 0x1000))
  let s := s.writeLE (t + 0x1000) 8 (tableEntry (t + 0x2000))
  let s := s.writeLE (t + 0x2000) 8 (tableEntry (t + 0x3000))
  let s := s.writeLE (t + 0x3000) 8 (tableEntry (t + 0x4000))
  let s := s.writeLE (t + 0x4000) 8 (tableEntry (t + 0x5000))
  let s := (List.range 32).foldl (fun s j => s.writeLE (t + 0x5000 + 8 * j) 8 (leafEntry (j * 2 ^ 16))) s
  s.modDev fun d => { d with ptbase := .ofNat 34 (t / 2 ^ 12) }

/-- The context that runs a placed word: context 0 of core 0, active, with the largest window and all tiles, latches and queues of its
core, privileged where the word is. -/
def placeCtx (priv : Bool) (c : Ctx) : Ctx :=
  { c with
    mode := .active, pc := .ofNat 64 placeCode, dir := 1
    flow := {}, ridx := 0, iflat := 0, group := [], groupNew := [], lines := [], whole := none, hold := 0, moving := false, moveAt := [], barw := [], answer := none, quantum := 0
    ctl := { c.ctl with priv := priv, asid := 0, dbgctl := 0 }
    allot := { window := 768, tiles := 255, latches := 15, queues := 15, stages := 1, launch := none } }

/-- A state in which an instruction's word is the next that issues (log 2). -/
def placeWord (nbits w : Nat) (s : State) : State :=
  match (if nbits ≤ 32 then [Kind.s, .y, .f] else [Kind.v, .m, .x, .k]).findSome? fun kd =>
      (decodeWord kd w).toOption.map fun i => (kd, i) with
  | none => s
  | some (kd, i) =>
    let priv := match i with | .ctlrd .. | .ctlwr .. | .eret | .tlbinv .. => true | _ => false
    let s := (placeMap s).setBytes placeCode (soloBundle kd i w)
    let s := (s.modCtx 0 (placeCtx priv)).modCore 0 fun k => { k with active := some 0, inReset := false, gated := false, tlb := [], access := none }
    { s with cur := 0, bg := false, agenda := [], dev := { s.dev with calbusy := false, reduced := false, boot := 0 } }

end Sys2Proof.Machine
end

