-- ==== Sys2Proof/Machine/Step.lean ====
section
/-! DEFINITION. Machine/Step.lean: one step of the machine, and a state in which a word of the opcode table is the next to issue. -/

namespace Sys2Proof.Machine

/-- One step (log 1): the event that the agenda holds first; else a calendar commit that waits; else, in turn, a background event and
the core cycle that comes next. -/
def step (s : State) : Host.Outcome State Fault Refusal :=
  match s.agenda with
  | i :: r => exec i { s with agenda := r }
  | [] =>
    if s.dev.calbusy && !s.dev.calread then exec .calendarCommit s
    else if s.bg then background s
    else nextCycle s

/-- The state with an instruction's word placed where the next step fetches it (log 2). -/
def State.withFetchWord (s : State) (nbits w : Nat) : State := placeWord nbits w s

end Sys2Proof.Machine
end

