-- ==== Sys2Proof/Safety.lean ====
section
/-! DEFINITION. Safety.lean: the terms of the statements: an issue in order, what an issue leaves unchanged, and the results of the
rules written as tables. -/

namespace Sys2Proof.Spec
open Sys2Proof.Machine

/-! An issue in order. -/

/-- A slot word of the agent in issue may act (R23, R43, R45, R47, R194, R396): no cause stands before its own, and the in-flight buffer
has room. -/
def Ready (i : Instr) (s : State) : Prop := preTrap i s = none ∧ s.me.flow.records.length < 64

/-- No lift level is open (R329): every slot is untagged, and a bundle issues once. -/
def Plain (s : State) : Prop := s.me.flow.lift.levels = []

/-- The bundle issues once: its first instance is its last (R336). -/
def Single (s : State) : Prop := s.issue.first = true ∧ s.issue.last = true

/-- The issue stands as begun: no slot of it has trapped, blocked or stalled. -/
def Clean (s : State) : Prop := s.issue.status = .ok

/-- A result as it enters the in-flight buffer (R199): latency, destination, the bits written (R81), the value, the flags (R114). -/
structure Result where
  lat   : Nat
  dest  : Dest
  mask  : Vec := BitVec.allOnes 2048
  val   : Vec
  flags : BitVec 5 := 0

/-- The step from s to t put one result into the in-flight buffer of the agent, the newest. -/
def Emits (s t : State) (r : Result) (ready : Bool) : Prop :=
  t.me.flow.records = s.me.flow.records ++ [⟨s.free, r.lat, r.dest, r.mask, r.val, r.flags, ready⟩]

/-! What an issue leaves unchanged. -/

/-- Nothing outside the agent in issue changed, but for the counter of free values: memory, barrier tags, images, cores, clusters, the
device, the inputs, the other agents. -/
def Outside (s t : State) : Prop :=
  t = { s with ctxs := t.ctxs, free := t.free } ∧ ∀ a, a ≠ s.issue.agent → t.ctx a = s.ctx a

/-- Of the agent, only its in-flight records, its hold latches (R37), its sticky operation (R38), the names of its group (R43) and the
tags to come (R336) changed: no register, flag, token, status or pc. -/
def OnlyResult (s t : State) : Prop :=
  t.me = { s.me with
    flow := { s.me.flow with
      records := t.me.flow.records, holds := t.me.flow.holds, sticky := t.me.flow.sticky, retag := t.me.flow.retag }
    groupNew := t.me.groupNew }

/-- The same, but for the instances of predicates and tiles in the spill area, of which a result that takes more levels starts its own
(R334). -/
def OnlyInstance (s t : State) : Prop :=
  t.me = { s.me with
    flow := { s.me.flow with
      records := t.me.flow.records, holds := t.me.flow.holds, sticky := t.me.flow.sticky, retag := t.me.flow.retag
      lift := { s.me.flow.lift with predAt := t.me.flow.lift.predAt, tileAt := t.me.flow.lift.tileAt } }
    groupNew := t.me.groupNew } ∧
  (Plain s → t.me.flow.lift = s.me.flow.lift)

/-- A slot word whose only effect is its result. -/
def JustResult (s t : State) (r : Result) : Prop := Emits s t r true ∧ OnlyResult s t ∧ Outside s t

/-- A slot word without a result and without an effect of its own. -/
def Nothing (s t : State) : Prop := t.me.flow.records = s.me.flow.records ∧ OnlyResult s t ∧ Outside s t

/-- In order, the word completes, and its one effect is a result: the next state is the old one with the result in flight. -/
def Gives (i : Instr) (s : State) (r : Result) : Prop := Ready i s → ∃ t, exec i s = .next t ∧ JustResult s t r

/-- The issue is that of a V slot (R21). -/
def InV (s : State) : Prop := 2 ≤ s.issue.slot ∧ s.issue.slot ≤ 4

/-- An agent with other hold latches (R37), sticky operations (R38) and names of its group (R43): what every slot word sets. -/
def slotted (h : FMap (Option Hold)) (k : FMap (Option Sticky)) (g : List Nat) (c : Ctx) : Ctx :=
  { c with flow := { c.flow with holds := h, sticky := k }, groupNew := g }

/-- The agent in issue is the one given, but for what every slot word sets. -/
def Becomes (t : State) (c : Ctx) : Prop := ∃ h k g, t.me = slotted h k g c

/-- The word completes, and its one effect is that its agent becomes the one given. -/
def Makes (i : Instr) (s : State) (c : Ctx) : Prop := ∃ t, exec i s = .next t ∧ Becomes t c ∧ Outside s t

/-- The word takes a cause (R46): the next state is that in which the agent has taken the trap. -/
def Traps (i : Instr) (s : State) (x : Trap) : Prop :=
  exec i s = .next ((takeTrap x s).modIssue fun k => { k with status := .trapped x })

/-- The trap part that a trap sets aside: a debug-bit break that was taken stays noted until its bundle has issued, as a TRAP has (R393). -/
def broken (x : Trap) (f : Flow) : Flow := { f with brk := f.brk && decide (x.cause ≠ 0x30) || decide (x.cause = 0x29) }

/-- The word blocks its bundle (R193): the next state is that in which the agent waits for the cause. -/
def Blocks (i : Instr) (s : State) (b : Blk) : Prop :=
  exec i s = .next ((blockOn s.issue.agent b s).modIssue fun k => { k with status := .blocked b })

/-- The word stalls its bundle (R97, R186, R194): nothing changes. -/
def Stalls (i : Instr) (s : State) : Prop := exec i s = .next (s.modIssue fun k => { k with status := .stalled })

/-! The values of results. The operands are read in `s`, in the instance of the issue (R332-R334). The destination is the register, or,
under a tag, its instance. -/

/-- A scalar result (R56, R70). -/
def GivesScalar (i : Instr) (s : State) (lat : Nat) (d : BitVec 5) (v : W64) : Prop :=
  Gives i s { lat := lat, dest := s.destS (slotTag i s) d, val := v.setWidth 2048 }

/-- A 13-bit immediate (R70). -/
def imm13 (i : BitVec 13) : W64 := BitVec.ofInt 64 i.toInt

/-- A product's high half (R70). -/
def highProduct (u : Bool) (a b : W64) : W64 :=
  if u then BitVec.ofNat 64 (a.toNat * b.toNat / 2 ^ 64) else BitVec.ofInt 64 (a.toInt * b.toInt / 2 ^ 64)
/-- A quotient, toward zero; all ones for a zero divisor (R70, R71). -/
def quotient (u : Bool) (a b : W64) : W64 :=
  if b = 0 then BitVec.allOnes 64 else if u then BitVec.ofNat 64 (a.toNat / b.toNat) else BitVec.ofInt 64 (a.toInt.tdiv b.toInt)
/-- A remainder; the dividend for a zero divisor (R70, R71). -/
def remainder (u : Bool) (a b : W64) : W64 :=
  if b = 0 then a else if u then BitVec.ofNat 64 (a.toNat % b.toNat) else BitVec.ofInt 64 (a.toInt.tmod b.toInt)
/-- a is less than b (R70, R72). -/
def less (u : Bool) (a b : W64) : Bool := if u then decide (a.toNat < b.toNat) else decide (a.toInt < b.toInt)
/-- The lesser. -/
def lesser (u : Bool) (a b : W64) : W64 := if less u a b then a else b
/-- The greater. -/
def greater (u : Bool) (a b : W64) : W64 := if less u b a then a else b
/-- The conditions of CMP (R72). -/
def condition (c : Nat) (a b : W64) : Bool :=
  match c with
  | 0 => decide (a = b) | 1 => decide (a ≠ b) | 2 => less false a b | 3 => !less false a b | 4 => less true a b | 5 => !less true a b
  | 6 => less false b a | 7 => !less false b a | 8 => less true b a | _ => !less true b a
/-- The value of a condition. -/
def truth (b : Bool) : W64 := if b then 1 else 0
/-- BFX (R74): the field of `a` at `p`, `w` bits wide, cut at bit 63. -/
def field (sx : Bool) (a : W64) (p w : Nat) : W64 :=
  let n := Nat.min (p + w) 64 - p
  let f := a.toNat / 2 ^ p % 2 ^ n
  if sx then BitVec.ofInt 64 ((f : Int).bmod (2 ^ n)) else BitVec.ofNat 64 f

/-- A vector of lanes of w bits. -/
def lanes (w : Nat) (f : Nat → Nat) : Vec := ofLanes w ((List.range (2048 / w)).map f)

/-- A vector result by lanes (R81): the governed lanes are written; the others keep their value, or take 0 under Z. Only the lanes kept
raise flags (R82). -/
def GivesLanes (i : Instr) (s : State) (lat : Nat) (d : BitVec 10) (w : Nat) (p : Pred) (z : Bool) (f : Nat → Nat × BitVec 5) : Prop :=
  InV s → Gives i s
    { lat := lat, dest := s.destV (slotTag i s) d.toNat
      mask := if z then BitVec.allOnes 2048 else laneMask w p
      val := if z then lanes w (fun l => (f l).1) &&& laneMask w p else lanes w fun l => (f l).1
      flags := keptFlags w p ((List.range (2048 / w)).map f) }

/-- A lane of a source code of a field. -/
def src (s : State) (w fld : Nat) (c : VCode) (l : Nat) : Nat := laneN w (s.vc fld c) l

/-- The lanes of a chainable instruction (R80, R83): the first unit on the lanes of its sources, then the cascade on those of its new
operands. The codes stand in fields A on. -/
def GivesChain (i : Instr) (s : State) (h : VHead) (d : BitVec 10) (xs : List VCode) (ch : Chain) (lat : Nat)
    (f : List Nat → Nat × BitVec 5) : Prop :=
  let m := h.mode.toNat
  let w := widthOf m
  GivesLanes i s (lat + chainLat m ch) d w (s.pr h.pred) h.z fun l =>
    chainLane m ch (f (xs.zipIdx.map fun x => src s w x.2 x.1 l)) ((ch.srcs xs.length).map fun x => src s w x.1 x.2 l)

/-- A predicate result (R59, R81, R94): the bits under `g` are written; the others keep their value, or take 0 under Z. -/
def GivesPred (i : Instr) (s : State) (lat : Nat) (d : BitVec 4) (g : Pred) (z : Bool) (v : Pred) (fl : BitVec 5) : Prop :=
  InV s → Ready i s → ∃ t, exec i s = .next t ∧ OnlyInstance s t ∧ Outside s t ∧
    Emits s t
      { lat := lat, dest := s.destP (slotTag i s) d, flags := fl
        mask := (if z then BitVec.allOnes 256 else g).setWidth 2048, val := (if z then v &&& g else v).setWidth 2048 } true

/-- Elements written from bit `base` on (R117, R120): element j, of w bits, is written when it is selected; the others keep their value,
or take the zero code under Z. -/
def GivesPart (i : Instr) (s : State) (lat : Nat) (d : BitVec 10) (w base zc n : Nat) (z : Bool) (sel : Nat → Bool)
    (f : Nat → Nat × BitVec 5) : Prop :=
  InV s → Gives i s
    { lat := lat, dest := s.destV (slotTag i s) d.toNat
      mask := BitVec.ofNat 2048 (joinLanes w ((List.range n).map fun j => if sel j || z then 2 ^ w - 1 else 0) * 2 ^ base)
      val := BitVec.ofNat 2048 (joinLanes w ((List.range n).map fun j => if sel j then (f j).1 else zc) * 2 ^ base)
      flags := ((List.range n).filter sel).foldl (fun x j => x ||| (f j).2) 0 }

/-- With stochastic rounding, the word completes with one result of the latency and the destination given, and the generator moves on;
nothing else changes (R113). -/
def GivesDrawn (i : Instr) (s : State) (lat : Nat) (d : BitVec 10) : Prop :=
  Ready i s → ∃ t r, exec i s = .next t ∧ Emits s t r true ∧ Outside s t ∧ r.lat = lat ∧ r.dest = s.destV (slotTag i s) d.toNat ∧
    Becomes t { s.me with
      regs := { s.me.regs with gen := t.me.regs.gen }
      flow := { s.me.flow with records := t.me.flow.records, retag := t.me.flow.retag } }

/-- A record (R109, R118) from 32 values: its scale code and its elements, with their flags. -/
def recordOf (rc mode : Nat) (xs : List Machine.Num) : Nat × List (Nat × BitVec 5) := packBlock rc mode xs (xs.map fun _ => none)

/-- The state in which a V slot reads a lane of `v` under a predicate as a number; 0 where it is not selected (R118). -/
def packedLane (g : Pred) (v : Vec) (l : Nat) : Machine.Num := numOf 0 (if predLane 32 g l then laneN 32 v l else 0)

/-! Control slots. -/

/-- The outcomes of a control slot's issues so far, with this one's (R336, R342): an untagged slot acts in the bundle's first issue, a
tagged one in every issue. -/
def votesWith (i : Instr) (s : State) (v : Bool × W64) : List (Bool × W64) :=
  if slotTag i s ≠ 0 ∨ s.issue.first = true then (if s.issue.first then [v] else s.me.flow.votes ++ [v]) else s.me.flow.votes

/-- The agent, with other outcomes noted. -/
def withVotes (s : State) (l : List (Bool × W64)) : Ctx := { s.me with flow := { s.me.flow with votes := l } }

/-- The transfer that an outcome makes (R175, R181): the bundle's successor stands at the target. -/
def sent (k : Issue) (v : Bool × W64) : Issue := if v.1 then { k with next := v.2, taken := true } else k

/-- The word completes: its agent becomes the one given, and the bundle makes a transfer; nothing else changes. -/
def MakesAndSends (i : Instr) (s : State) (c : Ctx) (v : Bool × W64) : Prop :=
  ∃ t, exec i s = .next t ∧ Becomes t c ∧ t.issue = sent s.issue v ∧ Outside s { t with issue := s.issue }

/-- A control slot acts in this issue (R342): the bundle issues once, or this is its last issue, and every issue of the tagged slot gave
the outcome given. -/
def Turn (i : Instr) (s : State) (v : Bool × W64) : Prop :=
  s.issue.last = true ∧
    (s.issue.first = true ∨ slotTag i s ≠ 0 ∧ s.me.flow.votes ≠ [] ∧ ∀ x ∈ s.me.flow.votes, x = v)

/-- A branch (R181, R183, R342): but for a bundle's last issue it notes its outcome; in the last it transfers as all the issues say, and
raises 0x11 when they differ. -/
def Branches (i : Instr) (s : State) (v : Bool × W64) : Prop :=
  Ready i s →
    let l := votesWith i s v
    (s.issue.last = false → Makes i s (withVotes s l)) ∧
    (s.issue.last = true → ∀ x, l.head? = some x → (∀ y ∈ l, y = x) → MakesAndSends i s (withVotes s []) x) ∧
    (s.issue.last = true → ∀ x y, x ∈ l → y ∈ l → x ≠ y → Traps i s (s.cause 0x11))

/-- The link of a bundle: the address after it (R184). -/
def returnAddress (s : State) : W64 := s.issue.here + BitVec.ofNat 64 s.issue.length

/-! Engine commands. -/

/-- An engine instruction changes, beside the commands and tile busy bits of its core and the tokens of its agent, only what every slot
word sets, the tags to come (R336), the instances of tiles and predicates that a result starts (R334), and the links of the fabric (R412,
R413): no register, memory, flag or pc. -/
def OnlyCommand (s t : State) : Prop :=
  t.mem = s.mem ∧ t.stale = s.stale ∧ t.bars = s.bars ∧ t.images = s.images ∧ t.clusters = s.clusters ∧ t.env = s.env ∧
    t.agenda = s.agenda ∧ t.issue = s.issue ∧ t.dev = { s.dev with links := t.dev.links } ∧
    (∀ n, n ≠ coreOf s.issue.agent → t.core n = s.core n) ∧
    t.core (coreOf s.issue.agent) = { s.core (coreOf s.issue.agent) with
      cmds := (t.core (coreOf s.issue.agent)).cmds, busy := (t.core (coreOf s.issue.agent)).busy } ∧
    (∀ a, a ≠ s.issue.agent → t.ctx a = s.ctx a) ∧
    t.me = { s.me with
      toks := t.me.toks, past := t.me.past, groupNew := t.me.groupNew
      flow := { s.me.flow with
        holds := t.me.flow.holds, sticky := t.me.flow.sticky, retag := t.me.flow.retag
        lift := { s.me.flow.lift with predAt := t.me.flow.lift.predAt, tileAt := t.me.flow.lift.tileAt } } } ∧
    (Plain s → t.me.flow.lift = s.me.flow.lift)

/-- This issue is the first, in issue order, in which the slot acts in its bundle: a token is then produced (R340). -/
def FirstInstance (i : Instr) (s : State) : Prop :=
  slotTag i s = 0 ∨ (actors s.me.flow.lift s.issue.tag (slotTag i s)).head? = some s.issue.flat

/-- An engine instruction that is in order (R32, R206, R282, R340): its bundle blocks while the queue is full; else it completes, and
sends one command, with the scalars it captures and the tokens it waits for. The token it produces counts the commands of all instances,
under the first one; every other token is as before. The busy bit of its tile is set (R208). -/
def Sends (i : Instr) (s : State) (ins : List (BitVec 5)) (out : Option (BitVec 5)) (caps : List W64) : Prop :=
  let c := s.core (coreOf s.issue.agent)
  let count := if slotTag i s = 0 then 1 else (actors s.me.flow.lift s.issue.tag (slotTag i s)).length
  (unitCap (unitOf i) ≤ (waitingIn c (unitOf i)).length → Blocks i s (.queue (unitOf i))) ∧
  ((waitingIn c (unitOf i)).length < unitCap (unitOf i) → ∃ t m, exec i s = .next t ∧ OnlyCommand s t ∧
    (t.core (coreOf s.issue.agent)).cmds = c.cmds ++ [m] ∧
    (t.core (coreOf s.issue.agent)).busy =
      (match (info i).tile with | some n => if unitOf i = 0 then c.busy ||| (1#8 <<< n.toNat) else c.busy | none => c.busy) ∧
    m.op = i ∧ m.agent = s.issue.agent ∧ m.asid = s.me.ctl.asid ∧ m.caps = caps ∧ m.started = false ∧
    m.out = out.map (fun k => (k.toNat, (mget ({} : Token) t.me.toks k.toNat).inst)) ∧
    (FirstInstance i s → m.deps = ins.map fun k => depOf (mget {} s.me.toks k.toNat)) ∧
    (∀ k, FirstInstance i s → out.map BitVec.toNat = some k → mget ({} : Token) t.me.toks k = { pend := count, inst := s.free }) ∧
    (∀ k, ¬FirstInstance i s ∨ out.map BitVec.toNat ≠ some k → mget ({} : Token) t.me.toks k = mget {} s.me.toks k))

/-- An engine instruction with a check of its own: it raises the cause that the check gives, or sends its command. -/
def Queues (i : Instr) (s : State) (trap : Option Trap) (ins : List (BitVec 5)) (out : Option (BitVec 5)) (caps : List W64) : Prop :=
  preTrap i s = none → (∀ x, trap = some x → Traps i s x) ∧ (trap = none → Sends i s ins out caps)

/-- The queue of an engine instruction is full (R206). -/
def QueueFull (i : Instr) (s : State) : Prop :=
  unitCap (unitOf i) ≤ (waitingIn (s.core (coreOf s.issue.agent)) (unitOf i)).length

/-- An engine instruction on a tile: a full queue blocks its bundle (R206); it stalls while the tile is busy (R208); else it completes. -/
def QueuesOn (md : BitVec 3) (i : Instr) (s : State) (trap : Option Trap) (ins : List (BitVec 5)) (out : Option (BitVec 5))
    (caps : List W64) : Prop :=
  preTrap i s = none → (∀ x, trap = some x → Traps i s x) ∧ (trap = none → QueueFull i s → Blocks i s (.queue (unitOf i))) ∧
    (trap = none → ¬QueueFull i s → tileBusy md s = true → Stalls i s) ∧
    (trap = none → tileBusy md s = false → Sends i s ins out caps)

/-- The command of an engine instruction is the newest of its core, with the operands given; of the machine nothing else changes but what
engine instructions change. -/
def Queued (i : Instr) (caps : List W64) (s t : State) : Prop :=
  let n := coreOf s.issue.agent
  OnlyCommand s t ∧ ∃ m, (t.core n).cmds = (s.core n).cmds ++ [m] ∧ m.op = i ∧ m.agent = s.issue.agent ∧ m.caps = caps ∧ m.started = false

/-- A cause under a condition. -/
def causeIf (b : Bool) (x : Trap) : Option Trap := if b then some x else none

/-- The agent with one more pending access, the newest. -/
def withPend (c : Ctx) (p : Pend) : Ctx := { c with order := { c.order with pend := c.order.pend ++ [p] } }

/-- A slot word sends a signal, a release over all classes at a scope (R157): the signal follows the accesses that the release covers (R164), and
until it arrives it is an access of the agent that has not performed. Nothing else of the machine changes. -/
def Signals (i : Instr) (s : State) (scope : Nat) (g : List Nat → Option Nat → Signal) : Prop :=
  let waits := mustFirst ⟨none, none, some scope, []⟩ s.me.order.pend
  ∃ t, exec i s = .next t ∧ Becomes t (withPend s.me (.access s.free none scope true s.me.ctl.asid [] .away)) ∧
    t.dev = { s.dev with signals := s.dev.signals ++ [g waits (some s.free)] } ∧ Outside s { t with dev := s.dev }

/-- KILL completes: the registers that the mask names, inside the window, are killed, but for those killed and restored before (R60, R61);
nothing else changes. -/
def Kills (i : Instr) (s : State) (blk : Nat) (mask : Nat → Bool) : Prop :=
  ∃ t, exec i s = .next t ∧ Becomes t { s.me with regs := { s.me.regs with killed := t.me.regs.killed } } ∧ Outside s t ∧
    ∀ n, mget 0 t.me.regs.killed n =
      if n / 64 = blk ∧ mask (n % 64) = true ∧ n < windowOf s ∧ mget 0 s.me.regs.killed n = 0 then 1 else mget 0 s.me.regs.killed n

/-! Accesses. -/

/-- The cells that a store writes at keys: virtual address, key, byte. -/
def cells (ks : List (Nat × Option Nat)) (v : Nat → Byte) : List (Nat × Nat × Byte) :=
  ks.zipIdx.filterMap fun x => x.1.2.map fun k => (x.1.1, k, v x.2)

/-- The byte that a list of cells leaves at a key: the last one listed for it. -/
def written (cs : List (Nat × Nat × Byte)) (k : Nat) : Option Byte := (cs.reverse.find? fun c => c.2.1 == k).map fun c => c.2.2

/-- A core but for its translations, its instruction cache and its loop bodies: what accesses and stores fill and drop (R174, R176, R354). -/
def SameCore (k l : Core) : Prop := l = { k with tlb := l.tlb, icache := l.icache, bodies := l.bodies }

/-- A core but for the instruction-cache lines and loop bodies that a store of the part drops (R176). -/
def SameCode (k l : Core) : Prop := l = { k with icache := l.icache, bodies := l.bodies }

/-- A cluster but for its L1 copies, the trace records that wait in its trace unit, and the banks accessed in this cycle. -/
def SameCluster (k l : Cluster) : Prop := l = { k with l1 := l.l1, met := l.met, trace := { k.trace with pend := l.trace.pend } }

/-- Every pending access of the agent in issue is a plain store or a fence: forcing it fills no record. -/
def StoresOnly (s : State) : Prop := ∀ p ∈ s.me.order.pend, ∀ id cls sc ld asid cells act, p ≠ .access id cls sc ld asid cells act

/-- Another context but for the values of its in-flight records. -/
def SameButRecords (c d : Ctx) : Prop :=
  d = { c with flow := { c.flow with records := d.flow.records }, saved := { c.saved with records := d.saved.records } }

/-- An access of the agent changes, beside memory, only held translations, L1 copies, code lines and loop bodies that stores drop, the traffic of
channels and the use of lines (R130, R145), the inputs, the bytes behind the caches and the agent's own pending accesses, in-flight records,
hold latches (R37), sticky operation (R38) and tags to come: no register, flag, token or pc. Of another agent nothing changes while the
agent's own pending accesses are stores, and else no more than a record that an access fills. -/
def OnlyAccess (s t : State) : Prop :=
  t.bars = s.bars ∧ t.images = s.images ∧ t.dev = { s.dev with channels := t.dev.channels, uses := t.dev.uses } ∧ t.agenda = s.agenda ∧
    t.cur = s.cur ∧ t.bg = s.bg ∧ t.issue = s.issue ∧ t.env.msgs = s.env.msgs ∧
    (∀ a, a ≠ s.issue.agent → SameButRecords (s.ctx a) (t.ctx a)) ∧ (StoresOnly s → ∀ a, a ≠ s.issue.agent → t.ctx a = s.ctx a) ∧
    (∀ n, SameCore (s.core n) (t.core n)) ∧ (∀ n, SameCluster (s.cluster n) (t.cluster n)) ∧
    t.me = { s.me with
      order := t.me.order, groupNew := t.me.groupNew, saved := { s.me.saved with records := t.me.saved.records }
      flow := { s.me.flow with
        records := t.me.flow.records, holds := t.me.flow.holds, sticky := t.me.flow.sticky, retag := t.me.flow.retag } }

/-- The same of an access that performs none of the agent's earlier ones; but an auto-commit may have written a tile's tables (R355), and
dropped what was held of the tile: translations, copies and fetch lines. -/
def OnlyCommits (s t : State) : Prop :=
  t.bars = s.bars ∧ t.images = s.images ∧ t.dev = { s.dev with channels := t.dev.channels } ∧ t.agenda = s.agenda ∧ t.cur = s.cur ∧ t.bg = s.bg ∧ t.issue = s.issue ∧
    t.env.msgs = s.env.msgs ∧ (∀ a, a ≠ s.issue.agent → t.ctx a = { s.ctx a with lines := (t.ctx a).lines }) ∧
    (∀ n, SameCore (s.core n) (t.core n)) ∧ (∀ n, t.cluster n = { s.cluster n with l1 := (t.cluster n).l1 }) ∧
    t.me = { s.me with
      order := t.me.order, groupNew := t.me.groupNew, lines := t.me.lines
      flow := { s.me.flow with
        records := t.me.flow.records, holds := t.me.flow.holds, sticky := t.me.flow.sticky, retag := t.me.flow.retag } }

/-- Both: the agent's earlier accesses may perform, and a tile may be committed. -/
def OnlyBoth (s t : State) : Prop := ∃ p q, OnlyCommits s p ∧ OnlyAccess p q ∧ OnlyCommits q t

/-- A load of the bytes at keys, in the state in which its addresses are translated: the agent's accesses that must go first perform; then it
reads its value, ready at once, unless its data is late (R149) or one of those accesses waits for another unit (R161): then its
record waits for the value, and the load joins the agent's pending accesses. -/
def LoadsAt (i : Instr) (s p : State) (cls : BitVec 4) (scope : BitVec 3) (sync lur : Bool) (shape : Shape) (step : Option Int)
    (starts : List Nat) (ks : List (Nat × Option Nat)) (kind n : Nat) (u : BitVec 3) (r : Nat → Result) : Prop :=
  let b := plainLater cls (cellsOf ks)
  let q := inOrder b (noteTag kind n u p)
  let waits := q.env.late.headD false = true ∨ heldBy b q ≠ []
  (¬waits → ∃ t, exec i s = .next t ∧ OnlyAccess s t ∧ Emits q t (r (loadValue sync ks q)) true ∧ t.mem = q.mem ∧
    t.me.order = q.me.order) ∧
  (waits → ∃ t, exec i s = .next t ∧ OnlyAccess s t ∧ Emits q t { r 0 with val := 0 } false ∧ t.mem = q.mem ∧
    t.me.order.pend = q.me.order.pend ++
      [.access q.free (some cls) scope.toNat true s.me.ctl.asid (cellsOf ks) (.load q.free sync lur shape step starts ks)])

/-- A load (R149-R151, R153) at an address, of the bytes at the offsets. It raises 0x0D when misaligned, and ends as its translation
ends when that fails; else it completes. -/
def Loads (i : Instr) (s : State) (cls : BitVec 4) (scope : BitVec 3) (sync lur : Bool) (shape : Shape) (step : Option Int) (a : W64)
    (al : Nat) (offs : List Nat) (kind n : Nat) (r : Nat → Result) : Prop :=
  let need := if sync then Need.home else .read
  (preTrap i s = none → a.toNat % al ≠ 0 → Traps i s (s.cause 0x0D 0 a)) ∧
  (preTrap i s = none → a.toNat % al = 0 → ∀ e, keysOf need a offs (afterReads i s) = .error e → exec i s = finish s e) ∧
  (Ready i s → a.toNat % al = 0 → ∀ ks p, keysOf need a offs (afterReads i s) = .ok (ks, p) →
    LoadsAt i s p cls scope sync lur shape step [] ks kind n (slotTag i s) r)

/-- The slot acts here for the last time in its bundle, in issue order: in an axis conflict this instance stores (R341). -/
def LastInstance (i : Instr) (s : State) : Prop :=
  (actors s.me.flow.lift s.issue.tag (slotTag i s)).getLast? = some s.issue.flat

/-- A store (R149-R151, R153, R278, R341) at an address, of the bytes at the offsets: `data` and `addr` are the tags of its value and its
address, `lur` is the `.last` bit. It raises 0x12 in an axis conflict without the bit, 0x0D when misaligned, 0x0E at a live granule, and
ends as its translation ends when that fails; else it completes: the store joins the agent's pending ones, and no byte changes yet. In an
axis conflict only the last instance stores. -/
def Stores (i : Instr) (s : State) (cls : BitVec 4) (scope : BitVec 3) (rel : Bool) (data addr : BitVec 3) (lur : Bool) (a : W64) (al : Nat)
    (offs : List Nat) (v : Nat → Byte) : Prop :=
  let acts := axisConflict data addr = false ∨ lur = true ∧ LastInstance i s
  (preTrap i s = none → axisConflict data addr = true → lur = false → Traps i s (s.cause 0x12)) ∧
  (preTrap i s = none → axisConflict data addr = true → lur = true → ¬LastInstance i s → ∃ t, exec i s = .next t ∧ Nothing s t) ∧
  (preTrap i s = none → acts → a.toNat % al ≠ 0 → Traps i s (s.cause 0x0D 0 a true)) ∧
  (preTrap i s = none → acts → a.toNat % al = 0 → ∀ e, keysOf .write a offs (afterReads i s) = .error e → exec i s = finish s e) ∧
  (preTrap i s = none → acts → a.toNat % al = 0 → ∀ ks p, keysOf .write a offs (afterReads i s) = .ok (ks, p) →
    (∀ x, liveHit ks p = some x → Traps i s (s.cause 0x0E 0 (.ofNat 64 x) true)) ∧
    (liveHit ks p = none → ∃ t, exec i s = .next t ∧ t.mem = p.mem ∧ t.stale = p.stale ∧ OnlyCommits s t ∧
      t.me.flow.records = s.me.flow.records ∧
      t.me.order.pend = s.me.order.pend ++
        (if cells ks v = [] then [] else [.store s.free cls scope.toNat rel s.me.ctl.asid (cells ks v)])))

/-- The moves of VSPILL or VFILL in one cycle (R67): k of them, from the progress count g on. -/
def Moves (move : Nat → State → Res) : Nat → Nat → State → State → Prop
  | 0, _, s, t => t = s
  | k + 1, g, s, t => ∃ r, move g s = .ok r ∧ Moves move k (g + 1) (setProgress (g + 1) r) t

/-- The pending stores of a scatter (R310), one for each lane, in order: identifiers from `id` on. -/
def scattered (cls : BitVec 4) (scope : Nat) (asid : BitVec 16) (v : Vec) (n : Nat) : Nat → List (Nat × List (Nat × Option Nat)) → List Pend
  | _, [] => []
  | id, (l, ks) :: r =>
    let c := cells ks fun o => v.extractLsb' (8 * (n * l + o)) 8
    if c = [] then scattered cls scope asid v n id r
    else .store id cls scope false asid c :: scattered cls scope asid v n (id + 1) r

/-- The pending accesses of SCAT.ADD (R311), one for each address, in order: identifiers from `id` on. -/
def addedLanes (cls : BitVec 4) (scope : Nat) (asid : BitVec 16) (fadd : Bool) (n : Nat) : Nat → List (W64 × List (Nat × Option Nat) × Nat) → List Pend
  | _, [] => []
  | id, (_, ks, v) :: r =>
    .access id (some cls) scope false asid (cellsOf ks) (.add fadd n v ks) :: addedLanes cls scope asid fadd n (id + 1) r

/-- No core or cluster holds anything of a virtual range under an ASID (R359): translations, copies, code lines, and what the contexts of the ASID
have read ahead. -/
def Dropped (asid : BitVec 16) (lo hi : Nat) (t : State) : Prop :=
  let meets := fun (b n : Nat) => b < hi ∧ lo < b + n
  (∀ n, (∀ x ∈ (t.core n).tlb, ¬(x.asid = asid ∧ meets x.base (2 ^ x.bits))) ∧
    ∀ x ∈ (t.core n).icache, ¬(x.asid = asid ∧ meets (x.line * 64) 64)) ∧
  (∀ n, ∀ x ∈ (t.cluster n).l1, ¬(x.asid = asid ∧ meets (x.vline * 128) 128)) ∧
  ∀ a, (t.ctx a).ctl.asid = asid → ∀ x ∈ (t.ctx a).lines, ¬meets (x.1 * 64) 64

/-- The tiles of COMMIT or DECOMMIT (R359): n of them, from the j-th on. -/
def Tiles (step : Nat → State → Except Trap State) (base : W64) : Nat → Nat → State → State → Prop
  | 0, _, s, t => t = s
  | n + 1, j, s, t => ∃ r, step (vaAt base (j * 65536)) s = .ok r ∧ Tiles step base n (j + 1) r t

/-! Events. -/

/-- Of the machine, only one context changed. -/
def OnlyAgent (a : Nat) (s t : State) : Prop :=
  t = { s with ctxs := t.ctxs, free := t.free } ∧ ∀ b, b ≠ a → t.ctx b = s.ctx b

/-- Of the machine, only one core changed. -/
def OnlyCore (n : Nat) (s t : State) : Prop :=
  t = { s with cores := t.cores, free := t.free } ∧ ∀ m, m ≠ n → t.core m = s.core m

/-- Of the machine, only the device part changed. -/
def OnlyDevice (s t : State) : Prop := t = { s with dev := t.dev, free := t.free }

/-- No trace session is open (R405): no event is recorded. -/
def Untraced (s : State) : Prop := ∀ n, (s.cluster n).trace.opened = false

/-- Beside contexts and cores, only what a trace unit writes changed (R405): its part of memory, as a store of the home, its own state and the
traffic of channels. With no session open, nothing did. -/
def ButTrace (s t : State) : Prop :=
  t = { s with
    ctxs := t.ctxs, cores := t.cores, mem := t.mem, stale := t.stale, l2 := t.l2, clusters := t.clusters
    dev := { s.dev with channels := t.dev.channels }, free := t.free } ∧
  (∀ n, t.cluster n = { s.cluster n with l1 := (t.cluster n).l1, trace := (t.cluster n).trace }) ∧
  (Untraced s → t = { s with ctxs := t.ctxs, cores := t.cores, free := t.free })

/-- The event completes, and its agent becomes the one given. -/
def AgentBecomes (i : Instr) (a : Nat) (s : State) (c : Ctx) : Prop := ∃ t, exec i s = .next t ∧ OnlyAgent a s t ∧ t.ctx a = c

/-- The event completes, and its core becomes the one given. -/
def CoreBecomes (i : Instr) (n : Nat) (s : State) (k : Core) : Prop := ∃ t, exec i s = .next t ∧ OnlyCore n s t ∧ t.core n = k

/-- The event completes, and the device part becomes the one given. -/
def DeviceBecomes (i : Instr) (s : State) (d : Device) : Prop := ∃ t, exec i s = .next t ∧ OnlyDevice s t ∧ t.dev = d

/-- The event completes, and changes nothing. -/
def Idle (i : Instr) (s : State) : Prop := exec i s = .next s

/-- Bits of a merge: under the mask the new ones, elsewhere the old ones (R81). -/
def Merged {n : Nat} (mask v old new : BitVec n) : Prop := ∀ i, i < n → new.getLsbD i = if mask.getLsbD i then v.getLsbD i else old.getLsbD i

/-- A record's landing changes of its agent only the flags, the registers and the result queues (R56, R114), and of its core only the
tiles and their busy bits (R96, R97). -/
def OnlyLanding (a : Nat) (r : Rec) (s t : State) : Prop :=
  t = { s with ctxs := t.ctxs, cores := t.cores } ∧ (∀ b, b ≠ a → t.ctx b = s.ctx b) ∧
    (∀ n, t.core n = { s.core n with tiles := (t.core n).tiles, busy := (t.core n).busy }) ∧
    t.ctx a = { s.ctx a with
      ctl := { (s.ctx a).ctl with fflags := (s.ctx a).ctl.fflags ||| r.flags }
      regs := { (s.ctx a).regs with
        s := (t.ctx a).regs.s, v := (t.ctx a).regs.v, p := (t.ctx a).regs.p, killed := (t.ctx a).regs.killed }
      flow := { (s.ctx a).flow with
        qs := (t.ctx a).flow.qs, qv := (t.ctx a).flow.qv
        lift := { (s.ctx a).flow.lift with predAt := (t.ctx a).flow.lift.predAt, tileAt := (t.ctx a).flow.lift.tileAt } } }

/-- A command of a core runs: its queue entry is free (R216). -/
def started (core : Nat) (m : Cmd) (s : State) : State := modCmd core m.id (fun x => { x with started := true }) s

/-- The elements of a copy are moved, n of them from the k-th on (R267): each is read, and written at its destination and at the same offset
in the other cores of MCAST. -/
def Copied (m : Cmd) (d : List Byte) (src dst : W64) : Nat → Nat → State → State → Prop
  | 0, _, s, t => t = s
  | n + 1, k, s, t => ∃ bs r q,
      engRead m (cdSsp d) (src + .ofInt 64 (loopOffset (cdExt d) (cdSstr d) (cdDim d) 0 k)) (cdSize d) s = .ok (bs, r) ∧
      writeAll m (cdDsp d) bs (castTo d (dst + .ofInt 64 (loopOffset (cdExt d) (cdDstr d) (cdDim d) 0 k))) r = (q, none) ∧
      Copied m d src dst n (k + 1) q t

/-- The error of an access that stops a command (R284): its token takes the cause and the address. -/
def EndsWithError (i : Instr) (core : Nat) (m : Cmd) (z : BitVec 8 × W64) (s r : State) : Prop :=
  exec i s = .next (endCmd core m (some z) r)

/-- A tile that an array command writes holds the value given (R224, R334), and its agent the control registers given; every other tile,
and all else but held translations, traffic and what a trace unit writes, is as before. -/
def OnlyTile (core : Nat) (mt : BitVec 3) (m : Cmd) (v : Tile) (c : Ctl) (s r : State) : Prop :=
  cmdTile core mt m r = v ∧
    r = { s with
      cores := r.cores, ctxs := r.ctxs, mem := r.mem, stale := r.stale, l2 := r.l2, clusters := r.clusters
      dev := { s.dev with channels := r.dev.channels }, free := r.free } ∧
    (Untraced s → r.mem = s.mem ∧ r.stale = s.stale ∧ ∀ n, r.cluster n = { s.cluster n with met := (r.cluster n).met }) ∧ (∀ n, n ≠ core → SameCore (s.core n) (r.core n)) ∧
    SameCore { s.core core with tiles := (r.core core).tiles } (r.core core) ∧
    (∀ n, n ≠ mt.toNat → mget [] (r.core core).tiles n = mget [] (s.core core).tiles n) ∧ (∀ a, a ≠ m.agent → r.ctx a = s.ctx a) ∧
    (m.dst = 0 → r.ctx m.agent = { s.ctx m.agent with ctl := c }) ∧ (r.ctx m.agent).ctl = c ∧ (r.ctx m.agent).regs = (s.ctx m.agent).regs ∧
    (r.ctx m.agent).toks = (s.ctx m.agent).toks

/-- What an error completion counts in TOKLOG (R286). -/
def Logs (k : Nat) (e : Option (BitVec 8 × W64)) (c d : Ctl) : Prop :=
  d = match e with
    | none => c
    | some x => { c with ecnt := if c.ecnt = 65535 then 65535 else c.ecnt + 1, lastc := x.1, lastr := false, lastk := .ofNat 5 k }

/-- The directory entry of a context takes a state (R397), and no other byte of memory changes. -/
def DirectoryOnly (a st : Nat) (s t : State) : Prop :=
  (s.shut (dirKey s a) = false → (t.byte (dirKey s a)).toNat = (s.byte (dirKey s a)).toNat / 8 * 8 + st) ∧
    ∀ k, k ≠ dirKey s a ∨ s.shut (dirKey s a) = true → t.byte k = s.byte k

/-- A context is saved (R303, R399): it halts, its group ends (R42), and its commands that have not started, its range counters and its
access program leave its core for its image; its registers, tokens, flags and accesses in flight stay in its record (R167). At the end of
its task EPC is left at the TASKEND bundle (R186). The program goes on under a number of its own (log 19). -/
def Saves (a cause : Nat) (s t : State) : Prop :=
  let n := coreOf a
  let k := s.core n
  let c := s.ctx a
  let x := s.ctx (2048 + n)
  let p := awayFrom (2048 + n) s.free
  let mine := fun (m : Cmd) => m.agent == a && (!m.started || isAstart m.op)
  let left := { k with
    active := if k.active = some (a % 4) then none else k.active, counters := k.counters - countersHeld c
    cmds := k.cmds.filter fun m => !mine m }
  t.ctx a = { c with
    mode := .saving, dir := 2, saver := cause, moving := false, moveAt := [], whole := none, group := [], groupNew := []
    ctl := if c.task.ending then { c.ctl with epc := c.pc } else c.ctl } ∧
  DirectoryOnly a 2 s t ∧ (∀ m, m ≠ n → SameCode (s.core m) (t.core m)) ∧ (∀ b, b ≠ a → mget none t.images b = mget none s.images b) ∧
  (ownsAccess s a = false → (∀ b, b ≠ a → t.ctx b = s.ctx b) ∧ SameCode left (t.core n) ∧
    mget none t.images a = some { core := n, cmds := k.cmds.filter mine, prog := programOf s a }) ∧
  (ownsAccess s a = true →
    SameCode { left with access := none, counters := left.counters - countersHeld x } (t.core n) ∧ t.ctx (2048 + n) = {} ∧
    t.ctx p = { x with mode := .saved, answer := if x.mode == .blocked .walk then x.answer else none } ∧
    (∀ b, b ≠ a → b ≠ 2048 + n → b ≠ p → t.ctx b = s.ctx b) ∧
    mget none t.images a = some { core := n, cmds := k.cmds.filter mine, prog := (programOf s a).map fun y => (y.1, p) })

/-- A service record of a context is posted (R417): it has still to be written, and follows the accesses that had not performed. Nothing else
changes. -/
def Posts (index cause : Nat) (faddr finfo arg : W64) (program : Bool) (follows : List Nat) (s t : State) : Prop :=
  t = { s with dev := { s.dev with services := s.dev.services ++ [⟨index, index, program, true, cause, faddr, finfo, arg, follows⟩] } }

/-- A fence of an agent whose task has gone: it holds no range counter. -/
def withoutCounter : Pend → Pend
  | .fenceR sc u _ => .fenceR sc u false
  | .store id cls sc rel asid cells => .store id cls sc rel asid cells
  | .access id cls sc load asid cells act => .access id cls sc load asid cells act
  | .fenceC sc m => .fenceC sc m

/-- A context is empty (R186, R262, R290, R307, R321, R397): its allotment and flags stay; its image, its queues' entries, its loop bodies, its
banks and its merge session are gone. Accesses that it leaves in flight go on under a number of their own (log 19). -/
def Emptied (a : Nat) (s t : State) : Prop :=
  let c := s.ctx a
  let n := coreOf a
  let k := s.core n
  let p := awayFrom a s.free
  let held := if c.order.pend = [] ∨ c.mode = .saved ∨ c.mode = .saving then 0 else countersHeld c
  t.ctx a = { allot := c.allot, flags := c.flags, armed := c.armed, noArea := c.noArea } ∧
    (∀ b, b ≠ a → b ≠ p ∨ c.order.pend = [] → t.ctx b = s.ctx b) ∧
    (c.order.pend ≠ [] → t.ctx p = { order := { pend := dropFences (c.order.pend.map withoutCounter), split := c.order.split } }) ∧
    mget none t.images a = none ∧ (∀ b, b ≠ a → mget none t.images b = mget none s.images b) ∧
    (∀ m, m ≠ n → SameCode (s.core m) (t.core m)) ∧
    SameCode { k with
      active := if k.active = some (a % 4) then none else k.active, aq := (t.core n).aq, counters := k.counters - held } (t.core n) ∧
    (∀ b ∈ (t.core n).bodies, b.agent ≠ a) ∧
    (∀ q, mget [] (t.core n).aq q = if c.allot.queues.getLsbD q then [] else mget [] k.aq q) ∧
    (∀ m, (t.cluster m).banks = (s.cluster m).banks ∧ (t.cluster m).holders = (s.cluster m).holders.filter fun h => h.2 != some a) ∧
    (∀ m, (t.cluster m).merge = if (s.cluster m).merge.opened ∧ (s.cluster m).merge.owner = a then {} else (s.cluster m).merge) ∧
    (Untraced s → DirectoryOnly a 0 s t)

/-! Invariants. -/

/-- The memory's canonical form (log 14): keys rising, no byte listed that is zero. -/
def MemoryInv (s : State) : Prop := s.mem.wf = true

end Sys2Proof.Spec
end

