-- ==== Sys2Proof/Certificates/Slice0/Obligations.lean ====
section
/-! DEFINITION. Certificates/Slice0/Obligations.lean: the statements for the provers. -/

open Sys2Proof Sys2Proof.Machine Sys2Proof.Spec

/-! Results of slot words. -/

/-- R70, R71: the arithmetic and logic of the S slot. Each word in order completes; its one effect is its result, of the latency that the
table gives. R70, R72-R76: shifts, comparison, selection, bit fields, counts, ADDS and WID. -/
def Obligations.ScalarResults : Prop :=
  (∀ (s : State) (st u : Bool) (d : BitVec 5) (a b : SCode) (i : BitVec 13),
   GivesScalar (.addReg st d a b) s 1 d (s.sc a + s.sc b) ∧
   GivesScalar (.addImm st d a i) s 1 d (s.sc a + imm13 i) ∧
   GivesScalar (.subReg st d a b) s 1 d (s.sc a - s.sc b) ∧
   GivesScalar (.subImm st d a i) s 1 d (s.sc a - imm13 i) ∧
   GivesScalar (.mulReg st d a b) s 3 d (s.sc a * s.sc b) ∧
   GivesScalar (.mulImm st d a i) s 3 d (s.sc a * imm13 i) ∧
   GivesScalar (.mulhReg st d a b u) s 4 d (highProduct u (s.sc a) (s.sc b)) ∧
   GivesScalar (.mulhImm st d a i) s 4 d (highProduct false (s.sc a) (imm13 i)) ∧
   GivesScalar (.divReg st d a b u) s 20 d (quotient u (s.sc a) (s.sc b)) ∧
   GivesScalar (.divImm st d a i) s 20 d (quotient false (s.sc a) (imm13 i)) ∧
   GivesScalar (.remReg st d a b u) s 20 d (remainder u (s.sc a) (s.sc b)) ∧
   GivesScalar (.remImm st d a i) s 20 d (remainder false (s.sc a) (imm13 i)) ∧
   GivesScalar (.minReg st d a b u) s 1 d (lesser u (s.sc a) (s.sc b)) ∧
   GivesScalar (.minImm st d a i) s 1 d (lesser false (s.sc a) (imm13 i)) ∧
   GivesScalar (.maxReg st d a b u) s 1 d (greater u (s.sc a) (s.sc b)) ∧
   GivesScalar (.maxImm st d a i) s 1 d (greater false (s.sc a) (imm13 i)) ∧
   GivesScalar (.andReg st d a b) s 1 d (s.sc a &&& s.sc b) ∧
   GivesScalar (.andImm st d a i) s 1 d (s.sc a &&& imm13 i) ∧
   GivesScalar (.orReg st d a b) s 1 d (s.sc a ||| s.sc b) ∧
   GivesScalar (.orImm st d a i) s 1 d (s.sc a ||| imm13 i) ∧
   GivesScalar (.xorReg st d a b) s 1 d (s.sc a ^^^ s.sc b) ∧
   GivesScalar (.xorImm st d a i) s 1 d (s.sc a ^^^ imm13 i)) ∧
  (∀ (s : State) (st g : Bool) (d : BitVec 5) (a b c : SCode) (i : BitVec 13) (i9 : BitVec 9) (i7 : BitVec 7) (p w : BitVec 6)
     (cc : BitVec 4) (f : BitVec 3),
   GivesScalar (.shlReg st d a b) s 1 d (BitVec.ofNat 64 ((s.sc a).toNat * 2 ^ ((s.sc b).toNat % 64))) ∧
   GivesScalar (.shlImm st d a p) s 1 d (BitVec.ofNat 64 ((s.sc a).toNat * 2 ^ p.toNat)) ∧
   GivesScalar (.shrReg st d a b) s 1 d (BitVec.ofNat 64 ((s.sc a).toNat / 2 ^ ((s.sc b).toNat % 64))) ∧
   GivesScalar (.shrImm st d a p) s 1 d (BitVec.ofNat 64 ((s.sc a).toNat / 2 ^ p.toNat)) ∧
   GivesScalar (.sraReg st d a b) s 1 d (BitVec.ofInt 64 ((s.sc a).toInt / 2 ^ ((s.sc b).toNat % 64))) ∧
   GivesScalar (.sraImm st d a p) s 1 d (BitVec.ofInt 64 ((s.sc a).toInt / 2 ^ p.toNat)) ∧
   GivesScalar (.lih st d a i) s 1 d (BitVec.ofNat 64 ((s.sc a).toNat * 2 ^ 13 + i.toNat)) ∧
   GivesScalar (.cmpReg st d a b cc) s 1 d (truth (condition cc.toNat (s.sc a) (s.sc b))) ∧
   GivesScalar (.cmpImm st d a i9 cc) s 1 d (truth (condition cc.toNat (s.sc a) (BitVec.ofInt 64 i9.toInt))) ∧
   GivesScalar (.selReg st d a b c) s 1 d (if s.sc c ≠ 0 then s.sc a else s.sc b) ∧
   GivesScalar (.selImm st d a i7 c) s 1 d (if s.sc c ≠ 0 then s.sc a else BitVec.ofInt 64 i7.toInt) ∧
   GivesScalar (.bfxReg st d a b g w) s 1 d (field g (s.sc a) ((s.sc b).toNat % 64) (w.toNat + 1)) ∧
   GivesScalar (.bfxImm st d a g p w) s 1 d (field g (s.sc a) p.toNat (w.toNat + 1)) ∧
   GivesScalar (.bfi st d a p w) s 1 d (bfiVal (s.sc (.s d)) (s.sc a) p.toNat (w.toNat + 1)) ∧
   GivesScalar (.clz st d a) s 1 d (s.sc a).clz ∧
   GivesScalar (.popc st d a) s 1 d (BitVec.ofNat 64 ((List.range 64).countP fun k => (s.sc a).getLsbD k)) ∧
   GivesScalar (.addsReg st d a b cc) s 1 d (s.sc a + BitVec.ofNat 64 ((s.sc b).toNat * 2 ^ cc.toNat)) ∧
   GivesScalar (.addsImm st d a i) s 1 d (s.sc a + BitVec.ofInt 64 (256 * i.toInt)) ∧
   GivesScalar (.wid st d g f) s 1 d (widVal s g f.toNat))

/-- R80, R83: the chainable vector instructions, lane by lane, with their cascades. -/
def Obligations.ChainResults : Prop :=
  ∀ (s : State) (h : VHead) (d : BitVec 10) (a b c : VCode) (ch : Chain),
  let m := h.mode.toNat
  let w := widthOf m
  GivesChain (.vadd h d a b ch) s h d [a, b] ch (arithLat m) (fun x => elAdd m (lane0 x) (lane1 x)) ∧
  GivesChain (.vsub h d a b ch) s h d [a, b] ch (arithLat m) (fun x => elSub m (lane0 x) (lane1 x)) ∧
  GivesChain (.vmul h d a b ch) s h d [a, b] ch (arithLat m) (fun x => elMul m (lane0 x) (lane1 x)) ∧
  GivesChain (.vfma h d a b c ch) s h d [a, b, c] ch (arithLat m) (fun x => elFma m (lane0 x) (lane1 x) (lane2 x)) ∧
  GivesChain (.vmin h d a b ch) s h d [a, b] ch 2 (fun x => elPick false m (lane0 x) (lane1 x)) ∧
  GivesChain (.vmax h d a b ch) s h d [a, b] ch 2 (fun x => elPick true m (lane0 x) (lane1 x)) ∧
  GivesChain (.vabs h d a ch) s h d [a] ch 2 (fun x => (elAbs m (lane0 x), 0)) ∧
  GivesChain (.vneg h d a ch) s h d [a] ch 2 (fun x => (elNeg m (lane0 x), 0)) ∧
  GivesChain (.vand h d a b ch) s h d [a, b] ch 2 (fun x => (lane0 x &&& lane1 x, 0)) ∧
  GivesChain (.vor h d a b ch) s h d [a, b] ch 2 (fun x => (lane0 x ||| lane1 x, 0)) ∧
  GivesChain (.vxor h d a b ch) s h d [a, b] ch 2 (fun x => (lane0 x ^^^ lane1 x, 0)) ∧
  GivesChain (.vshl h d a b ch) s h d [a, b] ch 2 (fun x => (lane0 x * 2 ^ (lane1 x % w) % 2 ^ w, 0)) ∧
  GivesChain (.vshr h d a b ch) s h d [a, b] ch 2 (fun x => (lane0 x / 2 ^ (lane1 x % w), 0)) ∧
  GivesChain (.vsra h d a b ch) s h d [a, b] ch 2 (fun x => (wrap (w) (sext (w) (lane0 x) / 2 ^ (lane1 x % w)), 0)) ∧
  GivesChain (.vmov h d a ch) s h d [a] ch 2 (fun x => (lane0 x, 0))

/-- R86-R93, R96, R119, R120: the vector instructions without a cascade, lane by lane. -/
def Obligations.LaneResults : Prop :=
  ∀ (s : State) (h : VHead) (d : BitVec 10) (a b c : VCode) (ps : BitVec 4) (sh : BitVec 4) (k : BitVec 8) (x : SCode)
    (part : BitVec 3) (rc : BitVec 2) (bp6 ex : Bool) (op2 : BitVec 2),
  let m := h.mode.toNat
  let w := widthOf m
  let g := s.pr h.pred
  GivesLanes (.vsel h d a b ps) s 2 d w g h.z (fun l => (if predLane w (s.pr ps) l then src s w 0 a l else src s w 1 b l, 0)) ∧
  GivesLanes (.vmac16 h d a b c sh) s 4 d 16 g h.z (fun l => (mac16 (src s 16 0 a l) (src s 16 1 b l) (src s 16 2 c l) sh.toNat, 0)) ∧
  GivesLanes (.vdot4 h d a b c) s 4 d 32 g h.z (fun l => (dot4 m (src s 32 0 a l) (src s 32 1 b l) (src s 32 2 c l), 0)) ∧
  GivesLanes (.vperm h d a b) s 4 d w g h.z (fun l => (src s w 0 a (src s w 1 b l % (2048 / w)), 0)) ∧
  GivesLanes (.vslide h d a b k) s 2 d w g h.z (fun l =>
    (if l + k.toNat < 2048 / w then src s w 0 a (l + k.toNat) else src s w 1 b (l + k.toNat - 2048 / w), 0)) ∧
  GivesLanes (.vbcastScalar h d x) s 2 d w g h.z (fun _ => ((s.sc x).toNat % 2 ^ w, 0)) ∧
  GivesLanes (.vbcastLane h d a k) s 2 d w g h.z (fun _ => (src s w 0 a k.toNat, 0)) ∧
  GivesLanes (.vpopc h d a) s 2 d w g h.z (fun l => (popcount (BitVec.ofNat 32 (src s w 0 a l)), 0)) ∧
  GivesLanes (.vexpand h d a) s 4 d w g h.z (fun l => (src s w 0 a (rankOf w g l), 0)) ∧
  GivesLanes (.viota h d) s 2 d w g h.z (fun l => (rankOf w g l % 2 ^ w, 0)) ∧
  GivesLanes (.vscan h d a op2 ex) s (if isInt m then 8 else 16) d w g h.z (fun l =>
    (scanFrom m op2.toNat ex none ((List.range (2048 / w)).map fun j => if predLane w g j then some (src s w 0 a j) else none)).getD l (0, 0)) ∧
  GivesLanes (.vunpackb h d a part rc) s 4 d 32 g h.z (fun l =>
    let n := 8 * recSize rc.toNat
    let r := (s.vc 0 a).toNat / 2 ^ (2 * n * part.toNat + n * (l / 32))
    unpackEl rc.toNat m (r % 2 ^ 16) (r / 2 ^ (16 + recBits rc.toNat * (l % 32)) % 2 ^ recBits rc.toNat)) ∧
  GivesLanes (.vbpackUnpack h d a part x bp6) s 4 d 32 g h.z (fun l =>
    roundTo 0 m false none false
      (scaleNum (numOf (bpFmt bp6) (laneN (bpWidth bp6) (s.vc 0 a) (64 * part.toNat + l))) (s.sc x).toInt))

/-- R89, R93, R96: VRED and VCOMPRESS, and VTR of a tile that is not busy. R59, R85, R94, R95: comparisons, the logic of predicates, and
their counts. R11, R24, R38: the no-operations of the slots, and a bundle without a slot word, have no effect of their own. That VCMP
merges element by element is the model's reading (log 27). -/
def Obligations.PredicateAndGatherResults : Prop :=
  (∀ (s : State) (h : VHead) (d : BitVec 10) (a : VCode) (op : BitVec 3) (idx : BitVec 8) (mt : BitVec 3) (x : SCode),
   let m := h.mode.toNat
   let w := widthOf m
   let g := s.pr h.pred
   (InV s → Gives (.vred h d a op) s
     (let r := (treeReduce m op.toNat (Nat.log2 (2048 / w))
       ((List.range (2048 / w)).map fun l => if predLane w g l then some (src s w 0 a l, 0) else none)).getD (identity m op.toNat, 0)
      { lat := if isInt m then 8 else 12, dest := s.destV (slotTag (.vred h d a op) s) d.toNat, val := ofLanes w [r.1], flags := r.2 })) ∧
   (InV s → Gives (.vcompress h d a) s
     { lat := 4, dest := s.destV (slotTag (.vcompress h d a) s) d.toNat, val := ofLanes w ((chosen w g).map fun l => src s w 0 a l)
       mask := if h.z then BitVec.allOnes 2048 else ofLanes w ((chosen w g).map fun _ => 2 ^ w - 1) }) ∧
   (tileBusy mt s = false → GivesLanes (.vtr h d idx mt x) s 4 d 32 g h.z (fun l =>
     (laneN 32 (mget 0 (s.tileOf mt) ((idx.toNat + (s.sc x).toNat) % 256)) l, 0)))) ∧
  (∀ (s : State) (h : VHead) (pd pa pb : BitVec 4) (sd : BitVec 5) (a b : VCode) (c : BitVec 6),
   let m := h.mode.toNat
   let w := widthOf m
   let g := s.pr h.pred
   let r := (List.range (2048 / w)).map fun l => elCmp m c.toNat (src s w 0 a l) (src s w 1 b l)
   GivesPred (.vcmp h pd a b c) s 2 pd (predSpread w g) h.z (predOf w (r.map Prod.fst)) (keptFlags w g (r.map fun x => (0, x.2))) ∧
   GivesPred (.pand h pd pa pb) s 1 pd g h.z (s.pr pa &&& s.pr pb) 0 ∧
   GivesPred (.por h pd pa pb) s 1 pd g h.z (s.pr pa ||| s.pr pb) 0 ∧
   GivesPred (.pxor h pd pa pb) s 1 pd g h.z (s.pr pa ^^^ s.pr pb) 0 ∧
   GivesPred (.pnot h pd pa) s 1 pd g h.z (~~~s.pr pa) 0 ∧
   GivesScalar (.pcnt h sd pa) s 2 sd (.ofNat 64 (chosen w (s.pr pa &&& g)).length) ∧
   GivesScalar (.pfirst h sd pa) s 2 sd (.ofNat 64 ((chosen w (s.pr pa &&& g)).headD (2048 / w)))) ∧
  (∀ s : State,
   (∀ i ∈ [Instr.nopS, .nopV, .nopF, .nopM, .nopX, .nopY], preTrap i s = none → ∃ t, exec i s = .next t ∧ Nothing s t) ∧
   exec .headerOnlyBundle s = .next s)

/-- R113, R117-R120: conversions. Without stochastic rounding each element is the conversion of its lane, rounded under MODE; with it, the
generator moves on. What counts as an overflow of BP is the model's reading (log 30). -/
def Obligations.ConversionResults : Prop :=
  ∀ (s : State) (h : VHead) (d : BitVec 10) (a : VCode) (part : BitVec 3) (sf df : BitVec 4) (sat bp6 : Bool) (rc : BitVec 2) (k : SCode),
  let m := h.mode.toNat
  let g := s.pr h.pred
  let ws := fmtWidth sf.toNat
  let wd := fmtWidth df.toNat
  let n := 2048 / Nat.max ws wd
  let wb := bpWidth bp6
  let wr := 8 * recSize rc.toNat
  let lo := recordOf rc.toNat m ((List.range 32).map (packedLane g (s.vc 0 a)))
  let hi := recordOf rc.toNat m ((List.range 32).map fun l => packedLane g (s.vc 0 a) (32 + l))
  GivesPart (.vcvt h d a part sf df sat false) s 4 d wd (if wd < ws then part.toNat * n * wd else 0) (canonZero df.toNat) n h.z
    (predLane (Nat.max ws wd) g) (fun j =>
      convertEl sf.toNat df.toNat m sat none (laneN ws (s.vc 0 a) ((if ws < wd then part.toNat * n else 0) + j))) ∧
  GivesPart (.vbpackPack h d a part k bp6 false) s 4 d wb (64 * wb * part.toNat) (canonZero (bpFmt bp6)) 64 h.z (predLane 32 g) (fun j =>
      roundTo (bpFmt bp6) m false none false (scaleNum (numOf 0 (laneN 32 (s.vc 0 a) j)) (-(s.sc k).toInt))) ∧
  (InV s → Gives (.vpackb h d a part rc false) s
    { lat := 8, dest := s.destV (slotTag (.vpackb h d a part rc false) s) d.toNat
      mask := BitVec.ofNat 2048 ((2 ^ (2 * wr) - 1) * 2 ^ (2 * wr * part.toNat))
      val := BitVec.ofNat 2048 ((recordBits rc.toNat lo.1 (lo.2.map Prod.fst) + 2 ^ wr * recordBits rc.toNat hi.1 (hi.2.map Prod.fst)) *
        2 ^ (2 * wr * part.toNat))
      flags := (lo.2 ++ hi.2).foldl (fun f x => f ||| x.2) 0 }) ∧
  GivesDrawn (.vcvt h d a part sf df sat true) s 4 d ∧
  GivesDrawn (.vbpackPack h d a part k bp6 true) s 4 d ∧
  GivesDrawn (.vpackb h d a part rc true) s 8 d

/-- R96, R97: VTW of a tile that is not busy puts the half-row in flight and sets the tile's busy bit; VTR and VTW of a busy tile stall.
R348: LREDUCE combines, in instance order, the enabled instances of its source along a level; a level that the source's tag lacks raises
0x12. -/
def Obligations.TileRowsAndReduction : Prop :=
  (∀ (s : State) (h : VHead) (d : BitVec 10) (idx : BitVec 8) (mt : BitVec 3) (x : SCode) (a : VCode),
   let i := Instr.vtw h idx mt x a
   let c := coreOf s.issue.agent
   let row := (idx.toNat + (s.sc x).toNat) % 256
   let u := slotTag i s
   (InV s → Ready i s → tileBusy mt s = false → ∃ t, exec i s = .next t ∧
     Emits s t
       { lat := 4, mask := laneMask 32 (s.pr h.pred), val := s.vc 0 a
         dest := if u = 0 then .tile mt.toNat row
           else .tileAt mt.toNat (instKey mt.toNat u (flatIndex u 0 s.me.flow.lift.levels s.xs 0)) row } true ∧
     Becomes t { s.me with flow := { s.me.flow with
       records := t.me.flow.records, retag := t.me.flow.retag
       lift := { s.me.flow.lift with tileAt := t.me.flow.lift.tileAt } } } ∧
     (u = 0 → t.me.flow.lift = s.me.flow.lift) ∧
     t.core c = { s.core c with busy := (s.core c).busy ||| (1#8 <<< mt.toNat) } ∧ (∀ n, n ≠ c → t.core n = s.core n) ∧
     Outside s { t with cores := s.cores }) ∧
   (preTrap i s = none → tileBusy mt s = true → Stalls i s) ∧
   (preTrap (.vtr h d idx mt x) s = none → tileBusy mt s = true → Stalls (.vtr h d idx mt x) s)) ∧
  (∀ (s : State) (h : VHead) (d n : BitVec 10) (op : BitVec 3) (lvl : BitVec 2),
   let i := Instr.lreduce h d (.v n) op lvl
   let m := h.mode.toNat
   let w := widthOf m
   let l := s.me.flow.lift
   let has := decide (lvl.toNat ≤ l.levels.length) && (tagOfV l n.toNat).getLsbD (lvl.toNat - 1)
   let vs := (lredRegs s (resultTag i s) n.toNat lvl.toNat).map (s.vnum s.me)
   (has = true → ∀ v, l.levels[lvl.toNat - 1]? = some v → InV s → Gives i s
     (let f := fun j => (vs.foldl (fun acc x => combOpt m op.toNat acc (some (laneN w x j, 0))) none).getD (identity m op.toNat, 0)
      { lat := 4 * v.extent + 4, dest := s.destV (resultTag i s) d.toNat
        mask := if h.z then BitVec.allOnes 2048 else laneMask w (s.pr h.pred)
        val := if h.z then lanes w (fun j => (f j).1) &&& laneMask w (s.pr h.pred) else lanes w fun j => (f j).1
        flags := keptFlags w (s.pr h.pred) ((List.range (2048 / w)).map f) })) ∧
   (has = false → preTrap i s = none → Traps i s (s.cause 0x12)) ∧
   (∀ q, preTrap (.lreduce h d (.qv q) op lvl) s = none → Traps (.lreduce h d (.qv q) op lvl) s (s.cause 0x12)) ∧
   (preTrap (.lreduce h d .held op lvl) s = none → Traps (.lreduce h d .held op lvl) s (s.cause 0x12)))

/-- R98, R99: the special-function words. Each lane is the function of its source lane (a free value inside a bound, log 7); the record is
ready at once when the unit is idle, and waits in its queue otherwise; a full queue blocks. That a late result waits in the unit's queue
is as log 10 says. -/
def Obligations.SpecialFunctions : Prop :=
  ∀ (s : State) (st : Bool) (d : BitVec 10) (a : VCode) (p : BitVec 4) (z : Bool),
  let c := coreOf s.issue.agent
  let does := fun (i : Instr) (op : Nat) =>
    let f := fun l => sfuLane op (laneN 32 (s.vc 0 a) l) (sfuFree s op l (laneN 32 (s.vc 0 a) l))
    (Ready i s → (s.core c).sfuq.length < 4 → ∃ t, exec i s = .next t ∧
      Emits s t
        { lat := 16, dest := s.destV (slotTag i s) d.toNat
          mask := if z then BitVec.allOnes 2048 else laneMask 32 (s.pr p)
          val := if z then lanes 32 (fun l => (f l).1) &&& laneMask 32 (s.pr p) else lanes 32 fun l => (f l).1
          flags := keptFlags 32 (s.pr p) ((List.range 64).map f) } (sfuIdle (s.core c)) ∧
      Becomes t { s.me with flow := { s.me.flow with records := t.me.flow.records, retag := t.me.flow.retag } } ∧
      t.core c = (if sfuIdle (s.core c) then { s.core c with sfuLast := some (s.core c).cycle }
        else { s.core c with sfuq := (s.core c).sfuq ++ [(s.issue.agent, s.free)] }) ∧
      (∀ n, n ≠ c → t.core n = s.core n) ∧ Outside s { t with cores := s.cores }) ∧
    (preTrap i s = none → 4 ≤ (s.core c).sfuq.length → Blocks i s .sfu)
  does (.frcp st d a p z) 1 ∧ does (.frsq st d a p z) 2 ∧ does (.fsqrt st d a p z) 3 ∧ does (.fexp2 st d a p z) 4 ∧
    does (.flog2 st d a p z) 5 ∧ does (.fsig st d a p z) 6 ∧ does (.ftanh st d a p z) 7 ∧ does (.fsin st d a p z) 8 ∧
    does (.fcos st d a p z) 9

/-! Control transfers. -/

/-- R181, R183, R342: BR on a scalar and on a predicate, and BRA. R184, R185, R182: CALL, RET, JMPR, LOOPN and LEND in the issue in which
they act. CALL puts its link in flight; a computed target that is misaligned or not canonical raises its cause; LOOPN opens a loop level,
or skips the loop when the count is 0; LEND counts down. -/
def Obligations.ControlTransfers : Prop :=
  (∀ (s : State) (c : BitVec 2) (a : SCode) (p : BitVec 4) (o : BitVec 16) (o25 : BitVec 25),
   let go := fun {n : Nat} (x : BitVec n) => s.issue.here + BitVec.ofInt 64 (4 * x.toInt)
   Branches (.brScalar c a o) s
     (match c.toNat with
       | 0 => decide (s.sc a = 0) | 1 => decide (s.sc a ≠ 0) | 2 => decide ((s.sc a).toInt < 0) | _ => decide (0 ≤ (s.sc a).toInt), go o) ∧
   Branches (.brPred c p o) s
     (match c.toNat with
       | 0 => decide (s.pr p ≠ 0) | 1 => decide (s.pr p = BitVec.allOnes 256) | _ => decide (s.pr p = 0), go o) ∧
   Branches (.bra o25) s (true, go o25)) ∧
  (∀ (s : State) (d : BitVec 5) (a : SCode) (o20 : BitVec 20) (o19 : BitVec 19) (l : BitVec 3) (k : BitVec 16),
   let quiet := withVotes s []
   let go := fun (b : W64) {n : Nat} (x : BitVec n) => b + BitVec.ofInt 64 (4 * x.toInt)
   let jumps := fun (i : Instr) (v : W64) => preTrap i s = none → Turn i s (true, v) →
     if v.toNat % 4 ≠ 0 then Traps i s (s.cause 0x0D 0 v)
     else if !canonical v.toNat then Traps i s (s.cause 0x08 0 v) else MakesAndSends i s quiet (true, v)
   let loop := mget noLoop s.me.flow.loops l.toNat
   let sets := fun (v : Loop) => { quiet with flow := { quiet.flow with loops := mset noLoop s.me.flow.loops l.toNat v } }
   (Ready (.call d o20) s → Turn (.call d o20) s (true, go s.issue.here o20) → ∃ t, exec (.call d o20) s = .next t ∧
     Emits s t { lat := 1, dest := .scalar d.toNat, val := (returnAddress s).setWidth 2048 } true ∧
     Becomes t { quiet with flow := { quiet.flow with records := t.me.flow.records, retag := t.me.flow.retag } } ∧
     t.issue = sent s.issue (true, go s.issue.here o20) ∧ Outside s { t with issue := s.issue }) ∧
   jumps (.ret a) (s.sc a) ∧
   jumps (.jmpr a o19) (go (s.sc a) o19) ∧
   (preTrap (.loopn l a k) s = none → Turn (.loopn l a k) s (decide (s.sc a = 0), s.sc a) →
     MakesAndSends (.loopn l a k) s (sets (if s.sc a = 0 then { loop with live := false } else ⟨true, s.sc a, returnAddress s⟩))
       (decide (s.sc a = 0), s.issue.here + BitVec.ofNat 64 (4 * k.toNat))) ∧
   (preTrap (.lend l) s = none → Turn (.lend l) s (loop.live && decide (1 < loop.count.toNat), loop.start) →
     if loop.live = true ∧ 1 < loop.count.toNat then
       MakesAndSends (.lend l) s (sets { loop with count := loop.count - 1 }) (true, loop.start)
     else MakesAndSends (.lend l) s (sets { loop with live := false }) (false, loop.start)))

/-! The lift-call. -/

/-- R344-R346: LIFT opens a level: its extent, stride, return address and mask, the mask extended, the level's bit in the tags of the
registers named; or it raises 0x10 with the lowest reason that holds. R347: LRET closes the innermost level: the mask is as before the
LIFT, every tag loses the level's bit, and the bundle goes to the return address; with no level open, or a split of this level, it raises
0x11. Which reason holds first, and how an instance takes its first value, are the model's readings (log 31, log 32). -/
def Obligations.LiftEntryAndReturn : Prop :=
  (∀ (s : State) (a : SCode) (o : BitVec 19),
   let i := Instr.lift a o
   let w := s.sc a
   let l := s.me.flow.lift
   preTrap i s = none → s.me.flow.retag = [] → Turn i s (true, w) →
   (∀ r, liftReason w s = some r → Traps i s (s.cause 0x10 r)) ∧
   (liftReason w s = none → ∃ t, exec i s = .next t ∧
     t.me.flow.lift.levels = l.levels ++ [⟨lwExtent w, lwStride w, returnAddress s, l.mask⟩] ∧
     t.me.flow.lift.mask = (l.mask.flatMap fun f => (List.range (lwExtent w)).map fun x => f * lwExtent w + x) ∧
     t.me.flow.lift.stack = l.stack ∧
     (∀ k n, k ≤ 3 → getTag k n t.me.flow.lift =
       if (k, n) ∈ lwNames w then getTag k n l ||| levelBit (l.levels.length + 1) else getTag k n l) ∧
     t.me.regs = s.me.regs ∧ t.me.ctl = s.me.ctl ∧ t.me.toks = s.me.toks ∧ t.me.flow.records = s.me.flow.records ∧
     t.cores = s.cores ∧ t.mem = s.mem ∧ t.issue = sent s.issue (true, s.issue.here + BitVec.ofInt 64 (4 * o.toInt)))) ∧
  (∀ s : State,
   let l := s.me.flow.lift
   preTrap .lret s = none → s.me.flow.retag = [] →
   (l.levels = [] → Turn .lret s (true, 0) → Traps .lret s (s.cause 0x11)) ∧
   (∀ top ls, l.levels = ls ++ [top] → Turn .lret s (true, top.ret) →
     if l.stack.getLast?.any (fun e => e.level == l.levels.length) then Traps .lret s (s.cause 0x11)
     else ∃ t, exec .lret s = .next t ∧ t.me.flow.lift.levels = ls ∧ t.me.flow.lift.mask = top.mask ∧ t.me.flow.lift.stack = l.stack ∧
       (∀ k n, k ≤ 3 → getTag k n t.me.flow.lift = getTag k n l &&& ~~~levelBit l.levels.length) ∧
       t.me.regs.v = s.me.regs.v ∧ t.me.ctl = s.me.ctl ∧ t.me.toks = s.me.toks ∧ t.me.flow.records = s.me.flow.records ∧
       t.mem = s.mem ∧ t.issue = sent s.issue (true, top.ret)))

/-- R343: BRB splits the mask by the outcomes of its instances, and LJOIN runs the two parts and joins them. -/
def Obligations.LiftBranches : Prop :=
  ∀ (s : State) (c : BitVec 2) (a : SCode) (p : BitVec 4) (o : BitVec 16),
  let l := s.me.flow.lift
  let goal := s.issue.here + BitVec.ofInt 64 (4 * o.toInt)
  let quiet := withVotes s []
  let lifted := fun m st => { quiet with flow := { quiet.flow with lift := { l with mask := m, stack := st } } }
  let splits := fun (i : Instr) (cond : Bool) => preTrap i s = none →
    let ws := votesWith i s (cond, goal)
    let t := if slotTag i s = 0 then (if ws.any (·.1) then l.mask else []) else takenMask l s.issue.tag ws
    (s.issue.last = false → Makes i s (withVotes s ws)) ∧
    (s.issue.last = true → s.me.flow.retag = [] →
      if t = l.mask then MakesAndSends i s quiet (true, goal)
      else if t = [] then MakesAndSends i s quiet (false, goal)
      else if 8 ≤ l.stack.length then Traps i s (s.cause 0x11)
      else MakesAndSends i s (lifted (l.mask.filter fun f => !t.contains f) (l.stack ++ [⟨l.levels.length, l.mask, t, goal, false⟩]))
        (false, goal))
  splits (.brbScalar c a o)
    (match c.toNat with
      | 0 => decide (s.sc a = 0) | 1 => decide (s.sc a ≠ 0) | 2 => decide ((s.sc a).toInt < 0) | _ => decide (0 ≤ (s.sc a).toInt)) ∧
  splits (.brbPred c p o)
    (match c.toNat with
      | 0 => decide (s.pr p ≠ 0) | 1 => decide (s.pr p = BitVec.allOnes 256) | _ => decide (s.pr p = 0)) ∧
  (preTrap .ljoin s = none → s.me.flow.retag = [] → Turn .ljoin s (joinVote s) →
    match l.stack.getLast? with
    | none => MakesAndSends .ljoin s quiet (false, 0)
    | some e =>
      if e.level ≠ l.levels.length then MakesAndSends .ljoin s quiet (false, e.tgt)
      else if e.st then MakesAndSends .ljoin s (lifted e.saved l.stack.dropLast) (false, e.tgt)
      else MakesAndSends .ljoin s (lifted e.pend (l.stack.dropLast ++ [{ e with st := true }])) (true, e.tgt))

/-! Control registers, traps. -/

/-- R390, R391, R396: CTLRD gives a control register's value to an untagged scalar; CTLWR writes a register, and nothing but control state
and the trace units' memory changes. A tagged source raises 0x12, and so does LIFTCFG inside a lift (R330, R339). R390, R391: the writable
fields of a control register. What is written there is read there; the other fields of these registers read as zero. -/
def Obligations.ControlRegisters : Prop :=
  (∀ (s : State) (d : BitVec 5) (c : BitVec 10) (a : SCode),
   let n := s.issue.agent
   let bad := tagOfS s.me.flow.lift a ≠ 0 ∨ c = 0x0B ∧ s.me.flow.lift.levels ≠ []
   Gives (.ctlrd d c) s { lat := 1, dest := .scalar d.toNat, val := (readCsr n c s).setWidth 2048 } ∧
   (preTrap (.ctlwr a c) s = none → bad → Traps (.ctlwr a c) s (s.cause 0x12)) ∧
   (preTrap (.ctlwr a c) s = none → ¬bad → ∃ t, exec (.ctlwr a c) s = .next t ∧
     (∀ r, readCsr n r t = readCsr n r (writeCsr false n c (s.sc a) s)) ∧
     t.mem = (writeCsr false n c (s.sc a) s).mem ∧ t.me.regs.s = s.me.regs.s ∧ t.me.regs.v = s.me.regs.v ∧ t.me.regs.p = s.me.regs.p ∧
     t.me.flow.records = s.me.flow.records ∧ t.me.toks = s.me.toks ∧ t.me.flags = s.me.flags ∧
     (∀ m, SameCode (s.core m) (t.core m)) ∧ t.issue = s.issue)) ∧
  (∀ (s : State) (host : Bool) (n : Nat) (v : W64),
   ∀ x ∈ [(0x01, 0xFF), (0x02, 2 ^ 64 - 1), (0x03, 2 ^ 64 - 1), (0x04, 0xFFFF0000FFFF0000), (0x05, 0xFFFF), (0x06, 7), (0x07, 0x3F),
     (0x08, 2 ^ 64 - 1), (0x0A, 0xFFFFFFFF), (0x0B, 0x003FFF000FFF03FF), (0x30, 2 ^ 64 - 1), (0x31, 2 ^ 64 - 1), (0x32, 2 ^ 64 - 4),
     (0x40, 0x3FFFFFFFF000), (0x42, 0x3FFFFFFFFFE0), (0x44, 0x3FFFFFFFC000), (0x45, 0x3FFFFFFFFFE0), (0x48, 0x7F), (0x49, 0x3FFFFFFFF01F)],
   readCsr n (BitVec.ofNat 10 x.1) (writeCsr host n (BitVec.ofNat 10 x.1) v s) = v &&& BitVec.ofNat 64 x.2)

/-- R45, R46, R43, R396: a cause that stands before a word's own is the one taken, by every slot word. R389, R391, R392: entry into the
trap handler. The trap registers name the cause, PRIV is set, the trap part is set aside, and the pc is TVEC; no register, token, flag,
byte or other agent changes. R394, R399, R417: a cause in privileged state is nested: the context is saved for the host, FINFO.NEST is
set, and a service record of the context's index with the cause is posted. R356, R417: so is a context whose cause its mode of service
gives to the host; an empty pool's record has the index of pool refill and the pool's number. The other trap registers stay (log 25). R392, R393: the
return undoes the entry: the trap part, the pc at EPC, the repeat and the instance at which the bundle issues again. A debug-bit break that
was taken stays noted until its bundle has issued (R393). -/
def Obligations.TrapEntry : Prop :=
  (∀ (i : Instr) (s : State) (x : Trap), i.kind.isSome = true → preTrap i s = some x → Traps i s x) ∧
  (∀ (s : State) (x : Trap),
   s.me.ctl.priv = false → isAccess s.issue.agent = false → routeOf s s.me x = .handler →
   let t := takeTrap x s
   t.me.ctl.cause = BitVec.ofNat 8 x.cause ∧ t.me.ctl.epc = epcOf x s ∧ t.me.ctl.faddr = x.faddr ∧
   t.me.ctl.fslot = BitVec.ofNat 4 x.slot ∧ t.me.ctl.fsub = BitVec.ofNat 4 x.sub ∧ t.me.ctl.fwr = x.wr ∧ t.me.ctl.fnest = false ∧
   t.me.ctl.priv = true ∧ t.me.pc = s.dev.tvec ∧ t.me.saved = broken x s.me.flow ∧ t.me.flow = {} ∧
   t.me.group = [] ∧ t.me.regs = s.me.regs ∧ t.me.flags = s.me.flags ∧ t.me.order = s.me.order ∧
   (x.tok = none → t.me.toks = s.me.toks) ∧ Outside s t) ∧
  (∀ (s : State) (x : Trap),
   s.me.ctl.priv = true → isAccess s.issue.agent = false → x.tok = none →
   let t := takeTrap x s
   t.me.mode = .saving ∧ t.me.saver = x.cause ∧
   t.me.ctl = { s.me.ctl with fnest := true, epc := if s.me.task.ending then epcOf x s else s.me.ctl.epc } ∧
   t.me.pc = epcOf x s ∧ t.me.regs = s.me.regs ∧
   t.me.flow = { s.me.flow with brk := s.me.flow.brk && decide (x.cause ≠ 0x30) } ∧ t.me.toks = s.me.toks ∧
   (t.core (coreOf s.issue.agent)).active ≠ some (s.issue.agent % 4) ∧
   ∃ r, t.dev.services = s.dev.services ++ [r] ∧ r.index = s.issue.agent ∧ r.cause = x.cause ∧ r.faddr = x.faddr ∧ r.program = false) ∧
  (∀ (s : State) (x : Trap),
   s.me.ctl.priv = false → isAccess s.issue.agent = false → routeOf s s.me x = .service → x.tok = none →
   let t := takeTrap x s
   t.me.mode = .saving ∧ t.me.saver = x.cause ∧ t.me.ctl.fnest = false ∧ t.me.pc = epcOf x s ∧ t.me.regs = s.me.regs ∧
   t.me.flow = { s.me.flow with brk := s.me.flow.brk && decide (x.cause ≠ 0x30) } ∧ t.me.toks = s.me.toks ∧
   (t.core (coreOf s.issue.agent)).active ≠ some (s.issue.agent % 4) ∧
   ∃ r, t.dev.services = s.dev.services ++ [r] ∧ r.index = (if x.cause = 0x0C ∧ x.sub = 1 then 2113 else s.issue.agent) ∧ r.agent = s.issue.agent ∧
     r.cause = x.cause ∧ r.faddr = x.faddr ∧ r.arg = (if x.cause = 0x0C ∧ x.sub = 1 then .ofNat 64 x.pool else 0) ∧ r.program = false) ∧
  (∀ (x : Trap) (epc tvec : W64) (c : Ctx), x.cause ≠ 0x30 → x.tok = none → c.ridx < 64 → c.iflat < 65536 →
   let r := trapReturn (enterHandler x epc tvec c)
   r.flow = broken x c.flow ∧ r.pc = epc ∧ r.ctl.priv = false ∧ r.ridx = c.ridx ∧ r.iflat = c.iflat ∧
     r.regs = c.regs ∧ r.toks = c.toks ∧ r.flags = c.flags ∧ r.order = c.order ∧ r.task = { c.task with ending := false })

/-- R396, R393, R365: outside privileged state the privileged words raise 0x04, when nothing is wrong with the word itself. R393, R182:
ERET, in its bundle's last issue, asks for the return, which comes once the handler's records have landed; a bad EPC is a cause of its
own. R396: TRAP takes cause 0x30 in its bundle's last issue: EPC is the next bundle, FINFO holds the immediate. R186: TASKEND ends the
task once every record has landed: the context waits as R193 says, and is no longer active; while a record remains the bundle stalls. -/
def Obligations.TrapsAndReturns : Prop :=
  (∀ (s : State) (d : BitVec 5) (c : BitVec 10) (a b : SCode) (sc : BitVec 3) (e : BitVec 2),
   s.me.ctl.priv = false →
   (0x30 ≤ c.toNat → illegal (.ctlrd d c) s = none → Traps (.ctlrd d c) s (s.cause 0x04)) ∧
   ((1 ≤ c.toNat ∧ c.toNat ≤ 8 ∨ c.toNat = 0x1A ∨ 0x30 ≤ c.toNat ∧ c.toNat ≠ 0x47 ∧ c.toNat ≠ 0x4B) → illegal (.ctlwr a c) s = none →
     Traps (.ctlwr a c) s (s.cause 0x04)) ∧
   (illegal .eret s = none → Traps .eret s (s.cause 0x04)) ∧
   (illegal (.tlbinv sc a b e) s = none → Traps (.tlbinv sc a b e) s (s.cause 0x04))) ∧
  (∀ s : State, preTrap .eret s = none →
   (s.issue.last = false → Makes .eret s s.me) ∧
   (s.issue.last = true →
     if s.me.ctl.epc.toNat % 4 ≠ 0 then Traps .eret s (s.cause 0x0D 0 s.me.ctl.epc)
     else if !canonical s.me.ctl.epc.toNat then Traps .eret s (s.cause 0x08 0 s.me.ctl.epc)
     else Makes .eret s { s.me with hold := 1 })) ∧
  (∀ (s : State) (im : BitVec 16), preTrap (.trap im) s = none →
   (s.issue.last = false → Makes (.trap im) s s.me) ∧
   (s.issue.last = true → s.me.flow.retag = [] → s.me.ctl.priv = false → isAccess s.issue.agent = false →
     ∃ t, exec (.trap im) s = .next t ∧ t.issue.status = .trapped { cause := 0x30, slot := s.issue.slot, imm := im } ∧
       t.me.ctl.cause = 0x30 ∧ t.me.ctl.epc = returnAddress s ∧ t.me.ctl.fimm = im ∧ t.me.ctl.priv = true ∧ t.me.pc = s.dev.tvec ∧
       t.me.saved.records = s.me.flow.records ∧ t.me.flow.records = [] ∧ t.me.regs = s.me.regs ∧ t.me.toks = s.me.toks ∧
       t.mem = s.mem ∧ t.cores = s.cores)) ∧
  (∀ s : State, preTrap .taskend s = none →
   let c := coreOf s.issue.agent
   (s.me.flow.records ≠ [] → Stalls .taskend s) ∧
   (s.me.flow.records = [] → ∃ t, exec .taskend s = .next t ∧
     Becomes t { s.me with mode := .blocked .taskend, task := { s.me.task with ending := true } } ∧
     (∀ n, t.core n = if n = c ∧ isAccess s.issue.agent = false ∧ (s.core c).active = some (s.issue.agent % 4)
       then { s.core n with active := none } else s.core n) ∧
     Outside s { t with cores := s.cores }))

/-! Memory. -/

/-- R2: the part is little-endian: byte i of a value written at an address stands at the address plus i; a read gives the value back; no
other byte changes. Lane l of width w of a vector register holds its bits (l + 1) * w - 1 down to l * w. -/
def Obligations.MemoryBytes : Prop :=
  (∀ (s : State) (k n v : Nat),
    let t := s.writeLE k n v
    (∀ i, i < n → (t.byte (k + i)).toNat = v / 256 ^ i % 256) ∧ t.readLE k n = v % 256 ^ n ∧
    (∀ j, j < k ∨ k + n ≤ j → t.byte j = s.byte j) ∧ { t with mem := s.mem } = s) ∧
  ∀ (w l j : Nat) (x : Vec), (laneN w x l).testBit j = (decide (j < w) && x.getLsbD (l * w + j))

/-- R352, R353: the walk of five levels. Where the entries on its way hold the next tables, it ends in the leaf of level 2, 1 or 0, with
its page size; in a bad entry where the leaf breaks its layout; unmapped where V and SPARSE are 0. R135, R420: an entry in a stack or channel
that no access reaches ends it. Which entry is bad where the rules say
no more is the model's reading (log 33). -/
def Obligations.WalkFindsLeaf : Prop :=
  ∀ (s : State) (asid : BitVec 16) (va t4 t3 t2 : Nat),
  let points := fun (e t : Nat) => t % 256 = 0 ∧ t < 2 ^ 46 ∧ s.shut e = false ∧ s.entryAt e = t + 1
  let ends := fun (e bits : Nat) =>
    let w := s.entryAt e
    (s.shut e = true → s.walk asid.toNat va = .shut) ∧
    (s.shut e = false → leafV w = true → leafL w = true → leafOk w bits = true → s.walk asid.toNat va = .leaf w bits e) ∧
    (s.shut e = false → leafV w = true → leafL w = true → leafOk w bits = false → s.walk asid.toNat va = .bad) ∧
    (s.shut e = false → leafV w = false → leafSparse w = false → ∃ b, s.walk asid.toNat va = .unmapped b)
  points (s.dev.ptbase.toNat * 2 ^ 12 + 8 * asid.toNat) t4 →
  points (t4 + 8 * (va / 2 ^ 48 % 512)) t3 →
  points (t3 + 8 * (va / 2 ^ 39 % 512)) t2 →
  let e2 := t2 + 8 * (va / 2 ^ 30 % 512)
  ends e2 30 ∧
  (∀ t1, points e2 t1 →
    let e1 := t1 + 8 * (va / 2 ^ 21 % 512)
    ends e1 21 ∧
    (∀ t0, points e1 t0 →
      let e0 := t0 + 8 * (va / 2 ^ 16 % 32)
      ends e0 16 ∧
      (s.shut e0 = false → leafV (s.entryAt e0) = false → leafSparse (s.entryAt e0) = true →
        s.walk asid.toNat va = if leafOk (s.entryAt e0) 16 then .leaf (s.entryAt e0) 16 e0 else .bad)))

/-- R258, R351, R353, R355, R409: how an access to a byte ends. An address that is not canonical, or has no leaf, raises 0x09 (0x08 at
fetch); a missing permission 0x0A; a write of a read-duplicate page 0x0B; an uncommitted tile reads as zero, and a write raises 0x0C or
commits it; the bytes of a mapped page of device memory follow each other from its PA on. R140, R151, R354, R355: translating an access
changes nothing but the translations held and the inputs, and, for a write, what an auto-commit does, which stands in L2 (R144); each byte
accessed has its own key. R138: a read whose bytes the L1 serves translates nothing.
Where the bytes of the host and of peers stand, that a held translation stays, and what a bad entry raises are the model's choices (log
13, log 14, log 33). -/
def Obligations.Translation : Prop :=
  (∀ (s : State) (agent : Nat) (asid : BitVec 16) (ok : Nat → Bool) (va : Nat),
   let at' := s.place agent asid ok va
   (canonical va = false → at' .read = .cause 0x09 false ∧ at' .write = .cause 0x09 true ∧ at' .exec = .cause 0x08 false) ∧
   (inWindow va = true → at' .exec = .cause 0x08 false ∧ at' .both = .cause 0x0A true ∧
     (ok ((va - spw) / 2 ^ 18) = true → at' .read = .at (padKey (clusterOf agent) (va - spw)) ∧
       at' .write = .at (padKey (clusterOf agent) (va - spw)))) ∧
   (canonical va = true → inWindow va = false →
     (s.lookup (coreOf agent) asid va = .bad → at' .read = .cause 0x09 false ∧ at' .write = .cause 0x09 true ∧ at' .exec = .cause 0x09 false) ∧
     (s.lookup (coreOf agent) asid va = .shut → at' .read = .cause 0x0A false ∧ at' .write = .cause 0x0A true ∧ at' .exec = .cause 0x0A false) ∧
     (∀ b, s.lookup (coreOf agent) asid va = .unmapped b →
       at' .read = .cause 0x09 false ∧ at' .write = .cause 0x09 true ∧ at' .exec = .cause 0x08 false) ∧
     (∀ w bits e, s.lookup (coreOf agent) asid va = .leaf w bits e →
       (leafV w = true → leafX w = false → at' .exec = .cause 0x08 false) ∧
       (leafV w = true → leafRdup w = true → at' .write = .cause 0x0B true) ∧
       (leafR w = false → at' .read = .cause 0x0A false) ∧
       (leafRdup w = false → leafW w = false → at' .write = .cause 0x0A true) ∧
       (leafV w = false → at' .exec = .cause 0x08 false) ∧
       (leafV w = false → leafR w = true → at' .read = .zero) ∧
       (leafV w = false → leafW w = true → at' .write = if leafAC w then .commit e w else .cause 0x0C true) ∧
       (leafV w = true → leafTgt w = 0 → s.shut (leafPA w + va % 2 ^ bits) = false →
         (leafR w = true → at' .read = .at (leafPA w + va % 2 ^ bits)) ∧ (leafX w = true → at' .exec = .at (leafPA w + va % 2 ^ bits)) ∧
         (leafW w = true → leafRdup w = false → at' .write = .at (leafPA w + va % 2 ^ bits)))))) ∧
  (∀ (s p : State) (a : W64) (offs : List Nat) (ks : List (Nat × Option Nat)),
   (keysOf .read a offs s = .ok (ks, p) →
     (∀ x ∈ ks, ∃ o ∈ offs, x.1 = vaAt a o) ∧ (∀ o ∈ offs, ∃ k, (vaAt a o, k) ∈ ks) ∧
     p = { s with cores := p.cores, env := p.env, dev := { s.dev with channels := p.dev.channels } } ∧ p.env = { s.env with walks := p.env.walks } ∧
     ∀ n, p.core n = { s.core n with tlb := (p.core n).tlb }) ∧
   (keysOf .write a offs s = .ok (ks, p) →
     (∀ x ∈ ks, ∃ o ∈ offs, x.1 = vaAt a o) ∧ (∀ o ∈ offs, ∃ k, (vaAt a o, k) ∈ ks) ∧ OnlyCommits s p ∧
     p.me.order = s.me.order ∧ p.me.regs = s.me.regs ∧ p.me.flow = s.me.flow ∧ p.free = s.free ∧ p.env.late = s.env.late ∧
     (p.l2.dirty.length < 16 → ∀ k, isLocal k = true → p.channelByte k = s.channelByte k))) ∧
  (∀ (s : State) (a : W64) (offs : List Nat),
   let line := fun (o : Nat) => findL1 (s.cluster (clusterOf s.issue.agent)) s.me.ctl.asid (vaAt a o / 128)
   (∀ o ∈ offs, ∃ l, line o = some l ∧ l.r = true ∧ (l.key ≠ zeroLine → s.shut (l.key * 128 + vaAt a o % 128) = false) ∧
     ∀ o' ∈ offs, vaAt a o' / 128 = vaAt a o / 128 → l.mask.getLsbD (vaAt a o' % 128) = true) →
   ∃ ks, keysOf .read a offs s = .ok (ks, s) ∧ ∀ x ∈ ks, ∃ o ∈ offs, ∃ l, line o = some l ∧
     x = (vaAt a o, if l.key = zeroLine then none else some (l.key * 128 + vaAt a o % 128)))

/-- R39, R149-R151, R153: LD, LDA and VLD complete. A load whose data is late, or that must follow an access which waits for another unit
(R161), completes with a record that waits for its value. The agent's earlier accesses that must come first perform at the load, as far as
other units do not have to perform them: that moment is the model's choice (log 35), and when the data is late its input (log 9). -/
def Obligations.LoadResults : Prop :=
  ∀ (s : State) (st lur sx : Bool) (h : MHead) (d : BitVec 5) (dv : BitVec 10) (p : BitVec 4) (base : SCode) (size : BitVec 2)
    (stride : BitVec 11) (ofs vstride : BitVec 14),
  let n := 2 ^ size.toNat
  let g := govern (s.pr p)
  let b := accBase base s
  let ld := Instr.ld st h d base lur size sx stride ofs
  let lda := Instr.lda h d base lur size sx ofs
  let vld := Instr.vld st h p dv base lur vstride ofs
  let by' := fun (k : Int) => if st then some k else none
  Loads ld s (accCls h s) h.scope false lur (.scalar sx n) (by' (stride.toInt * n)) (accAddr b ofs stride n s.issue.count) n (List.range n)
    0 d.toNat (fun v => { lat := 10, dest := s.destS (slotTag ld s) d, val := (extLoad sx n v).setWidth 2048 }) ∧
  Loads lda s (accCls h s) h.scope true lur (.scalar sx n) none (accAddr b ofs (0 : BitVec 11) n s.issue.count) n (List.range n)
    0 d.toNat (fun v => { lat := 32, dest := s.destS (slotTag lda s) d, val := (extLoad sx n v).setWidth 2048 }) ∧
  Loads vld s (accCls h s) h.scope false lur (.vector g) (by' (vstride.toInt * 256)) (accAddr b ofs vstride 256 s.issue.count) 64 g
    1 dv.toNat (fun v => { lat := 14, dest := s.destV (slotTag vld s) dv.toNat, mask := byteMask (s.pr p), val := spread g v })

/-- R39, R149-R151, R153, R158, R341: ST, STREL and VST. R139, R158, R159, R165: a pending store that nothing must precede performs, whole or,
if it is no release, in aligned 8 bytes, some now and the others later: each key performed holds its byte, unless it lies in a live granule
(R277), and every other byte is as before; no register, token or other agent changes. That a store performs for all agents at one moment,
and which parts come first, are the model's choices (log 5, log 8, log 35). -/
def Obligations.StoreInstructions : Prop :=
  (∀ (s : State) (st lur : Bool) (h : MHead) (x : SCode) (xv : VCode) (p : BitVec 4) (base : SCode) (size : BitVec 2)
     (stride : BitVec 11) (ofs vstride : BitVec 14),
   let n := 2 ^ size.toNat
   let g := govern (s.pr p)
   let b := accBase base s
   let l := s.me.flow.lift
   let c := s.issue.count
   let byte := fun o => (s.sc x).extractLsb' (8 * o) 8
   Stores (.st st h x base lur size stride ofs) s (accCls h s) h.scope false (tagOfS l x) (tagOfS l base) lur
     (accAddr b ofs stride n c) n (List.range n) byte ∧
   Stores (.strel h x base lur size ofs) s (accCls h s) h.scope true (tagOfS l x) (tagOfS l base) lur
     (accAddr b ofs (0 : BitVec 11) n c) n (List.range n) byte ∧
   Stores (.vst st h p xv base lur vstride ofs) s (accCls h s) h.scope false (tagOfVC l xv) (tagOfS l base) lur
     (accAddr b ofs vstride 256 c) 64 g (fun j => (s.vc 0 xv).extractLsb' (8 * g.getD j 0) 8)) ∧
  (∀ (s : State) (agent id : Nat) (cls : BitVec 4) (sc : Nat) (rel : Bool) (asid : BitVec 16) (cs : List (Nat × Nat × Byte)) (r : List Pend),
   (s.ctx agent).order.pend = .store id cls sc rel asid cs :: r → (∀ q ∈ r, q.sid ≠ some id) →
   ∃ t, ∃ now : Nat → Bool, exec (.storePerform agent id) s = .next t ∧
     let done := cs.filter fun c => now (c.1 / 8)
     let rest := cs.filter fun c => !now (c.1 / 8)
     (done ≠ [] ∨ cs = []) ∧ (rel = true → rest = []) ∧
     (∀ k, t.byte k = (written (s.notLive done) k).getD (s.byte k)) ∧
     (t.ctx agent).order.pend = (if rest = [] then dropFences r else .store id cls sc rel asid rest :: r) ∧
     t.ctx agent = { s.ctx agent with order := (t.ctx agent).order } ∧
     (∀ a, a ≠ agent → t.ctx a = s.ctx a) ∧ (∀ n, SameCode (s.core n) (t.core n)) ∧ (∀ n, SameCluster (s.cluster n) (t.cluster n)) ∧
     t.dev = { s.dev with channels := t.dev.channels, uses := t.dev.uses } ∧ t.bars = s.bars ∧ t.env = s.env ∧ t.issue = s.issue)

/-- R154: AMO reads, computes and writes at the home, indivisibly; the old value is its result. It raises 0x0D when misaligned and 0x0A in
host or peer memory. Where its data is late (R149), or an access that must come first waits for another unit (R161), it acts later, and
its record waits. Which copies the operation leaves is as log 12 says. -/
def Obligations.AtomicOperation : Prop :=
  ∀ (s : State) (h : MHead) (aop : BitVec 4) (x base cmp : SCode) (rd : BitVec 5) (size : BitVec 2) (ofs : BitVec 14),
  let i := Instr.amo h aop x base cmp rd size ofs
  let n := 2 ^ size.toNat
  let a := accAddr (s.sc base) ofs (0 : BitVec 14) n 0
  let cls := accCls h s
  (preTrap i s = none → a.toNat % n ≠ 0 → Traps i s (s.cause 0x0D 0 a true)) ∧
  (preTrap i s = none → a.toNat % n = 0 → ∀ e, keysOf .both a (List.range n) (afterReads i s) = .error e → exec i s = finish s e) ∧
  (a.toNat % n = 0 → ∀ ks p, keysOf .both a (List.range n) (afterReads i s) = .ok (ks, p) →
    (preTrap i s = none → allHere ks = false → Traps i s (s.cause 0x0A 0 a true)) ∧
    (Ready i s → allHere ks = true →
      let b := plainLater cls (cellsOf ks)
      let q := inOrder b (noteTag 0 rd.toNat (slotTag i s) p)
      let m := loadValue true ks q
      let c := (s.sc cmp).toNat
      let r : Result := { lat := 40, dest := s.destS (slotTag i s) rd, val := (BitVec.ofNat 64 m).setWidth 2048 }
      let waits := q.env.late.headD false = true ∨ heldBy b q ≠ []
      (¬waits → ∃ t, exec i s = .next t ∧ OnlyBoth s t ∧ Emits q t r true ∧ t.me.order = q.me.order ∧
        ∀ k, t.byte k = match amoVal aop.toNat n m (s.sc x).toNat c with
          | some v => (written (q.notLive (cellsAt ks v)) k).getD (q.byte k)
          | none => q.byte k) ∧
      (waits → ∃ t, exec i s = .next t ∧ OnlyBoth s t ∧ Emits q t { r with val := 0 } false ∧ t.mem = q.mem ∧
        t.me.order.pend = q.me.order.pend ++
          [.access q.free (some cls) h.scope.toNat true s.me.ctl.asid (cellsOf ks) (.amo q.free aop.toNat n (s.sc x).toNat c ks)])))

/-- R128, R129, R152, R161: VLDC asks a channel for the bytes, which come at a slot: its record waits for them, and until the slot it is an
access of its agent that has not performed. An uncommitted tile gives zeros; an address in a scratchpad, in host or in peer memory raises
0x0A. When the slot comes is the model's choice (log 1, log 42). -/
def Obligations.CalendarLoad : Prop :=
  ∀ (s : State) (st : Bool) (h : MHead) (p : BitVec 4) (d : BitVec 10) (base : SCode) (stride ofs : BitVec 14),
  let i := Instr.vldc st h p d base stride ofs
  let a := accAddr (accBase base s) ofs stride 256 s.issue.count
  let r : Result := { lat := 240, dest := s.destV (slotTag i s) d.toNat, mask := byteMask (s.pr p), val := 0 }
  (preTrap i s = none → a.toNat % 256 ≠ 0 → Traps i s (s.cause 0x0D 0 a)) ∧
  (a.toNat % 256 = 0 →
    (preTrap i s = none → inWindow a.toNat = true → Traps i s (s.cause 0x0A 0 a)) ∧
    (inWindow a.toNat = false →
      (preTrap i s = none → ∀ e, resolve a.toNat .slot (afterReads i s) = .error e → exec i s = finish s e) ∧
      (∀ q, resolve a.toNat .slot (afterReads i s) = .ok (none, q) → Ready i s → ∃ t, exec i s = .next t ∧ Emits s t r true ∧
        t.mem = s.mem ∧ t.dev = q.dev ∧ t.me.order = s.me.order ∧ OnlyAccess s t) ∧
      (∀ k q, resolve a.toNat .slot (afterReads i s) = .ok (some k, q) →
        (preTrap i s = none → isLocal k = false → Traps i s (s.cause 0x0A 0 a)) ∧
        (Ready i s → isLocal k = true → ∃ t, exec i s = .next t ∧ Emits s t r false ∧ t.mem = s.mem ∧
          t.me.order.pend = s.me.order.pend ++
            [.access s.free (some (accCls h s)) h.scope.toNat true s.me.ctl.asid (vldcCells a s.free) .away] ∧
          t.channel (channelOf k) = { q.channel (channelOf k) with
            reqs := (s.channel (channelOf k)).reqs ++ [(s.time, s.issue.agent, s.free, k)] } ∧
          (∀ c, c ≠ channelOf k → t.channel c = q.channel c) ∧
          (∀ c, q.channel c = { s.channel c with opens := (q.channel c).opens }) ∧ t.dev.uses = s.dev.uses ∧ OnlyAccess s t))))

/-- R139, R155, R157, R161: CFLUSH and CINV drop the cluster's copy of the line, after the earlier accesses that they must follow; at `.sys`
memory holds the line. CPREF never faults, and at `.ctx` and `.core` the whole line is registered. Where an access that must come first
waits for another unit, they act later. What stands below L2 is as log 12 says. -/
def Obligations.CacheOperations : Prop :=
  ∀ (s : State) (st : Bool) (h : MHead) (base : SCode) (stride ofs : BitVec 14),
  let a := accAddr (accBase base s) ofs stride 128 s.issue.count
  let cls := accCls h s
  let cellsOfLine := fun (n : Nat) => (List.range 128).map fun o => (a.toNat / 128 * 128 + o, n / 128 * 128 + o, (0 : Byte))
  let acts := fun (i : Instr) (load : Bool) (p : State) (cs : List (Nat × Nat × Byte)) (act : Act) (holds : State → Prop) =>
    let b := plainLater cls cs
    let q := inOrder b p
    ∃ t, exec i s = .next t ∧ OnlyAccess s t ∧ t.mem = q.mem ∧ t.me.flow.records = q.me.flow.records ∧
      (heldBy b q = [] → holds t ∧ t.me.order = q.me.order) ∧
      (heldBy b q ≠ [] → t.me.order.pend = q.me.order.pend ++
        [.access q.free (some cls) h.scope.toNat load s.me.ctl.asid cs act])
  let gone := fun (t : State) => findL1 (t.cluster (clusterOf s.issue.agent)) s.me.ctl.asid (a.toNat / 128) = none
  let line := fun (i : Instr) (load : Bool) =>
    (preTrap i s = none → inWindow a.toNat = true → ∃ t, exec i s = .next t ∧ Nothing s t) ∧
    (preTrap i s = none → inWindow a.toNat = false → ∀ e, resolve a.toNat .read (afterReads i s) = .error e → exec i s = finish s e) ∧
    (preTrap i s = none → inWindow a.toNat = false → ∀ p, resolve a.toNat .read (afterReads i s) = .ok (none, p) →
      acts i load p [] (.line false a.toNat 0) gone) ∧
    (preTrap i s = none → inWindow a.toNat = false → ∀ n p, resolve a.toNat .read (afterReads i s) = .ok (some n, p) →
      (isLocal n = false → ∃ t, exec i s = .next t ∧ OnlyAccess s t ∧ t.mem = s.mem ∧ t.me.order = s.me.order ∧
        t.me.flow.records = s.me.flow.records) ∧
      (isLocal n = true → acts i load p (cellsOfLine n) (.line (h.scope == 4) a.toNat n) fun t =>
        gone t ∧ (h.scope = 4 → ∀ j, j / 128 = n / 128 → t.channelByte j = t.byte j)))
  line (.cflush st h base stride ofs) false ∧ line (.cinv st h base stride ofs) true ∧
  (let i := Instr.cpref st h base stride ofs
   preTrap i s = none → (∀ b, resolve a.toNat .read (afterReads i s) ≠ .error (.block b)) →
     (∃ t, exec i s = .next t ∧ OnlyAccess s t) ∧
     (inWindow a.toNat = true ∨ 2 ≤ h.scope.toNat → ∃ t, exec i s = .next t ∧ OnlyAccess s t ∧ t.mem = s.mem ∧ t.me.order = s.me.order) ∧
     (inWindow a.toNat = false → h.scope.toNat < 2 → ∀ k p, resolve a.toNat .read (afterReads i s) = .ok (some k, p) → isLocal k = true →
       acts i true p (cellsOfLine k) (.fetch a.toNat k) fun t =>
         ∃ l, findL1 (t.cluster (clusterOf s.issue.agent)) s.me.ctl.asid (a.toNat / 128) = some l ∧ l.key = k / 128 ∧
           l.mask = BitVec.allOnes 128))

/-- R66-R69, R341: VSPILL and VFILL move at most two registers in a cycle, from the progress count on, at the address formed before the
first move. A move of VSPILL is a store of a register's 256 bytes; a move of VFILL loads a register, which is live again; it waits while
its data is late. That it also waits while an access that must come first waits for another unit is the model's choice (log 35), and which
causes come before the first move its reading (log 45). -/
def Obligations.SpillAndFill : Prop :=
  ∀ (s : State) (h : MHead) (v : BitVec 10) (base : SCode) (lur : Bool) (n1 : BitVec 10) (ofs : BitVec 14),
  let a := (moveBase base ofs s).1
  let l := s.me.flow.lift
  let g := progress s
  let k := Nat.min 2 (n1.toNat + 1 - g)
  let spill := Instr.vspill h v base lur n1 ofs
  let fill := Instr.vfill h v base lur n1 ofs
  let data := orTags ((List.range (n1.toNat + 1)).map fun j => tagOfV l (v.toNat + j))
  let axis := axisConflict data (tagOfS l base)
  let acts := axis = false ∨ lur = true ∧ LastInstance spill s
  let place := fun (j : Nat) => a + BitVec.ofNat 64 (256 * j)
  (∀ b, mget none s.me.moveAt s.issue.slot = some b → a = b) ∧
  (mget none s.me.moveAt s.issue.slot = none → a = accAddr (s.sc base) ofs (0 : BitVec 14) 256 0) ∧
  (preTrap spill s = none → axis = true → lur = false → Traps spill s (s.cause 0x12)) ∧
  (preTrap spill s = none → axis = true → lur = true → ¬LastInstance spill s → ∃ t, exec spill s = .next t ∧ t.mem = s.mem ∧
    t.me.order = s.me.order ∧ t.me.regs = s.me.regs ∧ progress t = n1.toNat + 1) ∧
  (preTrap spill s = none → acts → a.toNat % 64 ≠ 0 → Traps spill s (s.cause 0x0D 0 a true)) ∧
  (preTrap spill s = none → acts → a.toNat % 64 = 0 → ∀ t,
    Moves (fun j s' => spillMove h (place j) (s.physV (tagOfV l (v.toNat + j)) (v.toNat + j)) s') k g (moveBase base ofs (afterReads spill s)).2 t →
    ∃ t', exec spill s = .next t' ∧ t'.mem = t.mem ∧ t'.me.order = t.me.order ∧ t'.me.regs = s.me.regs ∧ progress t' = g + k) ∧
  (preTrap fill s = none → a.toNat % 64 ≠ 0 → exec fill s = finish (afterReads fill s) (.trap (s.cause 0x0D 0 a))) ∧
  (preTrap fill s = none → a.toNat % 64 = 0 → ∀ t,
    Moves (fun j s' => fillMove h lur (place j) (slotTag fill s) (v.toNat + j) s') k g (moveBase base ofs (afterReads fill s)).2 t →
    ∃ t', exec fill s = .next t' ∧ t'.mem = t.mem ∧ t'.me.regs = t.me.regs ∧ t'.me.order = t.me.order ∧ progress t' = g + k) ∧
  (∀ n ks p, keysOf .write a (List.range 256) s = .ok (ks, p) → liveHit ks p = none →
    ∃ t, spillMove h a n s = .ok t ∧ t.mem = p.mem ∧ t.me.regs = s.me.regs ∧
      t.me.order.pend = s.me.order.pend ++ (let c := cells ks fun o => (s.vnum s.me n).extractLsb' (8 * o) 8
        if c = [] then [] else [.store s.free (accCls h s) h.scope.toNat false s.me.ctl.asid c])) ∧
  (∀ u n, s.env.late.head? = some true → fillMove h lur a u n s = .block .late) ∧
  (∀ u n ks p, s.env.late.head? ≠ some true → keysOf .read a (List.range 256) s = .ok (ks, p) →
    let b := plainLater (accCls h s) (cellsOf ks)
    let q := inOrder b (takeLate p).2
    (heldBy b q ≠ [] → fillMove h lur a u n s = .block (.order (heldBy b q))) ∧
    (heldBy b q = [] → ∃ t, fillMove h lur a u n s = .ok t ∧ t.mem = q.mem ∧
      t.vraw t.me (s.physV u n) = BitVec.ofNat 2048 (loadValue false ks q) ∧
      (∀ j, j ≠ s.physV u n → mget 0 t.me.regs.v j = mget 0 s.me.regs.v j) ∧ t.me.regs.s = s.me.regs.s ∧ t.me.flow.qv = s.me.flow.qv))

/-- R309-R311, R259, R278: GATH loads the lanes in use, SCAT stores them in ascending order, SCAT.ADD adds them in, the lanes of one address
combined. Each raises 0x0D when its base is misaligned; a lane in a live granule raises 0x0E at the lowest such address. That each addition
is an access of its agent that performs by itself and later, and that SCAT.ADD raises 0x0A at an element of the host or of a peer, is the
model's choice (log 9), and so is the moment at which earlier accesses of GATH perform (log 35). -/
def Obligations.GatherScatter : Prop :=
  (∀ (s : State) (h : MHead) (d : BitVec 10) (x : VCode) (base cnt : SCode) (lur fadd : Bool) (sz : BitVec 2) (idx : Option VCode),
   let n := 2 ^ sz.toNat
   let b := s.sc base
   let c := gatherCount n cnt s
   let ls := List.range c
   let at' := gatherAddr b n (idx.map fun x => s.vc 0 x)
   let gath := Instr.gath h d base lur sz idx cnt
   let scat := Instr.scat h x base lur sz idx cnt
   let add := Instr.scatAdd h x base lur sz idx cnt fadd
   let needs := fun (l : Nat) => if inWindow (at' l).toNat then Need.write else Need.both
   (b.toNat % n ≠ 0 → (preTrap gath s = none → Traps gath s (s.cause 0x0D 0 b)) ∧
     (preTrap scat s = none → Traps scat s (s.cause 0x0D 0 b true)) ∧ (preTrap add s = none → Traps add s (s.cause 0x0D 0 b true))) ∧
   (Ready gath s → b.toNat % n = 0 → ∀ ks p, laneKeys (fun _ => .read) n at' ls (afterReads gath s) = .ok (ks, p) →
     LoadsAt gath s p (accCls h s) h.scope false lur (.vector (List.range (c * n))) none (ls.map fun l => (at' l).toNat) ks.flatten 1 d.toNat 0
       fun v => { lat := 24, dest := s.destV 0 d.toNat, mask := .ofNat 2048 (2 ^ (8 * n * c) - 1), val := spread (List.range (c * n)) v }) ∧
   (preTrap scat s = none → b.toNat % n = 0 → ∀ ks p, laneKeys (fun _ => .write) n at' ls (afterReads scat s) = .ok (ks, p) →
     (∀ y, liveHit ks.flatten p = some y → Traps scat s (s.cause 0x0E 0 (.ofNat 64 y) true)) ∧
     (liveHit ks.flatten p = none → ∃ t, exec scat s = .next t ∧ t.mem = p.mem ∧ OnlyCommits s t ∧ t.me.flow.records = s.me.flow.records ∧
       t.me.order.pend = s.me.order.pend ++ scattered (accCls h s) h.scope.toNat s.me.ctl.asid (s.vc 0 x) n s.free (ls.zip ks))) ∧
   (preTrap add s = none → b.toNat % n = 0 → ∀ ks p, laneKeys needs n at' ls (afterReads add s) = .ok (ks, p) →
     (∀ y, liveHit ks.flatten p = some y → Traps add s (s.cause 0x0E 0 (.ofNat 64 y) true)) ∧
     (liveHit ks.flatten p = none → allHere ks.flatten = false → Traps add s (s.cause 0x0A 0 b true)) ∧
     (liveHit ks.flatten p = none → allHere ks.flatten = true →
       let items := combineLanes fadd n ((ls.zip ks).map fun y => (at' y.1, y.2, laneN (8 * n) (s.vc 0 x) y.1))
       ∃ t, exec add s = .next t ∧ OnlyCommits s t ∧ t.me.flow.records = s.me.flow.records ∧ t.mem = p.mem ∧
         t.me.order.pend = s.me.order.pend ++ addedLanes (accCls h s) h.scope.toNat s.me.ctl.asid fadd n s.free items))) ∧
  (∀ (s : State) (agent id : Nat) (cls : BitVec 4) (sc n v : Nat) (fadd : Bool) (asid : BitVec 16) (ks : List (Nat × Option Nat)) (r : List Pend),
   (s.ctx agent).order.pend = .access id (some cls) sc false asid (cellsOf ks) (.add fadd n v ks) :: r → (∀ q ∈ r, q.sid ≠ some id) →
   let m := loadAs agent asid true ks s
   ∃ t, exec (.storePerform agent id) s = .next t ∧ (t.ctx agent).order.pend = dropFences r ∧
     (∀ k, t.byte k = (written (s.notLive (cellsAt ks (scatComb fadd n m v))) k).getD (s.byte k)) ∧
     t.ctx agent = { s.ctx agent with order := (t.ctx agent).order } ∧ (∀ a, a ≠ agent → t.ctx a = s.ctx a) ∧ t.bars = s.bars)

/-- R304-R306: QPUSH adds its value at the end of a queue of the core, QPOP takes the head as its result; a full queue and an empty one
block. At `.core` QPUSH is a release over all classes: the accesses that it covers perform first; that it blocks while one of them waits for
another unit is the model's choice (log 35). -/
def Obligations.AccessQueues : Prop :=
  ∀ (s : State) (core st : Bool) (x : VCode) (q : BitVec 2) (p : BitVec 4) (d : BitVec 10),
  let c := coreOf s.issue.agent
  let l := mget [] (s.core c).aq q.toNat
  let push := Instr.qpush core x q
  let pop := Instr.qpop st p d q
  let r : Later := ⟨none, none, if core then some 1 else none, []⟩
  let z := inOrder r (afterReads push s)
  (core = false → heldBy r z = []) ∧ OnlyAccess s z ∧
  (preTrap push s = none → 64 ≤ l.length → Blocks push s (.aq q.toNat true)) ∧
  (preTrap push s = none → l.length < 64 → heldBy r z ≠ [] → Blocks push s (.order (heldBy r z))) ∧
  (preTrap push s = none → l.length < 64 → heldBy r z = [] → ∃ t, exec push s = .next t ∧
    t.core c = { z.core c with aq := mset [] (s.core c).aq q.toNat (l ++ [s.vc 0 x]) } ∧ (∀ n, n ≠ c → t.core n = z.core n) ∧
    (core = false → Outside s { t with cores := s.cores } ∧ OnlyResult s t) ∧ Outside z { t with cores := z.cores } ∧ Becomes t z.me) ∧
  (preTrap pop s = none → l = [] → Blocks pop s (.aq q.toNat false)) ∧
  (∀ v r, l = v :: r → Ready pop s → ∃ t, exec pop s = .next t ∧
    Emits s t { lat := 4, dest := s.destV (slotTag pop s) d.toNat, mask := byteMask (s.pr p), val := v } true ∧ OnlyResult s t ∧
    t.core c = { s.core c with aq := mset [] (s.core c).aq q.toNat r } ∧ (∀ n, n ≠ c → t.core n = s.core n) ∧
    Outside s { t with cores := s.cores })

/-- R277-R280: BARI makes a granule a live barrier word of the expected counts; BARX retires it and gives its generation, and a BARW that
has met its block there raises 0x0A when its bundle is next evaluated; a BARA's arrival under way there will be refused. A bad address raises its cause, BARI on a live granule 0x0E, BARX on
one that is not live 0x0A. R279, R280, R296: BARA sends its arrival, whose old generation its record awaits; BARW waits while the generation
is the one compared, which it captures, for its slot, at the first block. R159, R161: BARI, BARW and BARX perform after the accesses that
must come first; that they block while one of these waits for another unit is the model's choice (log 35). BARA is an access that has not
performed until it arrives. -/
def Obligations.Barriers : Prop :=
  (∀ (s : State) (h : MHead) (x base : SCode) (rd : BitVec 5) (ofs : BitVec 14),
   let bari := Instr.bari h x base ofs
   let barx := Instr.barx h base rd ofs
   let b := barrierAt base ofs s
   let mine := fun (k : Nat) => plainLater (barCls h s) (granuleCells k)
   let ordered := fun (i : Instr) (k : Nat) => inOrder (mine k) (afterReads i s)
   let held := fun (i : Instr) (k : Nat) => heldBy (mine k) (ordered i k)
   (∀ k, OnlyAccess s (ordered bari k) ∧ OnlyAccess s (ordered barx k)) ∧
   (preTrap bari s = none → ∀ e, b.2 = .error e → Traps bari s e) ∧
   (preTrap bari s = none → ∀ k, b.2 = .ok k →
     (s.live k = true → Traps bari s (s.cause 0x0E 0 b.1)) ∧
     (s.live k = false → bankOk s s.issue.agent (b.1.toNat / 2 ^ 18) = false → Traps bari s (s.cause 0x0A 0 b.1)) ∧
     (s.live k = false → bankOk s s.issue.agent (b.1.toNat / 2 ^ 18) = true →
       (held bari k ≠ [] → Blocks bari s (.order (held bari k))) ∧
       (held bari k = [] → ∃ t, exec bari s = .next t ∧ t.live k = true ∧
         (∀ j, j / 16 ≠ k / 16 → t.live j = s.live j) ∧ barField t k 0 4 = (s.sc x).toNat % 2 ^ 32 ∧ barField t k 4 4 = 0 ∧ barGen t k = 0 ∧
         barField t k 12 2 = (s.sc x).toNat / 2 ^ 32 % 2 ^ 16 ∧ barField t k 14 2 = 0 ∧
         (∀ j, j < k ∨ k + 16 ≤ j → t.byte j = (ordered bari k).byte j) ∧ OnlyAccess s { t with bars := s.bars } ∧
         t.me.flow.records = (ordered bari k).me.flow.records))) ∧
   (preTrap barx s = none → ∀ e, liveBarrier base ofs s = .error e → Traps barx s e) ∧
   (preTrap barx s = none → ∀ k, liveBarrier base ofs s = .ok k → held barx k ≠ [] → Blocks barx s (.order (held barx k))) ∧
   (Ready barx s → ∀ k, liveBarrier base ofs s = .ok k → held barx k = [] →
     let q := useBanks s.issue.agent [k] (ordered barx k)
     ∃ t, exec barx s = .next t ∧ t.live k = false ∧ (∀ j, j / 16 ≠ k / 16 → t.live j = s.live j) ∧
       Emits q t { lat := 12, dest := s.destS (slotTag barx s) rd, val := (BitVec.ofNat 64 (barGen q k)).setWidth 2048 } true ∧
       t.mem = q.mem ∧ t.cores = q.cores ∧ t.clusters = q.clusters ∧ t.env = q.env ∧ t.dev = { q.dev with signals := t.dev.signals } ∧
       (∀ (n : Nat) (g : Signal), q.dev.signals[n]? = some g → t.dev.signals[n]? = some (Signal.retired (fun (j : Nat) => j == k / 16) g)) ∧ t.dev.signals.length = q.dev.signals.length ∧ t.issue = q.issue ∧
       t.me.regs = s.me.regs ∧ t.me.ctl = s.me.ctl ∧ t.me.toks = s.me.toks ∧ t.me.order = q.me.order ∧
       (∀ a, a ≠ s.issue.agent → t.ctx a = { q.ctx a with answer := (t.ctx a).answer }) ∧
       (∀ a, (t.ctx a).answer ≠ (q.ctx a).answer → ∃ y ∈ (s.ctx a).barw, ∃ v, y.2 = some v ∧ v.1 / 16 = k / 16 ∧
         (t.ctx a).answer = some { cause := 0x0A, slot := y.1, faddr := .ofNat 64 (v.1 % 2 ^ 22) }))) ∧
  (∀ (s : State) (h : MHead) (x base : SCode) (rd : BitVec 5) (ofs : BitVec 14),
   let bara := Instr.bara h x base rd ofs
   let barw := Instr.barw h x base ofs
   let b := barrierAt base ofs s
   let down := inReset s (clusterOf s.issue.agent * 8 + b.1.toNat / 2 ^ 19)
   let g := match mget none s.me.barw s.issue.slot with | some (_, g) => g | none => (s.sc x).setWidth 32
   let cls := barCls h s
   let pend := s.me.order.pend
   (preTrap bara s = none → ∀ e, b.2 = .error e → Traps bara s e) ∧
   (preTrap bara s = none → ∀ k, b.2 = .ok k → down = true → Traps bara s (s.cause 0x24 0 b.1)) ∧
   (preTrap bara s = none → ∀ k e, b.2 = .ok k → down = false → liveBarrier base ofs s = .error e → Traps bara s e) ∧
   (Ready bara s → ∀ k, down = false → liveBarrier base ofs s = .ok k → ∃ t, exec bara s = .next t ∧
     Emits s t { lat := 12, dest := s.destS (slotTag bara s) rd, val := 0 } false ∧
     t.me.order.pend = pend ++ [.access s.free (some cls) h.scope.toNat true s.me.ctl.asid (granuleCells k) .away] ∧ OnlyAccess s { t with dev := s.dev } ∧
     t.dev = { s.dev with signals := s.dev.signals ++
       [.barrier (mustFirst ⟨some cls, none, some h.scope.toNat, granuleCells k⟩ pend) (some s.free) k ((s.sc x).toNat % 2 ^ 32) s.free] } ∧
     Outside s { t with dev := s.dev }) ∧
   (preTrap barw s = none → ∀ e, liveBarrier base ofs s = .error e → Traps barw s e) ∧
   (preTrap barw s = none → ∀ k, liveBarrier base ofs s = .ok k →
     let w := plainLater cls (granuleCells k)
     let q := inOrder w (afterReads barw s)
     OnlyAccess s q ∧
     (heldBy w q ≠ [] → Blocks barw s (.order (heldBy w q))) ∧
     (heldBy w q = [] → barGen q k = g.toNat → Blocks barw s (.bar s.issue.slot k g)) ∧
     (heldBy w q = [] → barGen q k ≠ g.toNat → ∃ t, exec barw s = .next t ∧
       Becomes t { q.me with barw := mset none q.me.barw s.issue.slot none } ∧ Outside (useBanks s.issue.agent [k] q) t)))

/-- R355, R357, R359: one tile of COMMIT takes the page at the top of its pool: the entry names it and is valid, and the page reads as
zeros; a mapped tile is left as it is, and an empty pool raises 0x0C. One tile of DECOMMIT makes the entry invalid, and with `.unmap` no
tile. R358, R359: COMMIT and DECOMMIT do their tiles in ascending order, after the accesses that a store to them must follow; with s0 for
the count, one. A fault keeps the tiles before it. A base that is no tile's raises 0x0D, a count above 65,536 0x0A. What a leaf that is not
sparse raises, FINFO.WR of each of these causes, the block on an access that must come first and waits for another unit, and how .unmap
replays, are the model's choices (log 33, log 34, log 35, log 36). -/
def Obligations.TileCommits : Prop :=
  (∀ (s : State) (va entry w : Nat) (unmap : Bool),
   let gone := fun (t : State) => Dropped s.me.ctl.asid va (va + 65536) t
   tileLeaf va s = .ok (entry, w) →
   let d := s.poolAt (leafPool w)
   let n := s.readLE (d + 12) 4
   let p := s.readLE (s.readLE d 8 + 8 * (n - 1)) 8
   (leafV w = true → commitOne va s = .ok (dropTile va s)) ∧
   (leafV w = false → n = 0 → s.shut d = false → commitOne va s = .error { s.cause 0x0C 1 (.ofNat 64 va) true with pool := leafPool w }) ∧
   (leafV w = false → s.poolShut d = true → commitOne va s = .error (s.cause 0x0A 0 (.ofNat 64 va) true)) ∧
   (leafV w = false → n ≠ 0 → s.poolShut d = false → ∃ t, commitOne va s = .ok t ∧ leafV (t.entryAt entry) = true ∧
     leafPA (t.entryAt entry) = p / 2 ^ 16 % 2 ^ 30 * 2 ^ 16 ∧ t.entryAt entry % 2 ^ 16 = w % 2 ^ 16 / 2 * 2 + 1 ∧
     (∀ k, p ≤ k → k < p + 65536 → k < entry ∨ entry + 8 ≤ k → t.byte k = 0) ∧
     (∀ k, k < p ∨ p + 65536 ≤ k → k < entry ∨ entry + 8 ≤ k → k < d + 12 ∨ d + 16 ≤ k → t.byte k = s.byte k) ∧
     t.dev = { s.dev with channels := t.dev.channels } ∧ t.bars = s.bars ∧ t.free = s.free ∧ gone t ∧
     ∀ a, t.ctx a = { s.ctx a with lines := (t.ctx a).lines }) ∧
   (leafV w = false → decommitOne unmap va s = .ok (dropTile va s)) ∧
   (let t := dropTile va s
    t.mem = s.mem ∧ t.dev = s.dev ∧ t.bars = s.bars ∧ t.free = s.free ∧ gone t ∧ ∀ a, t.ctx a = { s.ctx a with lines := (t.ctx a).lines })) ∧
  (∀ (s : State) (va entry w : Nat) (unmap : Bool),
   let q := tileClear va s
   let gone := fun (t : State) => Dropped s.me.ctl.asid va (va + 65536) t
   tileLeaf va q = .ok (entry, w) →
   let d := q.poolAt (leafPool w)
   let n := q.readLE (d + 12) 4
   let full := q.readLE (d + 8) 4 ≤ n ∨ q.shut d = true ∨ q.shut (q.readLE d 8 + 8 * n) = true
   (leafV w = true → full → decommitOne unmap va s = .error (q.cause 0x0A 0 (.ofNat 64 va) true)) ∧
   (leafV w = true → ¬full → ∃ t, decommitOne unmap va s = .ok t ∧ gone t ∧
     t.entryAt entry = w - 1 - (if unmap then 32 else 0) ∧ t.dev = q.dev ∧ t.bars = q.bars ∧ t.free = q.free ∧
     ∀ a, t.ctx a = { q.ctx a with lines := (t.ctx a).lines })) ∧
  (∀ (s : State) (va entry w : Nat), tileLeaf va s = .ok (entry, w) → leafV w = true →
   let p := leafPA w
   let q := tileClear va s
   q.bars = s.bars ∧ (∀ a, (q.ctx a).regs = (s.ctx a).regs ∧ (q.ctx a).toks = (s.ctx a).toks ∧ (q.ctx a).mode = (s.ctx a).mode) ∧
     (∀ a id cls sc rel asid cs, .store id cls sc rel asid cs ∈ (q.ctx a).order.pend → ∀ c ∈ cs, ¬(p ≤ c.2.1 ∧ c.2.1 < p + 65536)) ∧
     ∀ f ∈ q.dev.frees, ∀ k ∈ f.block, ¬(p ≤ k ∧ k < p + 65536)) ∧
  (∀ (s : State) (cls : Option (BitVec 4)) (cnt base : SCode) (unmap : Bool),
   let n := if cnt = .s 0 then 1 else (s.sc cnt).toNat
   let b := s.sc base
   let keeps := fun (i : Instr) => i = .decommit cls cnt base true
   let from' := fun (i : Instr) (q : State) => if keeps i then tilesDone q else 0
   let noted := fun (i : Instr) (j : Option Nat) (r : State) => if keeps i then noteTiles j r else r
   let does := fun (i : Instr) (step : Nat → State → Except Trap State) =>
     (preTrap i s = none → b.toNat % 65536 ≠ 0 → Traps i s (s.cause 0x0D 0 b)) ∧
     (preTrap i s = none → b.toNat % 65536 = 0 → 65536 < n → Traps i s (s.cause 0x0A 0 b)) ∧
     (preTrap i s = none → b.toNat % 65536 = 0 → n ≤ 65536 →
       let x := plainLater (cls.getD s.issue.clsdef) (rangeCells b.toNat (b.toNat + 65536 * n) s.me.order.pend)
       let q := inOrder x (afterReads i s)
       OnlyAccess s q ∧
       (heldBy x q ≠ [] → exec i s = finish q (.block (.order (heldBy x q)))) ∧
       let g := from' i q
       (heldBy x q = [] → ∀ r, Tiles step b (n - g) g q r → ∃ t, exec i s = .next t ∧ Becomes t (noted i none r).me ∧ Outside r t) ∧
       (heldBy x q = [] → ∀ j r e, g ≤ j → j < n → Tiles step b (j - g) g q r → step (vaAt b (j * 65536)) r = .error e →
         exec i s = finish (noted i (some j) r) (.trap e)))
   does (.commit cls cnt base) commitOne ∧ does (.decommit cls cnt base unmap) (decommitOne unmap))

/-- R362, R363: ALLOC takes the head of a heap pool's list as its result, and 0, counted as a failure, from an empty one; FREE asks for the
block to join the list, once the agent's earlier accesses to it have performed; a block outside the pool raises 0x0A. Accesses that must
come first perform (R159, R161); that the word blocks while one of them waits for another unit is the model's choice (log 35). -/
def Obligations.HeapOperations : Prop :=
  ∀ (s : State) (h : MHead) (src base : SCode) (rd : BitVec 5),
  let alloc := Instr.alloc h base rd
  let free := Instr.free h src base
  let cls := h.cls.getD s.issue.clsdef
  let gives := fun (t q : State) (v : Nat) (cs : List (Nat × Nat × Byte)) =>
    Emits q t { lat := 40, dest := s.destS (slotTag alloc s) rd, val := (BitVec.ofNat 64 v).setWidth 2048 } true ∧
    (∀ k, t.byte k = (written cs k).getD (q.byte k)) ∧ OnlyBoth s t
  (preTrap alloc s = none → ∀ e, heapRead cls (s.sc base) (afterReads alloc s) = .error e → exec alloc s = finish s e) ∧
  (Ready alloc s → ∀ ks bs p, heapRead cls (s.sc base) (afterReads alloc s) = .ok ((ks, bs), p) →
    (numAt bs 16 8 = 0 → ∃ t, exec alloc s = .next t ∧ gives t p 0 (fieldCells ks 32 8 (numAt bs 32 8 + 1))) ∧
    (numAt bs 16 8 ≠ 0 → ∀ kn p', keysOf .read (.ofNat 64 (numAt bs 16 8)) (List.range 8) p = .ok (kn, p') →
      let x := plainLater cls (cellsOf kn)
      let q := inOrder x p'
      (heldBy x q ≠ [] → Blocks alloc s (.order (heldBy x q))) ∧
      (heldBy x q = [] → ∃ t, exec alloc s = .next t ∧ gives t q (numAt bs 16 8)
        (fieldCells ks 16 8 (loadValue true kn q) ++ fieldCells ks 24 8 ((numAt bs 24 8 + 2 ^ 64 - 1) % 2 ^ 64))))) ∧
  (preTrap free s = none → ∀ e, heapRead cls (s.sc base) (afterReads free s) = .error e → exec free s = finish s e) ∧
  (preTrap free s = none → ∀ ks bs p, heapRead cls (s.sc base) (afterReads free s) = .ok ((ks, bs), p) →
    let a := (s.sc src).toNat
    let b := numAt bs 0 8
    let size := 2 ^ (bs.getD 8 0).toNat
    let outside := a < b ∨ b + numAt bs 12 4 * size ≤ a ∨ (a - b) % size ≠ 0
    (outside → Traps free s (s.cause 0x0A 0 (s.sc src))) ∧
    (¬outside → ∀ kn q, keysOf .write (s.sc src) (List.range 8) p = .ok (kn, q) →
      let pend := q.me.order.pend
      let mine := cellsOf (ks ++ kn)
      ∃ t f, exec free s = .next t ∧ t.mem = q.mem ∧
        t.dev = { q.dev with frees := q.dev.frees ++ [f] } ∧ f.agent = s.issue.agent ∧ f.asid = s.me.ctl.asid ∧ f.blockVA = s.sc src ∧
        f.descVA = s.sc base ∧ f.desc = ks.filterMap Prod.snd ∧ f.block = kn.filterMap Prod.snd ∧ f.own = q.free ∧
        (∀ id, id ∈ f.waits ↔ (∃ y ∈ pend, ∃ e, y.earlier = some (id, e) ∧ rangesMeet [(a, a + size)] e.cells = true) ∨
          id ∈ mustFirst (plainLater cls mine) pend) ∧
        t.me.order.pend = pend ++ [.access q.free (some cls) h.scope.toNat false s.me.ctl.asid mine .away] ∧
        t.me.flow.records = q.me.flow.records ∧ OnlyBoth s { t with dev := q.dev }))

/-- R365: TLBINV drops what the cores in its scope hold of a region: translations, L1 copies of their clusters, instruction-cache lines and
loop bodies, fetch lines; the accesses in flight there perform first. R416: at `.sys` it goes to the other devices, and has performed once
each has dropped its translations. The registers of every context stay. That the word blocks while an access in flight waits for another
unit, and which devices it goes to, are the model's choices (log 35, log 48); what a core holds is as log 11, log 12 and log 13 say. -/
def Obligations.Invalidation : Prop :=
  ∀ (s : State) (scope : BitVec 3) (asid base : SCode) (size : BitVec 2),
  let i := Instr.tlbinv scope asid base size
  let takes := fun (a : BitVec 16) => (s.sc asid).getLsbD 16 || a == (s.sc asid).extractLsb' 0 16
  let covers := fun (a : BitVec 16) => takes a = true
  let lo := (invRegion size (s.sc base)).1
  let hi := (invRegion size (s.sc base)).2
  let meets := fun (b n : Nat) => b < hi ∧ lo < b + n
  let inside := fun (c : Nat) => coreInScope scope.toNat s.issue.agent c = true
  let ids := (s.ctxs.flatMap fun c => if coreInScope scope.toNat s.issue.agent (coreOf c.1) then inRegion takes lo hi c.2.order.pend else []) ++
    beforeTlbinv s.me.order.pend
  let q := s.forceIds ids
  let held := ids.filter fun i => q.anyPending [i]
  let peers := if scope = 4 then ((s.dev.routes.map Prod.fst).filter (· != s.dev.devno.toNat)).zipIdx else []
  preTrap i s = none →
    (held ≠ [] → Blocks i s (.order held)) ∧
    (held = [] → ∃ t, exec i s = .next t ∧
      (∀ n, inside n → (∀ x ∈ (t.core n).tlb, ¬(covers x.asid ∧ meets x.base (2 ^ x.bits))) ∧
        (∀ x ∈ (t.core n).icache, ¬(covers x.asid ∧ meets (x.line * 64) 64)) ∧
        ∀ x ∈ (t.core n).bodies, ¬(covers (s.ctx x.agent).ctl.asid ∧ meets x.start.toNat x.size)) ∧
      (∀ n, ¬inside n → t.core n = q.core n) ∧ (∀ n, SameCore (s.core n) (t.core n)) ∧
      (∀ n j, j < 8 → inside (8 * n + j) → ∀ x ∈ (t.cluster n).l1, ¬(covers x.asid ∧ meets (x.vline * 128) 128)) ∧
      (∀ a, inside (coreOf a) → covers (s.ctx a).ctl.asid → ∀ x ∈ (t.ctx a).lines, ¬meets (x.1 * 64) 64) ∧
      (∀ a, (t.ctx a).regs = (s.ctx a).regs ∧ (t.ctx a).ctl = (s.ctx a).ctl ∧ (t.ctx a).toks = (s.ctx a).toks ∧
        (t.ctx a).flags = (s.ctx a).flags ∧ (t.ctx a).mode = (s.ctx a).mode) ∧
      t.me.flow.records = q.me.flow.records ∧ t.mem = q.mem ∧
      t.dev = { s.dev with
        channels := t.dev.channels, uses := t.dev.uses, signals := s.dev.signals ++ peers.map fun x => .inval (some (q.free + x.2)) x.1 } ∧
      t.me.order.pend = q.me.order.pend ++ (peers.map fun x => .access (q.free + x.2) none 4 true s.me.ctl.asid [] .away) ∧
      t.bars = s.bars ∧ t.issue = s.issue)

/-- R157, R168-R173: a fence covers the earlier accesses of its classes, or in its ranges, that have not performed: loads, and stores that are
not yet visible in its scope. It joins the agent's order while there is one, and is gone at once otherwise. FENCE.R takes a counter of the
core, or, with all 16 taken, is counted in FALLBACK and waits as FENCE.C does; a bad entry raises 0x18. That a store of an agent has always
performed toward the agent itself is the model's reading (log 8). -/
def Obligations.FenceResults : Prop :=
  (∀ (e : Earlier) (sc : Nat) (m : BitVec 16) (rs : List (Nat × Nat)) (k : Bool),
   let seen := e.load = true ∨ 1 ≤ sc ∧ (sc = 4 ∨ farCells e.cells = false)
   ((Pend.fenceC sc m).covers e = true ↔ seen ∧ ∃ c, e.cls = some c ∧ m.getLsbD c.toNat = true) ∧
   ((Pend.fenceR sc rs k).covers e = true ↔ seen ∧ ∃ c ∈ e.cells, ∃ r ∈ rs, r.1 ≤ c.1 ∧ c.1 < r.2)) ∧
  (∀ (s : State) (scope : BitVec 3) (mask : BitVec 16) (o : FOpd) (os : List FOpd),
   let c := coreOf s.issue.agent
   let fc := Instr.fenceC scope mask
   let fr := Instr.fenceR scope o os
   let u := (o :: os).flatMap (opdRanges s)
   let pend := s.me.order.pend
   let good := ∀ n ∈ (info fr).tis, fenceEntryOk (tiOf s s.issue.agent n.toNat) = true
   let waits := fun (f : Pend) => ∃ p ∈ pend, ∃ id e, p.earlier = some (id, e) ∧ f.covers e = true
   let f := Pend.fenceC scope.toNat mask
   let g := Pend.fenceR scope.toNat u true
   (preTrap fc s = none → (waits f → Makes fc s (withPend s.me f)) ∧ (¬waits f → Makes fc s s.me)) ∧
   (preTrap fr s = none → ¬good → Traps fr s (s.cause 0x18)) ∧
   (preTrap fr s = none → good →
     (¬waits g → Makes fr s s.me) ∧
     (waits g →
       ((s.core c).counters < 16 → ∃ t, exec fr s = .next t ∧ Becomes t (withPend s.me g) ∧
         t.core c = { s.core c with counters := (s.core c).counters + 1 } ∧ (∀ n, n ≠ c → t.core n = s.core n) ∧
         Outside s { t with cores := s.cores }) ∧
       (16 ≤ (s.core c).counters → ∃ t, exec fr s = .next t ∧ t.me.order.pend = pend ++ [.fenceC scope.toNat 0xFFFF] ∧
         t.me.ctl = { s.me.ctl with fallback := s.me.ctl.fallback + 1 } ∧ t.me.regs = s.me.regs ∧ t.me.toks = s.me.toks ∧
         t.me.flow.records = s.me.flow.records ∧ (∀ n, SameCode (s.core n) (t.core n)) ∧ (Untraced s → t.cores = s.cores ∧ t.mem = s.mem) ∧
         t.issue = s.issue))))

/-! Flags, tokens, KILL. -/

/-- R288-R294, R416: FWAIT takes its count from a flag, or waits for it; FPOST and FPOSTR send a post, a release over every access of
their agent; KWAIT waits for its token, and raises the error that the token holds. R34, R60-R62: the forms of KILL. -/
def Obligations.FlagsTokensKills : Prop :=
  (∀ (s : State) (f : BitVec 4) (n : BitVec 8) (self nt : Bool) (ctx : BitVec 2) (n5 : BitVec 5) (x : SCode) (k : BitVec 5),
   let a := s.issue.agent
   let have' := mget (0 : W32) s.me.flags f.toNat
   let fpost := Instr.fpost f self ctx n5
   let target := if self then a else 4 * coreOf a + ctx.toNat
   let v := s.sc x
   let tok := mget ({} : Token) s.me.toks k.toNat
   (preTrap (.fwait f n) s = none →
     (have'.toNat < n.toNat → Blocks (.fwait f n) s (.flag f.toNat n.toNat)) ∧
     (n.toNat ≤ have'.toNat → Makes (.fwait f n) s { s.me with flags := mset 0 s.me.flags f.toNat (have' - n.setWidth 32) })) ∧
   (preTrap fpost s = none →
     (self = false → takesPosts s target = false → Traps fpost s (s.cause 0x0A)) ∧
     (self = true ∨ takesPosts s target = true → Signals fpost s 1 fun w o => .flag w o false target f.toNat n5.toNat)) ∧
   (preTrap (.fpostr f x) s = none →
     (postValueBad v = true → Traps (.fpostr f x) s (s.cause 0x0A 0 v)) ∧
     (postValueBad v = false →
       (v.getLsbD 50 = true → v.toNat / 2 ^ 32 % 2 ^ 18 ≠ s.dev.devno.toNat →
         Signals (.fpostr f x) s 4 fun w o => .remote w o (v.toNat / 2 ^ 32 % 2 ^ 18) v f.toNat none) ∧
       (v.getLsbD 50 = false ∨ v.toNat / 2 ^ 32 % 2 ^ 18 = s.dev.devno.toNat →
         Signals (.fpostr f x) s (if v.getLsbD 50 then 4 else 3) fun w o =>
           .flag w o true (v.toNat % 2 ^ 11) f.toNat (v.toNat / 2 ^ 16 % 2 ^ 16)))) ∧
   (preTrap (.kwait nt k) s = none →
     (tok.pend ≠ 0 → Blocks (.kwait nt k) s (.token k.toNat)) ∧
     (tok.pend = 0 → tok.err = true → nt = false → Traps (.kwait nt k) s { s.cause tok.cause.toNat 0 tok.eaddr with tok := some k }) ∧
     (tok.pend = 0 → tok.err = false ∨ nt = true → Makes (.kwait nt k) s s.me))) ∧
  (∀ (s : State) (blk : BitVec 4) (m : SCode) (im : BitVec 32),
   (preTrap (.killScalar blk m) s = none → Kills (.killScalar blk m) s blk.toNat fun b => (s.sc m).getLsbD b) ∧
   (preTrap (.killImmLo blk im) s = none → Kills (.killImmLo blk im) s blk.toNat fun b => im.getLsbD b) ∧
   (preTrap (.killImmHi blk im) s = none → Kills (.killImmHi blk im) s blk.toNat fun b => decide (32 ≤ b) && im.getLsbD (b - 32)))

/-! Engine commands. -/

/-- R206-R208, R211, R218, R219, R224: the commands of the matrix array and of the latches: when each of the seven raises a cause, blocks,
stalls and completes. In the mode and with the operands that its own checks ask for, with room in its queue and its tile free, each completes:
there is a next state in which its command, with its captured operands, is the newest of its core. Which cause stands first where several
hold is the model's choice (log 26). -/
def Obligations.ArrayCommands : Prop :=
  ∀ (s : State) (k : Tok) (ks : List (BitVec 5)) (md : BitVec 3) (eb : BitVec 2) (ti : BitVec 6) (base : SCode) (kf : BitVec 8)
    (v : BitVec 10) (sp : Bool) (ofs : BitVec 13) (cm : BitVec 8),
  let l := s.me.flow.lift
  let e := tiOf s s.issue.agent ti.toNat
  let rows := rowsAddr sp base ofs s
  let axis := axisConflict (tagOfM l md) (tagOfS l base)
  let lde := Instr.lde k eb ti cm base
  let mma := Instr.mmaScratchpad k md eb ti base kf
  let mmav := Instr.mmaVector k md eb ti v kf
  let mmas := Instr.mmas k md eb ti base kf
  let mzero := Instr.mzero ks md
  let msave := Instr.msave k md sp base ofs
  let mload := Instr.mload k md sp base ofs
  let ldeTrap := (causeIf (tagOfS l base != 0) (s.cause 0x12)).orElse fun _ =>
    (causeIf (!tiOk e [1, 2] true) (s.cause 0x18)).orElse fun _ =>
    (causeIf (!arrayFmt (tiFmt e) || cutsRecord e (tiExt e 0)) (s.cause 0x0F)).orElse fun _ =>
    (padTrap (s.sc base) s).orElse fun _ =>
    ((latchCores (coreOf s.issue.agent) cm).find? fun c => !latchHeld s s.me.task.launch c eb.toNat).map fun c => s.cause 0x0A 0 (.ofNat 64 c)
  QueuesOn md mma s (mmaTrap [1, 2] (some (s.sc base)) ti kf s) k.ins (some k.out) [s.sc base] ∧
  QueuesOn md mmav s (mmaTrap [1] none ti kf s) k.ins (some k.out) [] ∧
  QueuesOn md mmas s (mmaTrap [6] (some (s.sc base)) ti kf s) k.ins (some k.out) [s.sc base] ∧
  Queues lde s ldeTrap k.ins (some k.out) [s.sc base] ∧
  QueuesOn md mzero s none ks none [] ∧
  QueuesOn md msave s (rows.2.orElse fun _ => causeIf axis (s.cause 0x12)) k.ins (some k.out) [rows.1] ∧
  QueuesOn md mload s rows.2 k.ins (some k.out) [rows.1] ∧
  (preTrap mma s = none → mmaTrap [1, 2] (some (s.sc base)) ti kf s = none → ¬QueueFull mma s → tileBusy md s = false →
    ∃ t, Sys2Proof.Machine.exec mma s = .next t ∧ Queued mma [s.sc base] s t) ∧
  (preTrap mmav s = none → mmaTrap [1] none ti kf s = none → ¬QueueFull mmav s → tileBusy md s = false →
    ∃ t, Sys2Proof.Machine.exec mmav s = .next t ∧ Queued mmav [] s t) ∧
  (preTrap mmas s = none → mmaTrap [6] (some (s.sc base)) ti kf s = none → ¬QueueFull mmas s → tileBusy md s = false →
    ∃ t, Sys2Proof.Machine.exec mmas s = .next t ∧ Queued mmas [s.sc base] s t) ∧
  (preTrap lde s = none → ldeTrap = none → ¬QueueFull lde s →
    ∃ t, Sys2Proof.Machine.exec lde s = .next t ∧ Queued lde [s.sc base] s t) ∧
  (preTrap mzero s = none → ¬QueueFull mzero s → tileBusy md s = false →
    ∃ t, Sys2Proof.Machine.exec mzero s = .next t ∧ Queued mzero [] s t) ∧
  (preTrap msave s = none → rows.2 = none → axis = false → ¬QueueFull msave s → tileBusy md s = false →
    ∃ t, Sys2Proof.Machine.exec msave s = .next t ∧ Queued msave [rows.1] s t) ∧
  (preTrap mload s = none → rows.2 = none → ¬QueueFull mload s → tileBusy md s = false →
    ∃ t, Sys2Proof.Machine.exec mload s = .next t ∧ Queued mload [rows.1] s t)

/-- R237-R239: the tree instructions check their entry, formats, level and node, then send their command. R265, R271-R273, R276, R300,
R315, R317, R384-R387: the commands of the copy engine, of the merge network, of the access processor and of the scheduler. A nonempty
release list holds a COPY as a full queue does. -/
def Obligations.TreeAndOtherCommands : Prop :=
  (∀ (s : State) (k : Tok) (p pd : BitVec 4) (lvl : BitVec 5) (node : SCode) (v : BitVec 10) (x : VCode) (ti : BitVec 6) (band : BitVec 3)
     (te : Bool),
   let n := s.sc node
   let check := fun (low : Bool) => treeTrap ti lvl low n s
   let stores := fun (low : Bool) => (check low).orElse fun _ => treeAxis x node s
   Queues (.tla k p lvl node v ti) s (check false) k.ins (some k.out) [n] ∧
   Queues (.tld k p lvl node v ti band) s (check true) k.ins (some k.out) [n] ∧
   Queues (.tsa k p lvl node x ti) s (stores false) k.ins (some k.out) [n] ∧
   Queues (.tsd k p lvl node x ti band) s (stores true) k.ins (some k.out) [n] ∧
   Queues (.tdsc k p lvl node pd ti te) s (check true) k.ins (some k.out) [n] ∧
   Queues (.tcellCommit k lvl node ti) s (check true) k.ins (some k.out) [n] ∧
   Queues (.tcellRelease k lvl node ti) s (check true) k.ins (some k.out) [n]) ∧
  (∀ (s : State) (k : Tok) (a b c : SCode) (ti tj : BitVec 6) (rm : BitVec 2) (sat : Bool) (str : BitVec 4) (v : BitVec 10) (f : BitVec 4)
     (n : BitVec 8),
   let copy := Instr.copy k a b c
   let off := fun (m : Nat) => causeIf (decide ((s.sc a).toNat % m ≠ 0)) (s.cause 0x0D 0 (s.sc a))
   let listed := releaseList (s.core (coreOf s.issue.agent)) s.issue.agent
   (listed = [] → Queues copy s (off 64) k.ins (some k.out) [s.sc a, s.sc b, s.sc c]) ∧
   (listed ≠ [] → preTrap copy s = none → (s.sc a).toNat % 64 = 0 → Blocks copy s (.queue 7)) ∧
   Queues (.rlay k ti tj a b c rm sat) s (rlayTrap (tiOf s s.issue.agent ti.toNat) (tiOf s s.issue.agent tj.toNat) (s.sc c) s) k.ins
     (some k.out) [s.sc a, s.sc b, s.sc c] ∧
   Queues (.mgset k a b) s (off 64) k.ins (some k.out) [s.sc a, s.sc b] ∧
   Queues (.mgpush k str v a b) s none k.ins (some k.out)
     [.ofNat 64 (if a = .s 0 then 64 else Nat.min (s.sc a).toNat 64), s.sc b] ∧
   Queues (.mgfin k ti a b sat) s (causeIf (!csrOk (tiOf s s.issue.agent ti.toNat) [4, 5]) (s.cause 0x18)) k.ins (some k.out) [s.sc a, s.sc b] ∧
   Queues (.astart k a b) s (off 4) k.ins (some k.out) [s.sc a, s.sc b] ∧
   Queues (.astartPost k f n) s none k.ins (some k.out) [] ∧
   Queues (.launch k a) s none k.ins (some k.out) [s.sc a] ∧
   Queues (.taskset k a b) s (off 64) k.ins (some k.out) [s.sc a, s.sc b] ∧
   Queues (.taskdec k a) s none k.ins (some k.out) [s.sc a])

/-- R411-R413, R415: SEND takes the credits of its message, or blocks until they are free; RECV takes the oldest message of its tag, or
blocks until there is one; RAMO sends its operands. -/
def Obligations.FabricCommands : Prop :=
  ∀ (s : State) (k : Tok) (link : BitVec 5) (sp d8 : Bool) (buf len cmp : SCode) (tag : BitVec 8) (aop : BitVec 4) (rd : BitVec 5),
  let send := Instr.send k link sp buf len tag
  let recv := Instr.recv k link sp buf len tag
  let ramo := Instr.ramo k aop d8 buf len cmp rd
  let n := (s.sc len).toNat / 64
  let l := linkOf s link.toNat
  let bad := linkTrap link sp (s.sc buf) (s.sc len) s
  (preTrap send s = none → ∀ x, bad = some x → Traps send s x) ∧
  (preTrap send s = none → bad = none → l.credits < n → Blocks send s (.credits link.toNat n)) ∧
  (preTrap send s = none → bad = none → n ≤ l.credits → Sends send s k.ins (some k.out) [s.sc buf, s.sc len] ∧
    ∀ t, exec send s = .next t → t.issue.status = .ok → linkOf t link.toNat = { l with credits := l.credits - n } ∧
      ∀ j, j ≠ link.toNat → linkOf t j = linkOf s j) ∧
  (preTrap recv s = none → ∀ x, bad = some x → Traps recv s x) ∧
  (preTrap recv s = none → bad = none → (l.rx.find? fun m => m.1 == tag) = none → Blocks recv s (.recv (256 * link.toNat + tag.toNat))) ∧
  (∀ m, preTrap recv s = none → bad = none → (l.rx.find? fun m => m.1 == tag) = some m →
    Sends recv s k.ins (some k.out) [s.sc buf, s.sc len, .ofNat 64 m.2.2.length] ∧
    ∀ t, exec recv s = .next t → t.issue.status = .ok → linkOf t link.toNat = { l with rx := l.rx.erase m } ∧
      ∀ j, j ≠ link.toNat → linkOf t j = linkOf s j) ∧
  Queues ramo s none k.ins (some k.out) [s.sc buf, s.sc len, s.sc cmp]

/-- R275, R276, R282, R284: STAGE never blocks. With its tokens complete it releases the next entries of the copy schedule, each a command of
its token's instance, the first one first; with none left its token completes; with an error among its tokens its own takes the error; with
a token outstanding, or with an access that a fence orders before it (R165) waiting for another unit, its command waits. -/
def Obligations.StageRelease : Prop :=
  ∀ (s : State) (k : Tok) (n : BitVec 9) (soff doff : SCode),
  let i := Instr.stage k n soff doff
  let core := coreOf s.issue.agent
  let c := s.core core
  let q := s.me.sched
  let last := Nat.min (q.scnt + n.toNat) q.slen
  let tok := fun (x : BitVec 5) => mget ({} : Token) s.me.toks x.toNat
  let frame := fun (t : State) => t.mem = s.mem ∧ t.dev = s.dev ∧ t.clusters = s.clusters ∧ t.bars = s.bars ∧ t.issue = s.issue ∧
    t.me.regs = s.me.regs ∧ t.me.flags = s.me.flags ∧ t.me.flow.records = s.me.flow.records ∧ t.me.pc = s.me.pc ∧ t.me.order = s.me.order ∧
    (∀ a, a ≠ s.issue.agent → t.ctx a = s.ctx a) ∧ (∀ n, n ≠ core → t.core n = s.core n) ∧
    (∀ x, x ≠ k.out.toNat → mget ({} : Token) t.me.toks x = mget {} s.me.toks x)
  preTrap i s = none → (waitingIn c 6).length < 2 ^ 32 →
  (∃ t, exec i s = .next t ∧ frame t) ∧
  (slotTag i s = 0 → ∀ t, exec i s = .next t →
    let new := mget ({} : Token) t.me.toks k.out.toNat
    let waits := new.pend = 1 ∧ t.me.sched = q ∧ ∃ m, (t.core core).cmds = c.cmds ++ [m] ∧ m.op = i ∧ m.aux = 0 ∧ m.caps = [s.sc soff, s.sc doff]
    let acts :=
      ((∃ x ∈ k.ins, (tok x).err = true) → new.pend = 0 ∧ new.err = true ∧ t.me.sched = q ∧
        ∃ x ∈ k.ins, (tok x).err = true ∧ new.cause = (tok x).cause ∧ new.eaddr = (tok x).eaddr) ∧
      ((∀ x ∈ k.ins, (tok x).err = false) →
        (last ≤ q.scnt → new.pend = 0 ∧ new.err = false ∧ t.me.sched = q) ∧
        (q.scnt < last → new.pend = last - q.scnt ∧ t.me.sched = { q with scnt := last } ∧ ∃ es,
          (t.core core).cmds = (c.cmds.filter fun x => x.id != s.free + 1) ++ es ∧ es.length = last - q.scnt ∧
          ∀ j, j < last - q.scnt → ∃ m, es[j]? = some m ∧ m.op = i ∧ m.aux = q.scnt + j + 1 ∧ m.out = some (k.out.toNat, s.free) ∧
            m.caps = [q.base + BitVec.ofNat 64 (128 * (q.scnt + j)), s.sc soff, s.sc doff, if j = 0 then 1 else 0]))
    new.inst = s.free ∧ ((∃ x ∈ k.ins, (tok x).pend ≠ 0) → waits) ∧
    ((∀ x ∈ k.ins, (tok x).pend = 0) → (fencedAccesses s.me.order.pend = [] → acts) ∧ (waits ∨ acts)))

/-- R110, R282, R284, R323-R325, R339, R424: CONTRACT checks its block and its operands of records, and completes: it leaves one command, whose token it produces, and the
microcode that its context runs in its next cycles. The accesses that a fence orders before it perform at its issue; that it blocks while one
of them waits for another unit is the model's choice (log 35). A bundle of the microcode blocks while the tokens that CONTRACT consumed are outstanding,
while its session opens, and while the context's own program holds the queue that the block names. An error of a consumed token ends it. Its
last bundle completes the token, and of the registers changes only the block of vectors that the control block names (what it leaves there, and
how many bundles it has, are free values, log 15); then the program goes on. -/
def Obligations.ContractResults : Prop :=
  (∀ (s : State) (k : Tok) (blk : SCode),
   let i := Instr.contract k blk
   let a := s.issue.agent
   let b := s.sc blk
   let ids := fencedAccesses s.me.order.pend
   (preTrap i s = none → tagOfS s.me.flow.lift blk ≠ 0 → Traps i s (s.cause 0x12)) ∧
   (preTrap i s = none → tagOfS s.me.flow.lift blk = 0 → b.toNat % 256 ≠ 0 → Traps i s (s.cause 0x0D 0 b)) ∧
   (preTrap i s = none → tagOfS s.me.flow.lift blk = 0 → b.toNat % 256 = 0 →
     (s.dev.microcode = false → Traps i s (s.cause 0x15 0 b)) ∧
     (s.dev.microcode = true → ∀ e, keysOf .read b (List.range 256) (afterReads i s) = .error e → exec i s = finish s e) ∧
     (s.dev.microcode = true → ∀ ks p, keysOf .read b (List.range 256) (afterReads i s) = .ok (ks, p) →
       let q := p.force a ids
       let held := ids.filter fun id => q.anyPending [id]
       let r := someStores a q
       let bs := bytesAt ks r
       let bad := numAt bs 0x58 8
       OnlyAccess s r ∧ (held ≠ [] → Blocks i s (.order held)) ∧
       (held = [] → ∀ o, blockFault r bs = some o → Traps i s (s.cause 0x15 0 (b + .ofNat 64 o))) ∧
       (held = [] → blockFault r bs = none → entriesOk bs r = false → Traps i s (s.cause 0x18)) ∧
       (held = [] → blockFault r bs = none → entriesOk bs r = true → recordsCut bs r = true → Traps i s (s.cause 0x0F)) ∧
       (held = [] → blockFault r bs = none → entriesOk bs r = true → recordsCut bs r = false →
         (ctMerge bs = true → bad % 64 ≠ 0 → Traps i s (s.cause 0x0D 0 (.ofNat 64 bad))) ∧
         (ctMerge bs = false ∨ bad % 64 = 0 → (waitingIn (r.core (coreOf a)) 6).length < 2 ^ 32 → ∃ t m n, exec i s = .next t ∧
           (t.core (coreOf a)).cmds = (r.core (coreOf a)).cmds ++ [m] ∧ m.op = i ∧ m.agent = a ∧ m.started = false ∧
           m.out = some (k.out.toNat, r.free) ∧ (m.deps = k.ins.map fun x => depOf (mget {} s.me.toks x.toNat)) ∧
           mget ({} : Token) t.me.toks k.out.toNat = { pend := 1, inst := r.free } ∧
           (∀ x, x ≠ k.out.toNat → mget ({} : Token) t.me.toks x = mget {} s.me.toks x) ∧
           t.me.flow.micro = some
             { id := m.id, blk := bs, code := mget 0 s.dev.firmware 2, left := n, here := s.issue.here, next := s.me.pc, ridx := s.me.ridx, iflat := s.me.iflat } ∧
           t.mem = r.mem ∧ t.dev = r.dev ∧ t.me.regs = s.me.regs ∧ t.me.flow.records = r.me.flow.records ∧ t.me.order = r.me.order))))) ∧
  (∀ (s : State) (a : Nat) (m : Micro) (cmd : Cmd),
   let tok := fun (k : Nat) => mget ({} : Token) (s.ctx a).toks k
   let busy := numAt m.blk 0x53 1 < 128 ∧ (programOf s a).isSome = true
   (mayStart s cmd = false → microBlock a m cmd s = some .micro) ∧
   (mayStart s cmd = true →
     (∀ e, cmd.depErr = some e → microBlock a m cmd s = none ∧
       microStep a m cmd s = endMicro a m (endCmd (coreOf a) cmd (some e) (afterFences cmd s))) ∧
     (cmd.depErr = none →
       (ctMerge m.blk = true → m.mg = none → 8 ≤ (waitingIn (s.core (coreOf a)) 4).length → microBlock a m cmd s = some (.queue 4)) ∧
       (∀ k, ctMerge m.blk = true → m.mg = some k → (tok k).pend ≠ 0 → microBlock a m cmd s = some .micro) ∧
       (ctMerge m.blk = false ∨ (∃ k, m.mg = some k ∧ (tok k).pend = 0) → (busy → microBlock a m cmd s = some .micro) ∧
         (¬busy → microBlock a m cmd s = none))))) ∧
  (∀ (s : State) (a k : Nat) (m : Micro) (cmd : Cmd),
   let t := contractRun a m cmd s
   let e := endMicro a m t
   let c := s.ctx a
   cmd.agent = a → cmd.out = some (k, (mget ({} : Token) c.toks k).inst) → (mget ({} : Token) c.toks k).pend = 1 →
   (mget ({} : Token) (t.ctx a).toks k).pend = 0 ∧ (mget ({} : Token) (t.ctx a).toks k).inst = (mget ({} : Token) c.toks k).inst ∧
   (t.ctx a).regs.s = c.regs.s ∧ (t.ctx a).regs.p = c.regs.p ∧
   (∀ n, n / 64 ≠ numAt m.blk 0x52 1 → mget 0 (t.ctx a).regs.v n = mget 0 c.regs.v n) ∧
   (e.ctx a).pc = m.next ∧ (e.ctx a).flow.micro = none ∧ (e.ctx a).regs = (t.ctx a).regs)

/-! What happens between bundles. -/

/-- R8, R56, R57, R81, R97, R114, R199: in a context cycle every count falls by one, and the results that are due land in the order of their
issue; with data late none lands. A landing writes its destination under its mask, accrues its flags, and enters its queue; of s0 and p0
only the queue and the flags remain. -/
def Obligations.ResultLandings : Prop :=
  ∀ (s : State) (a : Nat) (r : Rec),
  let c := s.ctx a
  let t := landRec s a r
  let v64 := r.val.setWidth 64
  ((∃ x ∈ c.flow.records, x.count ≤ 1 ∧ x.ready = false) → Idle (.resultLanding a) s) ∧
  ((∀ x ∈ c.flow.records, x.count ≤ 1 → x.ready = true) →
    exec (.resultLanding a) s = .next ((c.flow.records.filter fun x => x.count ≤ 1).foldl (fun u x => landRec u a x)
      (s.setCtx a { c with flow := { c.flow with
        records := (c.flow.records.filter fun x => 1 < x.count).map fun x => { x with count := x.count - 1 } } }))) ∧
  OnlyLanding a r s t ∧
  (∀ n, r.dest = .scalar n →
    (∀ k, mget 0 (t.ctx a).regs.s k = if k = n ∧ n ≠ 0 then v64 else mget 0 c.regs.s k) ∧
    (t.ctx a).regs.v = c.regs.v ∧ (t.ctx a).regs.p = c.regs.p ∧ (t.ctx a).flow.qs = (v64 :: c.flow.qs).take 16 ∧
    (t.ctx a).flow.qv = c.flow.qv ∧ t.cores = s.cores) ∧
  (∀ n q, r.dest = .vector n q →
    Merged r.mask r.val (s.vraw c n) (mget 0 (t.ctx a).regs.v n) ∧ mget 0 (t.ctx a).regs.killed n = 0 ∧
    (∀ k, k ≠ n → mget 0 (t.ctx a).regs.v k = mget 0 c.regs.v k ∧ mget 0 (t.ctx a).regs.killed k = mget 0 c.regs.killed k) ∧
    (t.ctx a).flow.qv = (if q then (mget 0 (t.ctx a).regs.v n :: c.flow.qv).take 16 else c.flow.qv) ∧
    (t.ctx a).regs.s = c.regs.s ∧ (t.ctx a).regs.p = c.regs.p ∧ (t.ctx a).flow.qs = c.flow.qs ∧ t.cores = s.cores) ∧
  (∀ n l, r.dest = .lane n l → l < 32 →
    (∀ j, j < 32 → laneOf (mget 0 (t.ctx a).regs.v n) j = if j = l then v64 else laneOf (s.vraw c n) j) ∧
    (∀ k, k ≠ n → mget 0 (t.ctx a).regs.v k = mget 0 c.regs.v k) ∧
    (t.ctx a).regs.s = c.regs.s ∧ (t.ctx a).regs.p = c.regs.p ∧ (t.ctx a).flow.qs = c.flow.qs ∧ t.cores = s.cores) ∧
  (∀ n, r.dest = .pred n →
    (∀ k, k = n → n ≠ 0 → Merged (r.mask.setWidth 256) (r.val.setWidth 256) (mget 0 c.regs.p n) (mget 0 (t.ctx a).regs.p n)) ∧
    (∀ k, k ≠ n ∨ n = 0 → mget 0 (t.ctx a).regs.p k = mget 0 c.regs.p k) ∧
    (t.ctx a).regs.s = c.regs.s ∧ (t.ctx a).regs.v = c.regs.v ∧ (t.ctx a).flow.qs = c.flow.qs ∧ (t.ctx a).flow.qv = c.flow.qv ∧
    t.cores = s.cores) ∧
  (∀ n j, r.dest = .tile n j →
    let o := s.core (coreOf a)
    let k := t.core (coreOf a)
    Merged r.mask r.val (mget 0 (mget [] o.tiles n) j) (mget 0 (mget [] k.tiles n) j) ∧
    (∀ m i, m ≠ n ∨ i ≠ j → mget 0 (mget [] k.tiles m) i = mget 0 (mget [] o.tiles m) i) ∧
    (∀ m, m < 8 → k.busy.getLsbD m = if m = n then false else o.busy.getLsbD m) ∧
    (t.ctx a).regs = c.regs ∧ (t.ctx a).flow = c.flow)

/-- R23, R99, R140, R149, R174, R193, R196, R199: what happens to an agent between its bundles. A block ends when its cause has, and not
before; a translation is answered, and a cause of it is kept for the bundle's next evaluation; a late load performs, and its data arrives; a
context of which others of its core have waited long gives way to the first ready one after it, whatever its priority; the special-function
unit takes an operation 4 cycles after the last; a fetch line is read (which one is a free value, log 11). That a word may wait for accesses
that must come first, until other units have performed them, and that the end of a link does not end the wait of a SEND or RECV, are the
model's choices (log 35, log 47). -/
def Obligations.BetweenBundles : Prop :=
  ∀ (s : State) (a core : Nat),
  let c := s.ctx a
  let k := s.core (coreOf a)
  let u := s.core core
  let ready := { c with mode := Mode.ready, waiting := 0 }
  let ends := AgentBecomes (.blockEnd a) a s ready
  let stays := Idle (.blockEnd a) s
  let line := c.pc.toNat / 64 + Config.choice s.free % 64
  (∀ f n, c.mode = .blocked (.flag f n) → (n ≤ (mget 0 c.flags f).toNat → ends) ∧ ((mget 0 c.flags f).toNat < n → stays)) ∧
  (∀ x, c.mode = .blocked (.token x) → ((mget {} c.toks x).pend = 0 → ends) ∧ ((mget {} c.toks x).pend ≠ 0 → stays)) ∧
  (∀ q, c.mode = .blocked (.aq q true) → ((mget [] k.aq q).length < 64 → ends) ∧ (64 ≤ (mget [] k.aq q).length → stays)) ∧
  (∀ q, c.mode = .blocked (.aq q false) → (mget [] k.aq q ≠ [] → ends) ∧ (mget [] k.aq q = [] → stays)) ∧
  (∀ q, c.mode = .blocked (.queue q) → q < 7 →
    ((waitingIn k q).length < unitCap q → ends) ∧ (unitCap q ≤ (waitingIn k q).length → stays)) ∧
  (c.mode = .blocked (.queue 7) → (releaseList k a = [] → (waitingIn k 3).length < 8 → ends) ∧
    (releaseList k a ≠ [] ∨ 8 ≤ (waitingIn k 3).length → stays)) ∧
  (∀ l n, c.mode = .blocked (.credits l n) → (n ≤ (linkOf s l).credits → ends) ∧ ((linkOf s l).credits < n → stays)) ∧
  (∀ l n, c.mode = .blocked (.recv (256 * l + n)) → n < 256 →
    ((∃ m ∈ (linkOf s l).rx, m.1.toNat = n) → ends) ∧ ((∀ m ∈ (linkOf s l).rx, m.1.toNat ≠ n) → stays)) ∧
  (∀ n key g, c.mode = .blocked (.bar n key g) →
    (key / 16 ∉ s.bars ∨ s.readLE (key + 8) 4 ≠ g.toNat → ends) ∧ (key / 16 ∈ s.bars → s.readLE (key + 8) 4 = g.toNat → stays)) ∧
  (∀ ids, c.mode = .blocked (.order ids) → ((∀ i ∈ ids, s.holder i = none) → ends) ∧ ((∃ i ∈ ids, s.holder i ≠ none) → stays)) ∧
  (c.mode = .blocked .sfu → (k.sfuq.length < 4 → ends) ∧ (4 ≤ k.sfuq.length → stays)) ∧
  (c.mode = .blocked .late → ((∀ r ∈ c.flow.records, r.count ≤ 1 → r.ready = true) → ends) ∧
    ((∃ r ∈ c.flow.records, r.count ≤ 1 ∧ r.ready = false) → stays)) ∧
  (c.mode = .blocked .walk ∨ c.mode = .blocked .taskend ∨ (∃ n va x, c.mode = .blocked (.trans n va x)) ∨ (∀ b, c.mode ≠ .blocked b) → stays) ∧
  (∀ n va need, c.mode = .blocked (.trans n va need) → ∃ t, exec (.translationAnswer a) s = .next t ∧
    t.ctx a = { ready with answer := match s.place a c.ctl.asid (bankOk s a) va need with
      | .cause x w => some { cause := x, slot := n, faddr := .ofNat 64 va, wr := w }
      | .at _ => c.answer | .zero => c.answer | .commit _ _ => c.answer } ∧
    t = { s with ctxs := t.ctxs, cores := t.cores } ∧ (∀ b, b ≠ a → t.ctx b = s.ctx b) ∧ ∀ n, t.core n = { s.core n with tlb := (t.core n).tlb }) ∧
  ((∀ n va need, c.mode ≠ .blocked (.trans n va need)) → Idle (.translationAnswer a) s) ∧
  (∀ id cls sc ld asid cs rec sync lur shape step starts ks,
    c.order.pend = [.access id cls sc ld asid cs (.load rec sync lur shape step starts ks)] → ∃ t, exec (.lateDataArrival a) s = .next t ∧
      (t.ctx a).order.pend = [] ∧ (t.ctx a).regs = c.regs ∧ (t.ctx a).mode = c.mode ∧ t.mem = s.mem ∧
      ((t.ctx a).flow.records = c.flow.records.map fun r =>
        if r.id = rec then { r with val := shape.value (loadAs a asid sync ks s), ready := true } else r) ∧
      ∀ b, b ≠ a → SameButRecords (s.ctx b) (t.ctx b)) ∧
  (a < 2048 → 65536 ≤ c.quantum → k.active = some (a % 4) → ∀ j, j ∈ [1, 2, 3] →
    let b := 4 * coreOf a + (a + j) % 4
    isRunnable (s.ctx b) = true → (∀ i, 0 < i → i < j → isRunnable (s.ctx (4 * coreOf a + (a + i) % 4)) = false) →
    ∃ t, exec (.quantumBlock a) s = .next t ∧ t.ctx a = { c with mode := .ready, waiting := 0, quantum := 0 } ∧
      t.ctx b = { s.ctx b with mode := .active, waiting := 0, quantum := 0 } ∧ (∀ x, x ≠ a → x ≠ b → t.ctx x = s.ctx x) ∧
      SameCode { k with active := some ((a + j) % 4), last := (a + j) % 4 } (t.core (coreOf a)) ∧
      (∀ n, n ≠ coreOf a → SameCode (s.core n) (t.core n)) ∧ ButTrace s t) ∧
  (c.quantum < 65536 → Idle (.quantumBlock a) s) ∧
  (∀ x r, u.sfuq = x :: r → (u.sfuLast = none ∨ ∃ n, u.sfuLast = some n ∧ n + 4 ≤ u.cycle) → CoreBecomes (.sfuTake core) core s
    { u with sfuq := r, sfuLast := some u.cycle, sfuPipe := u.sfuPipe ++ [(x.1, x.2, u.cycle + 16)] }) ∧
  (u.sfuq = [] ∨ (∃ n, u.sfuLast = some n ∧ u.cycle < n + 4) → Idle (.sfuTake core) s) ∧
  (∀ x, (∀ y ∈ c.lines, y.1 ≠ line) → s.place a c.ctl.asid (fun _ => false) (line * 64) .exec = .at x →
    ∃ t, exec (.instructionFetch a) s = .next t ∧ t.ctx a = { c with lines := (line, lineBytes s x) :: c.lines } ∧
      (∀ b, b ≠ a → t.ctx b = s.ctx b) ∧ (∀ n, SameCode (s.core n) (t.core n)) ∧ (∀ n, SameCluster (s.cluster n) (t.cluster n)) ∧
      t = { s with
        ctxs := t.ctxs, cores := t.cores, clusters := t.clusters, l2 := t.l2, dev := { s.dev with channels := t.dev.channels }, free := t.free })

/-- R122-R136, R144, R145, R422: the channels' calendars. A rotation starts on time 0; entries committed before it are in force; its bank is
refreshed, or postponed where open traffic holds a row of it open, at most 8 times; a commit checks every entry. A slot serves the oldest
request of its owner that may have it, and open traffic otherwise, the oldest within its budget; what a slot has read arrives later; a slot of a
dormant channel is idle. A period renews the budgets; lanes move at a handshake; a line that one cluster uses most moves to that cluster. Which
lines L2 writes back early, and when a row stays open, are free values (log 5, log 12); the times of late data are the model's choice (log 42). -/
def Obligations.CalendarEvents : Prop :=
  (∀ (s : State) (ch : Nat),
   let o := s.channel ch
   let fits := fun (r : Nat × Nat × Nat × Nat) =>
     slotOwner o ch s.dev.phase = some (coreOf r.2.1) ∧ 40 ≤ (s.time + 2 ^ 41 - r.1) % 2 ^ 41 ∧
       reserved o s.dev.phase (bankOf r.2.2.2) = false ∧ s.mayCome r.2.2.1 = true
   let eligible := fun (r : Open) => r ∈ o.opens ∧ inBudget o r = true ∧ reserved o s.dev.phase (bankOf r.pa) = false
   let age := fun (r : Open) => (s.time + 2 ^ 41 - r.born) % 2 ^ 41
   let now := o.due.filter fun d => (s.time + 2 ^ 41 - d.1) % 2 ^ 41 < 2 ^ 40
   let d := deliverDue ch s
   let p := askWriteBack ch d
   let first := match vldcOf (p.channel ch) ch p.time p.dev.phase p.mayCome with | some r => serveVldc ch r p | none => serveOpen ch p
   ((∀ r ∈ o.reqs, ¬fits r) → vldcOf o ch s.time s.dev.phase s.mayCome = none) ∧
   (∀ l r l', o.reqs = l ++ r :: l' → (∀ x ∈ l, ¬fits x) → fits r → vldcOf o ch s.time s.dev.phase s.mayCome = some r) ∧
   (∀ r, let t := serveVldc ch r s
     t.channel ch = { o with
       reqs := o.reqs.erase r, rows := o.rows.filter fun b => b ≠ bankOf r.2.2.2
       due := o.due ++ [((s.time + 101) % 2 ^ 41, r.2.2.1, .ofNat 2048 (leNat ((List.range 256).map fun j => s.channelByte (r.2.2.2 + j))))] } ∧
     (∀ c, c ≠ ch → t.channel c = s.channel c) ∧ t.mem = s.mem ∧ t.stale = s.stale) ∧
   (oldestOpen o s.time s.dev.phase = none ↔ ∀ r, ¬eligible r) ∧
   (∀ r, oldestOpen o s.time s.dev.phase = some r → eligible r ∧
     (∀ q, eligible q → age q ≤ age r ∧ (age q = age r → r.act ≤ q.act)) ∧
     let t := serveOpen ch s
     (t.channel ch).opens = o.opens.erase r ∧ (t.channel ch).reqs = o.reqs ∧ (∀ c, c ≠ ch → t.channel c = s.channel c) ∧ t.mem = s.mem ∧
     (∀ a, mget 0 (t.channel ch).used a = mget 0 o.used a + if a = r.act then 1 else 0) ∧
     (∀ b, b ≠ bankOf r.pa → (b ∈ (t.channel ch).rows ↔ b ∈ o.rows)) ∧ (r.lur = true → bankOf r.pa ∉ (t.channel ch).rows) ∧
     (∀ l k, r.line = some l → k / 128 = l → t.channelByte k = s.byte k)) ∧
   ((d.channel ch).due = o.due.filter (fun x => ¬(s.time + 2 ^ 41 - x.1) % 2 ^ 41 < 2 ^ 40) ∧ d.mem = s.mem ∧
     ∀ a, (d.ctx a).flow.records = now.foldl (fun l x => l.map fun r => if r.id = x.2.1 then { r with val := x.2.2, ready := true } else r)
       (s.ctx a).flow.records) ∧
   (p = { d with dev := p.dev, l2 := p.l2, free := p.free } ∧ p.l2.dirty = d.l2.dirty ∧ ∀ c, p.channel c = { d.channel c with opens := (p.channel c).opens }) ∧
   ((p.channel ch).dormant = true ∨ (p.channel ch).lent = true ∨ (p.channel ch).shaking = true → exec (.calendarSlot ch) s = .next p) ∧
   ((p.channel ch).dormant = false → (p.channel ch).lent = false → (p.channel ch).shaking = false →
     exec (.calendarSlot ch) s = .next (if isDoubled first ch then serveOpen ch first else first)) ∧
   (∃ t, exec .budgetPeriod s = .next t ∧ OnlyDevice s t ∧ t.dev = { s.dev with watts := t.dev.watts, channels := t.dev.channels } ∧
     t.channel ch = { o with used := [] }) ∧
   (o.shaking = true → ∃ t, exec (.laneLendingHandshake ch) s = .next t ∧ OnlyDevice s t ∧
     t.dev = { s.dev with channels := t.dev.channels } ∧ t.channel ch = { o with lent := lends s ch, shaking := false } ∧
     ∀ c, c ≠ ch → t.channel c = s.channel c) ∧
   (o.shaking = false → Idle (.laneLendingHandshake ch) s) ∧
   (ch < 256 → ∃ t, exec .calendarRotation s = .next t ∧ OnlyDevice s t ∧
     t.dev = { s.dev with
       rot := (s.dev.rot + 1) % 2 ^ 32, phase := 0, calbusy := s.dev.calbusy && !s.dev.calread, calread := false, channels := t.dev.channels } ∧
     (let p := t.channel ch
      let bank := t.dev.rot % 32
      let held := bank ∈ o.rows
      let n := mget 0 o.counts bank
      let begins := o.shaking = false ∧ lends t ch ≠ o.lent
      p = { o with
        dormant := p.dormant, lend := p.lend, budgets := p.budgets, slots := p.slots, next := none
        refresh := p.refresh, counts := p.counts, rows := p.rows, shaking := p.shaking, shakeBy := p.shakeBy } ∧
      (p.dormant, p.lend, p.budgets, p.slots) = o.next.getD (o.dormant, o.lend, o.budgets, o.slots) ∧
      (∀ b, b ≠ bank → mget 0 p.counts b = mget 0 o.counts b) ∧
      (held → n ≠ 8 → p.refresh = none ∧ mget 0 p.counts bank = n + 1 ∧ p.rows = o.rows) ∧
      (¬held ∨ n = 8 → (∃ x, x < 2 ∧ p.refresh = some (bank, x) ∧ (¬held → x = 0)) ∧ mget 0 p.counts bank = 0 ∧
        p.rows = o.rows.filter fun b => b ≠ bank) ∧
      (begins → p.shaking = true ∧ p.shakeBy = (s.dev.calat + 3000) % 2 ^ 41) ∧ (¬begins → p.shaking = o.shaking ∧ p.shakeBy = o.shakeBy))) ∧
   (s.dev.calbusy = true → s.dev.calread = false →
     (s.dev.reduced = true → DeviceBecomes .calendarCommit s { s.dev with calbusy := false }) ∧
     (s.dev.reduced = false → (∀ j, j < 256 * 1088 → s.shut (s.dev.caltbase.toNat * 128 + j) = false) →
       let entry := fun (n : Nat) => s.bytes (s.dev.caltbase.toNat * 128 + 1088 * n) 1088
       ∃ t, exec .calendarCommit s = .next t ∧ OnlyDevice s t ∧
         t.dev = { s.dev with calread := true, calerr := t.dev.calerr, channels := t.dev.channels } ∧
         (t.dev.calerr = true ↔ s.dev.calerr = true ∨ ∃ n, n < 256 ∧ calEntryOk (entry n) = false) ∧
         t.channel ch = if ch < 256 ∧ calEntryOk (entry ch) = true then { o with next := some (calEntry (entry ch)) } else o))) ∧
  (∀ (s : State) (l c n : Nat),
   let u := mget ({} : Use) s.dev.uses l
   let t := endWindow l s
   let w := mget ({} : Use) t.dev.uses l
   let run := if u.major = c + 1 then u.run + 1 else 1
   exec .migrationWindow s = .next ((s.dev.uses.map Prod.fst).foldl (fun s l => endWindow l s) s) ∧
   (t.mem = s.mem ∧ t.stale = s.stale ∧ t.ctxs = s.ctxs ∧ t.cores = s.cores ∧ w.by' = []) ∧
   ((c, n) ∈ u.by' → 8 ≤ n → (u.by'.map Prod.snd).sum < 2 * n →
     w.major = c + 1 ∧ w.run = run ∧ (run < 4 → w.away = u.away ∨ w.away = none) ∧
     (4 ≤ run → w.away.getD (homeSlice l) / 4 = c ∨ w.away = none ∧ 1024 ≤ forwardsAt t (homeSlice l))))

/-! Engine commands at work. -/

/-- R208, R281-R286, R340: a command that ends leaves its core, and clears its tile's busy bit. Its token counts it; the error kept is
that of the first erroneous command, and counts in TOKLOG; with the last one, what waits for the token goes on, in its core and in the
images of saved contexts. R140, R144, R211, R278:
the accesses of a command. A read takes the bytes at their homes, and +0 where a tile is not committed; a write sets the bytes it covers,
and no other; a live granule refuses it. That an access of a command is one step is the model's choice (log 9). -/
def Obligations.CommandEndsAndAccesses : Prop :=
  (∀ (s : State) (core : Nat) (m : Cmd) (e : Option (BitVec 8 × W64)),
   let t := endCmd core m e s
   let o := s.core core
   let c := s.ctx m.agent
   let d := t.ctx m.agent
   let rest := o.cmds.filter fun x => x.id != m.id
   coreOf m.agent = core →
   t = { s with ctxs := t.ctxs, cores := t.cores, images := t.images } ∧ (∀ a, a ≠ m.agent → t.ctx a = s.ctx a) ∧
   (∀ n, n ≠ core → t.core n = s.core n) ∧ t.core core = { o with cmds := (t.core core).cmds, busy := (t.core core).busy } ∧
   (∀ n, n < 8 → (t.core core).busy.getLsbD n =
     (o.busy.getLsbD n && !(unitOf m.op == 0 && (info m.op).tile.any fun x => x.toNat == n))) ∧
   d = { c with toks := d.toks, past := d.past, ctl := d.ctl } ∧
   (m.out = none → d = c ∧ (t.core core).cmds = rest ∧ t.images = s.images) ∧
   (∀ k n, m.out = some (k, n) →
     let x := mget ({} : Token) c.toks k
     let y := mget ({} : Token) d.toks k
     Logs k e c.ctl d.ctl ∧ (∀ j, j ≠ k → mget ({} : Token) d.toks j = mget {} c.toks j) ∧
     (x.inst ≠ n ∨ x.pend = 0 → y = x) ∧
     (x.inst = n → x.pend ≠ 0 →
       y.inst = n ∧ y.pend = x.pend - 1 ∧
       (e = none → y.err = x.err ∧ y.cause = x.cause ∧ y.eaddr = x.eaddr) ∧
       (∀ z, e = some z → y.err = true ∧ (x.err = false ∨ m.id < x.errAt → y.cause = z.1 ∧ y.eaddr = z.2) ∧
         (x.err = true → x.errAt ≤ m.id → y.cause = x.cause ∧ y.eaddr = x.eaddr)) ∧
       (x.pend ≠ 1 → (t.core core).cmds = rest ∧ t.images = s.images) ∧
       (x.pend = 1 →
         let goesOn := fun (q : Cmd) => { q with deps := q.deps.map fun w => if w = .wait n then (if y.err then .err y.cause y.eaddr else .done) else w }
         (t.core core).cmds = rest.map goesOn ∧ ∀ a, (imageOf t a).cmds = (imageOf s a).cmds.map goesOn)))) ∧
  (∀ (s r : State) (m : Cmd) (sp : Bool) (a : W64) (n : Nat) (bs : List Byte) (ks : List (Nat × Option Nat)),
   (engKeys m sp .read a n s = .ok (ks, r) →
     (∃ t, engRead m sp a n s = .ok (ks.map (fun x => match x.2 with | some k => s.byte k | none => 0), t) ∧
       t = { r with l2 := t.l2, clusters := t.clusters, dev := { r.dev with channels := t.dev.channels } } ∧
       ∀ n, SameCluster (r.cluster n) (t.cluster n)) ∧
     r = { s with cores := r.cores } ∧ (∀ x ∈ ks, ∃ o, o < n ∧ x.1 = if sp then spw + (vaAt a o) % 2 ^ 22 else vaAt a o)) ∧
   (engKeys m sp .write a bs.length s = .ok (ks, r) →
     (∀ x, liveHit ks r = some x → engWrite m sp a bs s = .error (0x0E, .ofNat 64 x)) ∧
     (liveHit ks r = none → ∃ t, engWrite m sp a bs s = .ok ((), t) ∧
       (∀ k, t.byte k = (written ((ks.zip bs).filterMap fun x => x.1.2.map fun k => (x.1.1, k, x.2)) k).getD (r.byte k)) ∧
       t.ctxs = r.ctxs ∧ (∀ n, SameCode (r.core n) (t.core n)) ∧ t.dev = { r.dev with channels := t.dev.channels } ∧ t.bars = r.bars ∧
       t.images = r.images ∧ t.issue = r.issue ∧ t.env = r.env)))

/-- R205, R206, R209, R210, R216, R218, R220-R226, R284: the array and the latches run one command each, the oldest whose tokens have completed.
A product whose formats the array refuses, or whose rows of A end inside a record (R110), ends with 0x0F; else its tile takes the product at its end, from the group at which an interrupted
one goes on. Each latch row that it reads is as at its start, as now, or as a running LDE leaves it (a free value, log 5). MZERO clears a tile,
MSAVE and MLOAD move its rows, and leave after an error each row old or new; LDE fills the latches that it names. When a command reads and
writes is the model's choice (log 9). -/
def Obligations.ArrayEvents : Prop :=
  ∀ (s : State) (core : Nat) (m : Cmd),
  let k := s.core core
  let start := Instr.arrayCommandStart core
  let complete := Instr.arrayCommandComplete core
  let p := productParts m.op
  let le := p.2.1.toNat
  let l := mget ({} : Latch) k.latches le
  let on := afterFences m (started core m s)
  let ctl := (s.ctx m.agent).ctl
  let pair := fun (y : Latch) => pairGroup s.dev.reduced (tiFmt m.ti) (tiIsRec m.ti) y.fmt y.recf.isSome
  let runs := fun (y : Latch) => (modCmd core m.id (fun x => { x with started := true, latch := some y }) (afterFences m s)).tick
  let st := m.latch.getD {}
  let z := productSize m st
  let product := fun (a : List (List Operand)) (i j : Nat) =>
    productEl (tiFmt m.ti == 10 || tiFmt m.ti == 11 || tiFmt m.ti == 12) (tiScale m.ti + st.scx) z.2 z.1 (fun q => (a.getD i []).getD q zeroOp)
      (fun q => latchOp (latchSeen core le st s) q j) (tileEl (cmdTile core p.1 m s) i j)
      ((List.range ((z.1 + z.2 - 1) / z.2)).filter fun q => m.group ≤ q)
  let ends := fun (md : BitVec 3) (c : List (List Nat) → Ctl) =>
    (∀ e, productRows m z.2 z.1 s = .error e → exec complete s = .next (endArray core m (some e) s)) ∧
    (∀ a n r, productRows m z.2 z.1 s = .ok ((a, n), r) → ∃ v q, exec complete s = .next (endArray core m none q) ∧
      OnlyTile core md m v (c n) s q ∧ ∀ i j, i < 128 → j < 128 → tileEl v i j = product a i j)
  (∀ e r, Untraced r → endArray core m e r = endCmd core (((r.core core).cmds.find? fun x => x.id == m.id).getD m) e r) ∧
  (runningIn k 0 ≠ [] ∨ nextIn s core 0 = none → Idle start s) ∧
  (runningIn k 0 = [] → nextIn s core 0 = some m →
    (∀ e, m.depErr = some e → exec start s = .next (endArray core m (some e) s)) ∧
    (m.depErr = none → isProduct m = false → exec start s = .next on) ∧
    (∀ y, m.depErr = none → isProduct m = true → m.latch = some y → exec start s = .next (runs y)) ∧
    (m.depErr = none → isProduct m = true → m.latch = none →
      ∃ y, (y = l ∨ ∃ x, writingLatch s core le = some x ∧ y = stateAfter x l s) ∧
        (pair y = none ∨ cutsRecord m.ti (productSize m y).1 = true → exec start s = .next (endArray core m (some (0x0F, 0)) s)) ∧
        (pair y ≠ none → cutsRecord m.ti (productSize m y).1 = false → exec start s = .next (runs y)))) ∧
  (∀ e y q, q < 128 → ∃ x,
    (x = y ∨ x = mget {} k.latches e ∨ ∃ c r, writingLatch s core e = some c ∧ loadLatch c s = .ok (x, r)) ∧
    mget 0 (latchSeen core e y s).rows q = mget 0 x.rows q ∧ (latchSeen core e y s).scales = y.scales) ∧
  (runningIn k 0 = [] → Idle complete s) ∧
  ((runningIn k 0).head? = some m →
    (∀ ks mt, m.op = .mzero ks mt → ∃ r, exec complete s = .next (endArray core m none r) ∧ OnlyTile core mt m [] ctl s r) ∧
    (∀ w md eb ti v kf, m.op = .mmaVector w md eb ti v kf → ends md fun _ => ctl) ∧
    (∀ w md eb ti b kf, m.op = .mmaScratchpad w md eb ti b kf → ends md fun _ => ctl) ∧
    (∀ w md eb ti b kf, m.op = .mmas w md eb ti b kf →
      ends md fun n => { ctl with msteps := .ofNat 32 (spidle n).1, midle := .ofNat 32 (spidle n).2.1 }) ∧
    (∀ w mt sp b o, m.op = .msave w mt sp b o →
      let tile := cmdTile core mt m s
      (∀ r, saveRows m sp tile (List.range 128) s = .ok ((), r) → exec complete s = .next (endArray core m none r)) ∧
      (∀ e, saveRows m sp tile (List.range 128) s = .error e → exec complete s = .next (endArray core m (some e) (savePart m sp tile s)))) ∧
    (∀ w mt sp b o, m.op = .mload w mt sp b o →
      let tile := cmdTile core mt m s
      let part := loadPart m sp tile s
      (∀ v r, loadRows m sp (List.range 128) tile s = .ok (v, r) → exec complete s = .next (endArray core m none (setCmdTile core mt m v r))) ∧
      (∀ e, loadRows m sp (List.range 128) tile s = .error e →
        exec complete s = .next (endArray core m (some e) (setCmdTile core mt m part s.tick)) ∧
        ∀ q, q < 128 → mget 0 part q = mget 0 tile q ∧ mget 0 part (q + 128) = mget 0 tile (q + 128) ∨
          ∃ v r, engReadN m sp (rowAddr m q) 512 s = .ok (v, r) ∧ mget 0 part q = .ofNat 2048 v ∧
            mget 0 part (q + 128) = .ofNat 2048 (v / 2 ^ 2048)))) ∧
  (runningIn k 1 ≠ [] ∨ nextIn s core 1 = none → Idle (.latchCommandStart core) s) ∧
  (runningIn k 1 = [] → nextIn s core 1 = some m →
    (∀ e, m.depErr = some e → exec (.latchCommandStart core) s = .next (endCmd core m (some e) s)) ∧
    (m.depErr = none → exec (.latchCommandStart core) s = .next on)) ∧
  (runningIn k 1 = [] → Idle (.ldeComplete core) s) ∧
  (∀ w eb ti cm b, (runningIn k 1).head? = some m → m.op = .lde w eb ti cm b →
    let kl := Nat.min (tiExt m.ti 0) (latchRows (tiFmt m.ti))
    let new : Latch := { fmt := tiFmt m.ti, recf := if tiIsRec m.ti then some (tiRec m.ti) else none, kl := kl, scx := tiScale m.ti }
    (∀ z, readLatch m m.ti (m.cap 0) (List.range kl) new s = .error z → EndsWithError (.ldeComplete core) core m z s s) ∧
    (∀ v r, readLatch m m.ti (m.cap 0) (List.range kl) new s = .ok (v, r) →
      ∃ t, exec (.ldeComplete core) s = .next (endCmd core m none t) ∧ t = { r with cores := t.cores } ∧
        ∀ n, t.core n = { r.core n with latches := (t.core n).latches } ∧ ∀ j, mget ({} : Latch) (t.core n).latches j =
          if n ∈ latchCores core cm ∧ j = eb.toNat then v else mget {} (r.core n).latches j))

/-- R239, R247, R249, R250, R254, R256, R284: a tree command starts when no earlier one of its forest waits; it enters the arrival queues of its
homes, of 32 commands each, after the earlier commands of its context that touch a root block of it; the first of its homes' queues performs whole
or not at all; its token completes then or later (a free value, log 5). That a command performs
in one step is the model's choice (log 9). -/
def Obligations.TreeEvents : Prop :=
  ∀ (s : State) (core : Nat) (m : Cmd),
  let k := s.core core
  let waiting := waitingIn k 2
  let all := k.cmds.filter fun x => unitOf x.op == 2
  let able := all.filter (treeReady s all)
  let tree := Instr.treeAccessPerform core
  let idles := fun (x : Cmd) => mayStart s x = false ∨ firstOfForest waiting x = false
  ((∀ x ∈ waiting, idles x) → Idle (.treeCommandStart core) s) ∧
  (∀ l l', waiting = l ++ m :: l' → (∀ x ∈ l, idles x) → ¬idles m →
    (∀ e, m.depErr = some e → exec (.treeCommandStart core) s = .next (endCmd core m (some e) s)) ∧
    (m.depErr = none → exec (.treeCommandStart core) s = .next (sendTree core m (afterFences m (started core m s))))) ∧
  (able = [] → Idle tree s) ∧
  (pickOne able s = some m →
    (m.performed = true → exec tree s = .next (endCmd core m none s)) ∧
    (m.performed = false → m.arrived = none →
      exec tree s = .next (modCmd core m.id (fun x => { x with arrived := some s.free, roots := rootKeys m s }) s).tick ∧
      (∀ u ∈ homesOf (rootKeys m s), ((woadQueue s).filter fun x => (homesOf x.roots).contains u).length < 32) ∧
      ∀ l l', all = l ++ m :: l' → (∀ x ∈ l, x.id ≠ m.id) → ∀ x ∈ l, x.agent = m.agent → share (rootKeys x s) (rootKeys m s) = true →
        x.arrived ≠ none) ∧
    (∀ n, m.performed = false → m.arrived = some n →
      (∀ r, treeAccess m s.tick = .ok ((), r) → exec tree s = .next (endCmd core m none r.tick) ∨
        exec tree s = .next (modCmd core m.id (fun x => { x with performed := true }) r).tick) ∧
      (∀ z, treeAccess m s.tick = .error z → EndsWithError tree core m z s s.tick) ∧
      ∀ x ∈ woadQueue s, share (homesOf x.roots) (homesOf m.roots) = true → n ≤ x.arrived.getD 0))

/-- R265-R270, R272, R275, R284: a copy checks its descriptor when it starts, moves its elements in order, and then arrives, posts or
decrements as CMPL says; the entries of a schedule start in order. That a copy moves its loop when it completes, that an entry of a schedule
runs from its start on and takes no place in the queue, and that RLAY waits and starts as a COPY does, are the model's choices (log 9, log 10,
log 37). -/
def Obligations.CopyEvents : Prop :=
  ∀ (s : State) (core : Nat) (m : Cmd),
  let k := s.core core
  let rc := afterFences m s
  let copy := Instr.copyCommandStart core
  let bytes := fun (d : List Byte) => BitVec.ofNat 2048 (leNat d)
  let starts := fun (i : Instr) =>
    (∀ z, engRead m false (m.cap 0) 128 rc = .error z → EndsWithError i core m z s rc) ∧
    (∀ d r, engRead m false (m.cap 0) 128 rc = .ok (d, r) →
      (∀ e, cdTrap (isEntry m) (m.cap 0) (m.cap 1) (m.cap 2) d = some e → exec i s = .next (endCmd core m (some e) r)) ∧
      (cdTrap (isEntry m) (m.cap 0) (m.cap 1) (m.cap 2) d = none →
        exec i s = .next (modCmd core m.id (fun x => { x with started := true, vecs := [bytes d] }) r)))
  let d := leBytes 128 (m.vecs.getD 0 0).toNat
  let src := BitVec.ofNat 64 (numAt d 8 8) + m.cap 1
  let dst := BitVec.ofNat 64 (numAt d 0x10 8) + m.cap 2
  (8 ≤ (runningCopies k).length ∨ nextIn s core 3 = none → Idle copy s) ∧
  ((runningCopies k).length < 8 → nextIn s core 3 = some m →
    (∀ e, m.depErr = some e → exec copy s = .next (endCmd core m (some e) s)) ∧
    (∀ w a b c, m.depErr = none → m.op = .copy w a b c → starts copy) ∧
    (∀ w ti tj a b c rm sat, m.depErr = none → m.op = .rlay w ti tj a b c rm sat →
      let bad := fun (e : BitVec 1024) (b : W64) =>
        let x := BitVec.ofNat 64 (tiBase e) + b
        if tiKind e = 1 ∧ nibble (tiFmt e) = false ∧ x.toNat % Nat.min (fmtBytes (tiFmt e)) 8 ≠ 0 then some ((0x0D : BitVec 8), x)
        else if tiPad e = true ∧ 2 ^ 22 ≤ x.toNat then some (0x0A, x) else none
      let ed := (m.vecs.getD 0 0).setWidth 1024
      (∀ z, (bad m.ti (m.cap 0)).orElse (fun _ => bad ed (m.cap 1)) = some z → exec copy s = .next (endCmd core m (some z) s)) ∧
      (bad m.ti (m.cap 0) = none → bad ed (m.cap 1) = none → exec copy s = .next (started core m rc)))) ∧
  ((k.cmds.find? fun x => (match x.op with | .stage .. => x.aux == 0 | _ => false) && mayStart s x) = none →
    (8 ≤ (runningCopies k).length ∨ nextEntry core s = none → Idle (.scheduleEntryStart core) s) ∧
    ((runningCopies k).length < 8 → nextEntry core s = some m → starts (.scheduleEntryStart core))) ∧
  ((k.cmds.find? fun x => (match x.op with | .stage .. => x.aux == 0 | _ => false) && mayStart s x) = some m →
    (∀ e, m.depErr = some e → exec (.scheduleEntryStart core) s = .next (endCmd core m (some e) s)) ∧
    (∀ w n a b, m.depErr = none → m.op = .stage w n a b →
      exec (.scheduleEntryStart core) s = .next (releaseEntries core m n.toNat (started core m s)))) ∧
  (((runningCopies k).find? fun x => x.id == m.id) = none → Idle (.copyComplete core m.id) s) ∧
  (((runningCopies k).find? fun x => x.id == m.id) = some m →
    let done := Instr.copyComplete core m.id
    (∀ w ti tj a b c rm sat, m.op = .rlay w ti tj a b c rm sat →
      let ed := (m.vecs.getD 0 0).setWidth 1024
      let width := if tiIsRec ed then 32 else 1
      let n := ((List.range (tiDim ed)).map (tiExt ed)).foldl (· * ·) 1
      (∀ r, layLoop m m.ti ed (m.cap 2) rm.toNat sat width (n / width) 0 s = (r, none) → exec done s = .next (endCmd core m none r)) ∧
      (∀ r z, layLoop m m.ti ed (m.cap 2) rm.toNat sat width (n / width) 0 s = (r, some z) → EndsWithError done core m z s r)) ∧
    ((∀ w ti tj a b c rm sat, m.op ≠ .rlay w ti tj a b c rm sat) → ∀ r z, copyLoop m d src dst (cdCount d) 0 s = (r, some z) →
      EndsWithError done core m z s r) ∧
    ((∀ w ti tj a b c rm sat, m.op ≠ .rlay w ti tj a b c rm sat) → ∀ r, Copied m d src dst (cdCount d) 0 s r →
      let post := fun (target : Nat) =>
        (∀ q, postFlag target (ctlBits d 14 4) (ctlBits d 48 16) r = .ok q → exec done s = .next (endCmd core m none q)) ∧
        (∀ c, postFlag target (ctlBits d 14 4) (ctlBits d 48 16) r = .error c → exec done s = .next (endCmd core m (some (.ofNat 8 c, 0)) r))
      let key := padKey (clusterOf m.agent) (cdArg d)
      let off := inReset r (clusterOf m.agent * 8 + cdArg d / 2 ^ 19)
      (cdCmpl d = 0 → exec done s = .next (endCmd core m none r)) ∧
      (cdCmpl d = 1 → 
        (off = true → exec done s = .next (endCmd core m (some (0x24, .ofNat 64 (cdArg d))) r)) ∧
        (off = false → bankOk r m.agent (cdArg d / 2 ^ 18) = false ∨ r.live key = false →
          exec done s = .next (endCmd core m (some (0x0A, .ofNat 64 (cdArg d))) r)) ∧
        (off = false → bankOk r m.agent (cdArg d / 2 ^ 18) = true → r.live key = true →
          exec done s = .next (endCmd core m none (arrive key (cdSize d * cdCount d) r).2))) ∧
      (cdCmpl d = 2 → post m.agent) ∧ (cdCmpl d = 3 → post (cdArg d)) ∧
      (cdCmpl d = 4 → let q := decrement m.agent (cdArg d) 1 r
        exec done s = .next (endCmd core m (q.1.map fun c => (.ofNat 8 c, 0)) q.2))))

/-- R314-R322: the merge network. An MGSET opens its session when none is open, which ends its context's other waiting MGSETs with 0x0A; entries arrive one by one: rows past the limit are
dropped, a key that the buffer holds is combined, a full buffer is first written as a run; MGFIN writes what lies inside, its record, and
closes the session. What a failed session leaves is the model's choice (log 38). -/
def Obligations.MergeEvents : Prop :=
  ∀ (s : State) (cl core : Nat) (m : Cmd) (e : Nat × Nat × Nat × Nat) (y : Session),
  let x := sessionOf s cl
  let u := s.tick
  let ru := afterFences m u
  let picked := fun (p : Cmd → Bool) => pickOne (clusterCmds cl fun c => (startable c s).filter p) s
  let mset' := Instr.mgsetOpen cl
  let push := Instr.mgpushArrival cl
  let fin := Instr.mgfinClose cl
  (x.opened = false → (waitingSets cl s).head? = some (core, m) →
    (∀ z, engRead m false (m.cap 0) 64 s = .error z → EndsWithError mset' core m z s s) ∧
    (∀ d r, engRead m false (m.cap 0) 64 s = .ok (d, r) →
      (mergeBad d = true → exec mset' s = .next (endCmd core m (some (0x0F, m.cap 0)) r)) ∧
      (mergeBad d = false → ∃ t, (let q := endCmd core m none t
         exec mset' s = .next (((waitingSets cl q).filter fun z => z.2.agent == m.agent).foldl (fun q z => endCmd z.1 z.2 (some (0x0A, 0)) q) q)) ∧ t = { r with clusters := t.clusters } ∧
        (∀ n, n ≠ cl → t.cluster n = r.cluster n) ∧ t.cluster cl = { r.cluster cl with
          merge := { opened := true, tag := (m.cap 1).setWidth 16, owner := m.agent, asid := m.asid, desc := d } }))) ∧
  (x.opened = true ∨ waitingSets cl s = [] → picked isMgset = some (core, m) →
    (∀ z, m.depErr = some z → exec mset' s = .next (endCmd core m (some z) s)) ∧
    (m.depErr = none → x.opened = true → x.owner = m.agent → exec mset' s = .next (endCmd core m (some (0x0A, 0)) u)) ∧
    (m.depErr = none → x.opened = false ∨ x.owner ≠ m.agent →
      exec mset' s = .next (modCmd core m.id (fun c => { c with started := true, aux := s.free }) (afterFences m s)).tick)) ∧
  (let q := arriveEntry m e y s
   let same := fun (h : Nat × Nat × Nat × Nat) => h.1 = e.1 ∧ h.2.1 = e.2.1 ∧ h.2.2.1 = e.2.2.1
   let joined := fun (h : Nat × Nat × Nat × Nat) =>
     if same h then (h.1, h.2.1, h.2.2.1, mergeComb (numAt y.desc 4 1) h.2.2.2 e.2.2.2) else h
   (2 ^ 28 ≤ e.1 → q = ({ y with drop := y.drop + 1 }, s)) ∧
   (e.1 < 2 ^ 28 → (∃ h ∈ y.buffer, same h) → q = ({ y with buffer := y.buffer.map joined }, s)) ∧
   (e.1 < 2 ^ 28 → (∀ h ∈ y.buffer, ¬same h) →
      (y.failed = none → y.buffer.length ≠ numAt y.desc 0 4 → q = ({ y with buffer := y.buffer ++ [e] }, s)) ∧
      (y.buffer.length = numAt y.desc 0 4 →
        let b := runBytes y.runs.length (y.buffer.mergeSort entryLe)
        (spillSize y < y.ends + b.length → q = ({ y with failed := some 0x14, faddr := 0 }, s)) ∧
        (y.ends + b.length ≤ spillSize y → y.failed = none → ∀ r,
          engWrite (asOwner y m) false (spillBase y + .ofNat 64 y.ends) b s = .ok ((), r) →
          q = ({ y with ends := y.ends + b.length, wrote := y.wrote + 1, runs := y.runs ++ [y.ends], buffer := [e] }, r))))) ∧
  (∀ w stream v cnt tag, picked isMgpush = some (core, m) → m.op = .mgpush w stream v cnt tag →
    (∀ z, m.depErr = some z → exec push s = .next (endCmd core m (some z) u)) ∧
    (m.depErr = none → tagMatches x (m.cap 1) = false → exec push s = .next (endCmd core m (some (0x0A, 0)) u)) ∧
    (m.depErr = none → tagMatches x (m.cap 1) = true →
      (∀ c, x.failed = some c → exec push s = .next (endCmd core m (some (c, x.faddr)) u)) ∧
      (x.failed = none → ∀ z r, arriveAll m (pushEntries m stream.toNat) x ru = (z, r) →
        exec push s = .next (endCmd core m (z.failed.map fun c => (c, z.faddr)) (setSession cl z r))))) ∧
  (∀ w ti tag tsk dec, picked isMgfin = some (core, m) → m.op = .mgfin w ti tag tsk dec →
    (∀ z, m.depErr = some z → exec fin s = .next (endCmd core m (some z) u)) ∧
    (m.depErr = none → tagMatches x (m.cap 0) = false → exec fin s = .next (endCmd core m (some (0x0A, 0)) u)) ∧
    (m.depErr = none → tagMatches x (m.cap 0) = true → x.failed = none → x.runs.length < 64 →
      ∀ rs r, readRuns m x x.runs ru = .ok (rs, r) →
      let ks := results (numAt x.desc 4 1) (partials (numAt x.desc 4 1) (rs ++ [x.buffer]))
      let inside := ks.filter fun k => decide (k.1 < tiExt m.ti 0) && decide (k.2.1 < tiExt m.ti 1)
      let full := decide (tiExt m.ti 2 < inside.length)
      ∀ p q, writeLists m (tiPad m.ti) (outputLists m.ti (inside.take (tiExt m.ti 2))) r = (p, none) →
        writeResult m x inside.length (x.drop + (ks.length - inside.length)) (if full then 0x0F else 0) p = (q, none) →
        let closed := setSession cl {} q
        let d := decrement m.agent (m.cap 1).toNat 1 closed
        (dec = false → exec fin s = .next (endCmd core m (if full then some (0x0F, 0) else none) closed)) ∧
        (dec = true → exec fin s = .next (endCmd core m (if full then some (0x0F, 0) else d.1.map fun c => (.ofNat 8 c, 0)) d.2))))

/-- R206, R300-R303, R326, R399: an ASTART starts, which frees its queue entry; on a free processor a suspended program goes on first, else the
oldest started ASTART begins its program, with s1 its argument and s2 its context; ASTART.post posts a flag of its context's program, running
or suspended, or ends with 0x0A, as where that program has ended, though a later one has begun. Which goes first is the model's choice (log
10). -/
def Obligations.AccessProgramEvents : Prop :=
  ∀ (s : State) (core : Nat) (m : Cmd),
  let acc := Instr.accessProgramStart core
  let k := s.core core
  let p := 2048 + core
  let waits := k.access ≠ none ∨ suspended core s = [] ∧ waitingStarts core s = []
  (∀ a id n l, k.access = none → suspended core s = (a, id, n) :: l → p ≠ n → ∃ t, exec acc s = .next t ∧ (t.core core).access = some (a, id) ∧
    (t.ctx p).regs = (s.ctx n).regs ∧ (t.ctx p).flow = (s.ctx n).flow ∧ (t.ctx p).pc = (s.ctx n).pc ∧ (t.ctx p).flags = (s.ctx n).flags ∧
    (t.ctx p).mode = (if (s.ctx n).answer.isSome then .blocked .walk else .ready) ∧ t.ctx n = {} ∧ mget none t.images a = none ∧
    (∀ b, b ≠ p → b ≠ n → t.ctx b = s.ctx b) ∧ ∀ n, n ≠ core → SameCode (s.core n) (t.core n)) ∧
  (∀ l, k.access = none → suspended core s = [] → waitingStarts core s = m :: l → ∃ t, exec acc s = .next t ∧
    t = { s with ctxs := t.ctxs, cores := t.cores } ∧ t.core core = { k with access := some (m.agent, m.id) } ∧
    t.ctx p = { mode := .ready, pc := m.cap 0, ctl := { asid := m.asid }, regs := { s := (t.ctx p).regs.s }, order := (s.ctx p).order } ∧
    (∀ n, mget 0 (t.ctx p).regs.s n = if n = 1 then m.cap 1 else if n = 2 then .ofNat 64 m.agent else 0) ∧
    (∀ b, b ≠ p → t.ctx b = s.ctx b) ∧ ∀ n, n ≠ core → t.core n = s.core n) ∧
  (∀ l w f n, waits → readyPosts core s = m :: l → m.op = .astartPost w f n →
    (programOf s m.agent = none → exec acc s = .next (endCmd core m (some (0x0A, 0)) s)) ∧
    (∀ id q, programOf s m.agent = some (id, q) → m.id ≤ id → exec acc s = .next (endCmd core m (some (0x0A, 0)) s)) ∧
    (∀ id q, programOf s m.agent = some (id, q) → id < m.id →
      let v := (mget (0 : W32) (s.ctx q).flags f.toNat).toNat + n.toNat
      ∃ t, exec acc s = .next (endCmd core m none t) ∧ t.ctx q = { s.ctx q with flags := (t.ctx q).flags } ∧
        (∀ j, mget (0 : W32) (t.ctx q).flags j = if j = f.toNat then .ofNat 32 (Nat.min v (2 ^ 32 - 1)) else mget 0 (s.ctx q).flags j) ∧
        (∀ b, b ≠ q → t.ctx b = s.ctx b) ∧ (v < 2 ^ 32 → t = { s with ctxs := t.ctxs }))) ∧
  (waits → readyPosts core s = [] →
    (((startable core s).find? fun x => isAstart x.op) = none → Idle acc s) ∧
    (((startable core s).find? fun x => isAstart x.op) = some m →
      (∀ z, m.depErr = some z → exec acc s = .next (endCmd core m (some z) s)) ∧
      (m.depErr = none → exec acc s = .next (afterFences m (started core m s)))))

/-- R164, R172, R277-R280, R290, R293-R297, R363, R377, R416: what arrives. A post adds to its flag, and stays at the limit, or is refused; an
arrival counts at its barrier word, the last one starts the next generation, and the BARA takes the old one; a TASKDEC decrements its
slot; a packet leaves for its device, which applies it or refuses it; a peer's packet is applied or refused here, and its TLBINV drops what it
names; a range counter whose fence waits for nothing is free; a FREE puts its block at the head of the list. What a peer answers is a free
value, and when its packets come an input (log 9); how a TLBINV goes between devices is the model's choice (log 48). -/
def Obligations.SignalEvents : Prop :=
  ∀ (s : State) (n : Nat) (w : List Nat) (own : Option Nat),
  let f := s.forceIds w
  let free := f.anyPending w = false
  let r := { f with dev := { f.dev with signals := f.dev.signals.eraseIdx n } }
  let ends := fun (t : State) => match own with | some id => t.arrived id | none => t
  let logged := fun (c : BitVec 8) (x : Ctx) => { x with ctl := { x.ctl with
    ecnt := if x.ctl.ecnt = 65535 then 65535 else x.ctl.ecnt + 1, lastc := c, lastr := true, lastk := 0 } }
  let answer := fun (l : List Nat) => l[Config.choice r.free % (l.length + 1)]?
  let taken := fun (l : List Packet) (t : State) => { t with env := { t.env with packets := l } }
  (∀ log a fl k, s.dev.signals[n]? = some (.flag w own log a fl k) →
    let v := (mget (0 : W32) (r.ctx a).flags fl).toNat + k
    let cause := if inReset r (coreOf a) then some (0x24 : BitVec 8) else if takesPosts r a then none else some 0x0A
    (¬free → exec (.flagPostArrival n) s = .next f) ∧
    (free → ∃ t, exec (.flagPostArrival n) s = .next (ends t) ∧
      (cause = none → (∀ j, mget (0 : W32) (t.ctx a).flags j = if j = fl then .ofNat 32 (Nat.min v (2 ^ 32 - 1)) else mget 0 (r.ctx a).flags j) ∧
        t.ctx a = { r.ctx a with flags := (t.ctx a).flags } ∧ (∀ b, b ≠ a → t.ctx b = r.ctx b) ∧ (∀ n, SameCode (r.core n) (t.core n)) ∧
        ButTrace r t ∧ (v < 2 ^ 32 → t = { r with ctxs := t.ctxs })) ∧
      (∀ c, cause = some c → log = false ∨ own.bind r.holder = none → t = r) ∧
      (∀ c x, cause = some c → log = true → own.bind r.holder = some x → OnlyAgent x r t ∧ t.ctx x = logged c (r.ctx x)))) ∧
  (∀ key u rec, s.dev.signals[n]? = some (.barrier w own key u rec) →
    let at' := fun (q : State) (o b : Nat) => q.readLE (key + o) b
    let cnt := Nat.min (at' r 4 4 + u) (2 ^ 32 - 1)
    let arr := Nat.min (at' r 14 2 + 1) 65535
    let whole := at' r 0 4 ≤ cnt ∧ at' r 12 2 ≤ arr
    let filled := fun (v : Vec) (l : List Rec) => l.map fun x => if x.id = rec then { x with val := v, ready := true } else x
    let shows := fun (v : Vec) (t : State) => ∀ b, t.ctx b = { r.ctx b with
      flow := { (r.ctx b).flow with records := filled v (r.ctx b).flow.records }
      saved := { (r.ctx b).saved with records := filled v (r.ctx b).saved.records } }
    (¬free → exec (.barrierArrival n) s = .next f) ∧
    (free → key / 16 ∉ r.bars ∨ inReset r ((key - 2 ^ 64) / 2 ^ 19) = true → ∃ t, exec (.barrierArrival n) s = .next (ends t) ∧
      shows (BitVec.ofNat 2048 (2 ^ 64 - 1)) t ∧ t = { r with ctxs := t.ctxs }) ∧
    (free → key / 16 ∈ r.bars → inReset r ((key - 2 ^ 64) / 2 ^ 19) = false → ∃ t, exec (.barrierArrival n) s = .next (ends t) ∧
      shows (BitVec.ofNat 2048 (at' r 8 4)) t ∧ at' t 0 4 = at' r 0 4 ∧ at' t 12 2 = at' r 12 2 ∧
      (whole → at' t 4 4 = 0 ∧ at' t 8 4 = (at' r 8 4 + 1) % 2 ^ 32 ∧ at' t 14 2 = 0) ∧
      (¬whole → at' t 4 4 = cnt ∧ at' t 8 4 = at' r 8 4 ∧ at' t 14 2 = arr) ∧
      (∀ k, k < key ∨ key + 16 ≤ k → t.byte k = r.byte k) ∧ t = { r with ctxs := t.ctxs, mem := t.mem, clusters := t.clusters } ∧
      ∀ c, SameCluster (r.cluster c) (t.cluster c))) ∧
  (∀ core id slot k m, s.dev.signals[n]? = some (.slot w core id slot k) → cmdOf r core id = some m → free →
    let x := mget ({} : TSlot) r.dev.slots slot
    (x.armed = false → exec (.slotDecrement n) s = .next (endCmd core m (some (0x0A, 0)) r)) ∧
    (x.armed = true → ∃ q, exec (.slotDecrement n) s = .next (endCmd core m (if x.counter.toNat < k then some (0x0F, 0) else none) q) ∧
      OnlyDevice r q ∧ q.dev = { r.dev with slots := q.dev.slots } ∧
      (∀ j, j ≠ slot → mget ({} : TSlot) q.dev.slots j = mget {} r.dev.slots j) ∧
      (k < x.counter.toNat → mget ({} : TSlot) q.dev.slots slot = { x with counter := .ofNat 32 (x.counter.toNat - k) }) ∧
      (x.counter.toNat ≤ k → mget ({} : TSlot) q.dev.slots slot =
        { x with armed := false, ready := true, counter := 0, order := r.free, maker := some (r.ctx m.agent).task.tid }))) ∧
  (∀ d v fl, s.dev.signals[n]? = some (.remote w own d v fl none) → free →
    let c := if r.reachable d then answer [0x24, 0x0A] else some 0x24
    (c = none ∨ own.bind r.holder = none → exec (.remoteSignalDelivery n) s = .next (ends r.tick)) ∧
    (∀ x z, c = some z → own.bind r.holder = some x → ∃ t, exec (.remoteSignalDelivery n) s = .next (ends t) ∧ OnlyAgent x r.tick t ∧
      t.ctx x = logged (.ofNat 8 z) (r.ctx x))) ∧
  (∀ d v fl core id m, s.dev.signals[n]? = some (.remote w none d v fl (some (core, id))) → cmdOf r core id = some m → free →
    exec (.remoteSignalDelivery n) s = .next (endCmd core m
      ((if r.reachable d then answer [0x0A, 0x0F] else some 0x24).map fun c => (.ofNat 8 c, 0)) r.tick)) ∧
  (∀ d, s.dev.signals[n]? = some (.inval own d) → exec (.remoteSignalDelivery n) s =
    .next (ends { s with dev := { s.dev with signals := s.dev.signals.eraseIdx n } })) ∧
  (s.dev.signals.length ≤ n →
    let arrives := Instr.remoteSignalDelivery n
    (s.env.packets = [] → Idle arrives s) ∧
    (∀ v fl rest, s.env.packets = .post v fl :: rest →
      let q := postFlag (v.toNat % 2 ^ 11) fl (v.toNat / 2 ^ 16 % 2 ^ 16) s
      (∀ t, q = .ok t → exec arrives s = .next (taken rest t)) ∧ (∀ c, q = .error c → exec arrives s = .next (taken rest s))) ∧
    (∀ v rest, s.env.packets = .dec v :: rest → exec arrives s =
      .next (taken rest (decrement homeAgent (v.toNat % 2 ^ 14) (v.toNat / 2 ^ 16 % 2 ^ 16) s).2)) ∧
    (∀ v base size rest, s.env.packets = .inval v base size :: rest →
      let covers := fun (a : BitVec 16) => (v.getLsbD 16 || a == v.extractLsb' 0 16) = true
      let lo := (invRegion size base).1
      let hi := (invRegion size base).2
      let meets := fun (b n : Nat) => b < hi ∧ lo < b + n
      let ids := s.ctxs.flatMap fun c => inRegion (fun a => v.getLsbD 16 || a == v.extractLsb' 0 16) lo hi c.2.order.pend
      let q := s.forceIds ids
      ((∃ i ∈ ids, q.anyPending [i] = true) → exec arrives s = .next q) ∧
      ((∀ i ∈ ids, q.anyPending [i] = false) → ∃ t, exec arrives s = .next t ∧ t.env = { q.env with packets := rest } ∧ t.mem = q.mem ∧ t.dev = q.dev ∧
        (∀ n, ∀ x ∈ (t.core n).tlb, ¬(covers x.asid ∧ meets x.base (2 ^ x.bits))) ∧
        (∀ n, n < 64 → ∀ x ∈ (t.cluster n).l1, ¬(covers x.asid ∧ meets (x.vline * 128) 128)))) ∧
    (∀ d on rest, s.env.packets = .reset d on :: rest → ∃ t, exec arrives s = .next t ∧
      t = { s with env := { s.env with packets := rest, resets := t.env.resets } } ∧ (d ∈ t.env.resets ↔ on = true) ∧
      ∀ e, e ≠ d → (e ∈ t.env.resets ↔ e ∈ s.env.resets))) ∧
  (∀ core, core < 512 → let mine := [4 * core, 4 * core + 1, 4 * core + 2, 4 * core + 3, 2048 + core]
    ∃ t, exec (.rangeCounterRelease core) s = .next t ∧ t = { s with ctxs := t.ctxs, cores := t.cores } ∧
      (∀ a, t.ctx a = { s.ctx a with order := (t.ctx a).order }) ∧ (∀ a, a ∉ mine → t.ctx a = s.ctx a) ∧
      (∀ a ∈ mine, ∀ l sc u l', (t.ctx a).order.pend = l ++ .fenceR sc u true :: l' →
        ∃ p ∈ l, ∃ id e, p.earlier = some (id, e) ∧ (Pend.fenceR sc u true).covers e = true) ∧
      (∀ a, (t.ctx a).order.pend.filterMap Pend.sid = (s.ctx a).order.pend.filterMap Pend.sid) ∧
      (∀ j, j ≠ core → t.core j = s.core j) ∧ t.core core = { s.core core with counters := (t.core core).counters }) ∧
  (∀ a x, (s.dev.frees.find? fun x => x.agent == a) = some x → 32 ≤ x.desc.length → x.block.length = 8 →
    let p := s.forceIds x.waits
    let r := { p with dev := { p.dev with frees := p.dev.frees.erase x } }
    let at' := fun (q : State) (ks : List Nat) => leNat (ks.map q.byte)
    let head := (x.desc.drop 16).take 8
    let count := (x.desc.drop 24).take 8
    (p.anyPending x.waits = true → exec (.freeApply a) s = .next p) ∧
    (p.anyPending x.waits = false → (x.desc ++ x.block).Nodup → ∃ t, exec (.freeApply a) s = .next (t.arrived x.own) ∧
      at' t head = x.blockVA.toNat ∧ at' t x.block = at' r head ∧ at' t count = (at' r count + 1) % 2 ^ 64 ∧
      (∀ k, k ∉ head ++ count ++ x.block → t.byte k = r.byte k) ∧ (∀ n, SameCode (r.core n) (t.core n)) ∧
      t = { r with
        mem := t.mem, stale := t.stale, l2 := t.l2, clusters := t.clusters, cores := t.cores
        dev := { r.dev with channels := t.dev.channels, uses := t.dev.uses } }))

/-- R408-R415: a message of a core stands in the peer's queue as it was read, a peer's in this device's, and credits return as the peer
takes flits; a RECV writes its message, and ends with 0x0F when the lengths differ, else 0x24 when the message has its error mark; a RAMO
performs its operation at the home and writes its register; host memory refuses it. A peer's message waits for room in the queue of 2,048
flits. A write from outside reaches the bytes of device memory whose channel is open, and where they are those of a scalar in the image of a
saved or stopped context, that scalar (R400, R402); a read changes nothing there. R130: the traffic of either is open traffic. R419: before
reduced service a read gives zeros. That a message is read and written as a whole, which error a RECV keeps, what a link that has gone down
or is trained again keeps, where a scalar stands in an image, and that a write before reduced service is not taken, are the model's choices
(log 9, log 39, log 47, log 19, log 3). -/
def Obligations.FabricEvents : Prop :=
  ∀ (s : State) (core link flits pa : Nat) (m : Cmd) (data : List Byte),
  let u := s.tick
  let ru := afterFences m u
  let send := Instr.messageArrival core
  let recv := Instr.recvComplete core
  let ramo := Instr.ramoRemoteOperation core
  let l := linkOf s link
  let only := fun (t : State) (x : Link) => OnlyDevice s t ∧ t.dev = { s.dev with links := t.dev.links } ∧ linkOf t link = x ∧
    ∀ j, j ≠ link → linkOf t j = linkOf s j
  let linked := fun (i : Instr) (x : Link) => ∃ t, exec i s = .next t ∧ only t x
  let fits := fun (m : Nat × BitVec 8 × Bool × List Byte) => (s.env.msgs.find? fun x => x.1 == m.1) = some m ∧
    ((linkOf s m.1).up = false ∨ rxFlits m.1 s + m.2.2.2.length / 64 ≤ 2048)
  linked (.creditReturn link flits) { l with
    credits := Nat.min 2048 (l.credits + Nat.min flits (l.sent.map fun m => m.2.2.length / 64).sum), sent := drainFlits flits l.sent } ∧
  linked (.linkTrained link) { l with up := true, credits := 2048, sent := [] } ∧
  linked (.linkDown link) { l with up := false } ∧
  (∀ w lk sp b n tag, pickOne (sendable core s) s = some m → m.op = .send w lk sp b n tag →
    let v := (m.cap 1).toNat / 64
    let q := linkOf s lk.toNat
    let leaves := fun (r t : State) (x : Link) => t.dev = { r.dev with links := t.dev.links } ∧ OnlyDevice r t ∧ linkOf t lk.toNat = x ∧
      ∀ j, j ≠ lk.toNat → linkOf t j = linkOf r j
    (∀ z, m.depErr = some z → ∃ t, exec send s = .next (endCmd core m (some z) t) ∧ leaves u t { q with credits := Nat.min 2048 (q.credits + v) }) ∧
    (m.depErr = none → q.up = false → exec send s = .next (endCmd core m (some (0x24, 0)) u)) ∧
    (m.depErr = none → q.up = true → ∀ bs r z, readFlits m sp v (m.cap 0) ru = (bs, r, z) →
      let p := { q with sent := q.sent ++ [(tag, z.isSome, bs)] }
      (z = none → ∃ t, exec send s = .next (endCmd core m none t) ∧ leaves r t p) ∧
      (∀ c a, z = some (c, a) → ∃ t, exec send s = .next (endCmd core m (some (c, a)) t) ∧ leaves r t p))) ∧
  (∀ l0 x l1, sendable core s = [] → s.env.msgs = l0 ++ (link, x) :: l1 → (∀ y ∈ l0, ¬fits y) → fits (link, x) → ∃ t, exec send s = .next t ∧
    t = { s with env := { s.env with msgs := l0 ++ l1 }, dev := t.dev } ∧ t.dev = { s.dev with links := t.dev.links } ∧
    linkOf t link = (if l.up then { l with rx := l.rx ++ [x] } else l) ∧ (l.up = true → rxFlits link t ≤ 2048) ∧
    ∀ j, j ≠ link → linkOf t j = linkOf s j) ∧
  (sendable core s = [] → (∀ y ∈ s.env.msgs, ¬fits y) → Idle send s) ∧
  (∀ w lk sp b n tag, pickOne (receivable core s) s = some m → m.op = .recv w lk sp b n tag →
    let n := Nat.min (m.cap 2).toNat (m.cap 1).toNat
    (∀ z, m.depErr = some z → exec recv s = .next (endCmd core m (some z) u)) ∧
    (m.depErr = none → ∀ r z, writeFlits m sp (n / 64) (m.cap 0) (unpackBytes n m.vecs) ru = (r, z) →
      (∀ y, z = some y → EndsWithError recv core m y s r) ∧
      (z = none → m.cap 2 ≠ m.cap 1 → exec recv s = .next (endCmd core m (some (0x0F, 0)) r)) ∧
      (z = none → m.cap 2 = m.cap 1 → m.aux = 1 → exec recv s = .next (endCmd core m (some (0x24, 0)) r)) ∧
      (z = none → m.cap 2 = m.cap 1 → m.aux ≠ 1 → exec recv s = .next (endCmd core m none r)))) ∧
  (receivable core s = [] → Idle recv s) ∧
  (∀ w op d8 b x c rd, pickOne (ramoReady core s) s = some m → m.op = .ramo w op d8 b x c rd →
    let n := if d8 then 8 else 4
    (∀ z, m.depErr = some z → exec ramo s = .next (endCmd core m (some z) u)) ∧
    (m.depErr = none → (m.cap 0).toNat % n ≠ 0 → exec ramo s = .next (endCmd core m (some (0x0D, m.cap 0)) u)) ∧
    (m.depErr = none → (m.cap 0).toNat % n = 0 →
      (∀ z, engKeys m false .both (m.cap 0) n ru = .error z → EndsWithError ramo core m z s ru) ∧
      (∀ ks r, engKeys m false .both (m.cap 0) n ru = .ok (ks, r) →
        let far := fun (k : Nat) => 2 ^ 66 ≤ k ∧ r.reachable ((k - 2 ^ 66) / 2 ^ 46) = false
        ((∃ y ∈ ks, ∃ k, y.2 = some k ∧ 2 ^ 65 ≤ k ∧ k < 2 ^ 66) → exec ramo s = .next (endCmd core m (some (0x0A, m.cap 0)) r)) ∧
        ((∀ y ∈ ks, ∀ k, y.2 = some k → k < 2 ^ 65 ∨ 2 ^ 66 ≤ k) → (∃ y ∈ ks, ∃ k, y.2 = some k ∧ far k) →
          exec ramo s = .next (endCmd core m (some (0x24, m.cap 0)) r)) ∧
        ((∀ y ∈ ks, ∀ k, y.2 = some k → (k < 2 ^ 65 ∨ 2 ^ 66 ≤ k) ∧ ¬far k) →
          let old := leNat (bytesAt ks r)
          let new := amoVal op.toNat n old (m.cap 1).toNat (m.cap 2).toNat
          ∃ t, exec ramo s = .next (endCmd core m none t) ∧
            (isFrozen r m.agent = false → ∀ k, t.byte k = ((new.bind fun v => written (cellsAt ks v) k)).getD (r.byte k)) ∧
            (m.aux = 0 → ∀ j, mget 0 (t.ctx m.agent).regs.s j =
              if j = m.dst ∧ m.dst ≠ 0 then .ofNat 64 old else mget 0 (r.ctx m.agent).regs.s j) ∧
            (∀ j, m.aux = j + 1 → j < 32 → laneOf (mget 0 (t.ctx m.agent).regs.v m.dst) j = .ofNat 64 old) ∧
            t.ctx m.agent = { r.ctx m.agent with regs := (t.ctx m.agent).regs } ∧ (∀ a, a ≠ m.agent → t.ctx a = r.ctx a) ∧
            (∀ n, SameCode (r.core n) (t.core n)) ∧ t.dev = { r.dev with channels := t.dev.channels, uses := t.dev.uses } ∧
            t.bars = r.bars)))) ∧
  (∀ i, i ∈ [Instr.hostAccess pa true data, Instr.inboundFabricAccess pa true data] →
    (s.dev.boot ≠ 0 → Idle i s) ∧
    (s.dev.boot = 0 → ∃ t, exec i s = .next t ∧
      (∀ k, t.byte k = if pa ≤ k ∧ k < pa + data.length ∧ s.shut k = false then data.getD (k - pa) 0 else s.byte k) ∧
      (∀ n, SameCode (s.core n) (t.core n)) ∧ (∀ a, isFrozen s a = false ∨ 2048 ≤ a → t.ctx a = s.ctx a) ∧
      (∀ a n, isFrozen s a = true → a < 2048 → n < 31 → imageArea t a ≠ 0 → pa = imageArea t a + 4096 + 8 * n → data.length = 8 →
        (∀ j, j < 8 → s.shut (pa + j) = false) → (mget 0 (t.ctx a).regs.s (n + 1)).toNat = leNat data) ∧
      t = { s with
        ctxs := t.ctxs, mem := t.mem, stale := t.stale, l2 := t.l2, clusters := t.clusters, cores := t.cores
        dev := { s.dev with channels := t.dev.channels } })) ∧
  (∀ i, i ∈ [Instr.hostAccess pa false data, Instr.inboundFabricAccess pa false data] → ∃ t, exec i s = .next t ∧
    t = { s with l2 := t.l2, dev := { s.dev with channels := t.dev.channels }, env := { s.env with answer := t.env.answer } } ∧
    t.env.answer = (List.range data.length).map fun j => if s.dev.boot ≠ 0 ∨ s.shut (pa + j) = true then 0 else s.byte (pa + j))

/-! Launches and tasks. -/

/-- R261, R366, R371, R376, R382, R383: the launch ring. An entry that the host has submitted is read, and its launch waits; a bad record
is refused with its cause; a launch whose contexts and banks are free takes them, with its queues and its first entries; one of which
nothing is left gives them back and tells its submission so. The order of the checks is the model's choice (log 40). -/
def Obligations.LaunchEvents : Prop :=
  ∀ (s : State) (v : W64) (l : Launch),
  let k := s.dev.lqbase.toNat * 2 ^ 12 + 32 * s.dev.lqhead.toNat
  let without := s.dev.launches.filter fun x => x.id != l.id
  let oldest := if s.dev.switching = true ∨ s.dev.boot ≠ 0 then none else s.dev.launches.find? fun x => !x.admitted
  DeviceBecomes (.lqtailWrite v) s { s.dev with lqtail := v.extractLsb' 0 7 } ∧
  (v.extractLsb' 12 34 = s.dev.lqbase → v.extractLsb' 0 3 = s.dev.lqlog2 → Idle (.launchQueueReset v) s) ∧
  (v.extractLsb' 12 34 ≠ s.dev.lqbase ∨ v.extractLsb' 0 3 ≠ s.dev.lqlog2 → ∃ t, exec (.launchQueueReset v) s = .next t ∧
    t.dev = { s.dev with
      lqbase := v.extractLsb' 12 34, lqlog2 := v.extractLsb' 0 3, lqhead := 0, lqtail := 0, channels := t.dev.channels } ∧
    (∀ n, n < 64 → (t.cluster n).trace.opened = false) ∧ (∀ n, SameCode (s.core n) (t.core n)) ∧
    t = { s with mem := t.mem, stale := t.stale, l2 := t.l2, clusters := t.clusters, cores := t.cores, dev := t.dev } ∧ (Untraced s → t.mem = s.mem)) ∧
  (ringCount s.dev = 0 ∨ s.dev.boot ≠ 0 → Idle .ringEntryRead s) ∧
  (ringCount s.dev ≠ 0 → s.dev.boot = 0 → s.shut k = false → DeviceBecomes .ringEntryRead s { s.dev with
    lqhead := .ofNat 7 ((s.dev.lqhead.toNat + 1) % 2 ^ s.dev.lqlog2.toNat), nextLaunch := s.dev.nextLaunch + 1
    launches := s.dev.launches ++ [{ id := s.dev.nextLaunch, recAddr := .ofNat 64 (s.readLE k 8), done := .ofNat 64 (s.readLE (k + 8) 8)
                                     asid := .ofNat 16 (s.readLE (k + 16) 2), bad := decide (s.readLE (k + 18) 14 ≠ 0) }] }) ∧
  (oldest = none → Idle .launchAdmission s) ∧
  (∀ c x, oldest = some l → readRecord l s = .error (c, x) →
    (∀ core id m, l.cmd = some (core, id) → cmdOf s core id = some m →
      exec .launchAdmission s = .next (endCmd core m (some (c, l.recAddr)) { s with dev := { s.dev with launches := without } })) ∧
    (l.cmd = none → l.done = 0 → DeviceBecomes .launchAdmission s { s.dev with launches := without }) ∧
    (l.cmd = none → l.done ≠ 0 → ∀ t, engWrite (schedCmd l.asid) false l.done (leBytes 8 (0x100 + c.toNat))
      { s with dev := { s.dev with launches := without } } = .ok ((), t) → exec .launchAdmission s = .next t)) ∧
  (∀ r t, oldest = some l → readRecord l s = .ok (r, t) →
    (unclaimed r s = false → Idle .launchAdmission s) ∧
    (unclaimed r s = true → r.cmap.length = 2048 → s.dev.launches = [l] → ∃ q, exec .launchAdmission s = .next q ∧
      (∀ a, a < 2048 →
        let w := r.cmap.getD a 0
        q.ctx a = if cmWin w = 0 then s.ctx a else { s.ctx a with
          flags := []
          allot := { window := 64 * cmWin w, tiles := .ofNat 8 (cmTiles w), latches := .ofNat 4 (cmLatch w), queues := .ofNat 4 (cmQueues w)
                     stages := .ofNat 16 (cmStages w), launch := some l.id } }) ∧
      (∀ cl b, cl < 64 → b < 16 → mget 0 (q.cluster cl).banks b =
        if smapMode r.smap cl b = 0 then mget 0 (s.cluster cl).banks b else smapMode r.smap cl b + 4 * l.id) ∧
      ∃ p, q.dev = { s.dev with launches := [p], channels := q.dev.channels } ∧ p = { l with hdr := r.hdr, admitted := true, cmap := p.cmap, stages := p.stages } ∧
        p.stages.length = r.stages.length ∧ (r.init = [] → q.mem = t.mem) ∧ ∀ j, j < r.stages.length → (stageOf p j).desc = r.stages.getD j [] ∧
          (stageOf p j).reruns = [] ∧ ((stageOf p j).queue.map QEntry.words = r.init.filter fun e => entryStage e == j) ∧
          ((stageOf p j).queue.map QEntry.place).Nodup)) ∧
  (findLaunch s l.id = some l → launchDone l s = false → Idle (.launchCompletion l.id) s) ∧
  (findLaunch s l.id = some l → launchDone l s = true → ∃ r,
    (∀ x ∈ s.ctxs, x.2.allot.launch = some l.id → r.ctx x.1 = { s.ctx x.1 with allot := {} }) ∧
    (∀ a, (∀ x ∈ s.ctxs, x.1 = a → x.2.allot.launch ≠ some l.id) → r.ctx a = s.ctx a) ∧
    (∀ n, (r.cluster n).banks = (s.cluster n).banks.filter fun b => b.2 / 4 != l.id) ∧
    r = { s with ctxs := r.ctxs, clusters := r.clusters, dev := { s.dev with launches := without } } ∧
    (∀ core id m, l.cmd = some (core, id) → cmdOf s core id = some m → exec (.launchCompletion l.id) s = .next (endCmd core m none r)) ∧
    (l.cmd = none → l.done = 0 → exec (.launchCompletion l.id) s = .next r) ∧
    (l.cmd = none → l.done ≠ 0 → ∀ t, engWrite (schedCmd l.asid) false l.done (leBytes 8 1) r = .ok ((), t) →
      exec (.launchCompletion l.id) s = .next t))

/-- R206, R377, R384-R387: the task commands of a core. LAUNCH submits its record; TASKSET arms a free slot, or enqueues its entry where
there is room, and waits where there is none; TASKDEC sends its decrement. A ready slot's entry joins its stage's queue in the order in
which the slots came to 0. R370, R372: an entry stands in the storage of its queue. The order of slots of different stages, and the place of
an entry in that storage, are the model's choices (log 41). -/
def Obligations.TaskCommandEvents : Prop :=
  ∀ (s : State) (core slot : Nat) (m : Cmd) (l : Launch),
  let e := Instr.tasksetArm core
  let next := waitingSet s core = none ∧ nextIn s core 5 = some m
  let x := mget ({} : TSlot) s.dev.slots slot
  let forced := afterFences m s
  let v := m.cap 1
  let d := m.cap 0
  (waitingSet s core = none → nextIn s core 5 = none → Idle e s) ∧
  (next → ∀ z, m.depErr = some z → exec e s = .next (endCmd core m (some z) s)) ∧
  (∀ w a, next → m.depErr = none → m.op = .launch w a → exec e s = .next (submit
    { recAddr := m.cap 0, asid := m.asid, cmd := some (core, m.id) } (started core m forced))) ∧
  (∀ w a b, next → m.depErr = none → m.op = .taskset w a b →
    (tasksetOk v = false → exec e s = .next (endCmd core m (some (0x0F, 0)) forced)) ∧
    (tasksetOk v = true →
      (∀ z, engRead m false (m.cap 0) 64 forced = .error z → EndsWithError e core m z s forced) ∧
      (∀ bs r, engRead m false (m.cap 0) 64 forced = .ok (bs, r) → findLaunch r (r.ctx m.agent).task.launch = some l →
        let ws := entryWords bs
        let y := mget ({} : TSlot) r.dev.slots (v.toNat % 2 ^ 14)
        (entryOk l.stages.length ws = false → exec e s = .next (endCmd core m (some (0x0F, m.cap 0)) r)) ∧
        (entryOk l.stages.length ws = true → v.getLsbD 15 = false →
          (y.armed = true ∨ y.ready = true → ∃ t, exec e s = .next (endCmd core m (some (0x0A, 0)) t) ∧ ButTrace r t ∧ t.ctxs = r.ctxs) ∧
          (y.armed = false → y.ready = false → ∃ t, exec e s = .next (endCmd core m none t) ∧ OnlyDevice r t ∧
            t.dev = { r.dev with slots := t.dev.slots } ∧ (∀ j, j ≠ v.toNat % 2 ^ 14 → mget {} t.dev.slots j = mget {} r.dev.slots j) ∧
            mget ({} : TSlot) t.dev.slots (v.toNat % 2 ^ 14) =
              { armed := true, counter := .ofNat 32 (v.toNat / 2 ^ 16 % 2 ^ 32), entry := ws, launch := l.id })) ∧
        (entryOk l.stages.length ws = true → v.getLsbD 15 = true →
          (hasRoom l (entryStage ws) = true → exec e s = .next (endCmd core m none (enqueue l.id ws (some (r.ctx m.agent).task.tid) r))) ∧
          (hasRoom l (entryStage ws) = false → ∃ t, exec e s = .next
            (modCmd core m.id (fun c => { c with started := true, caps := [m.cap 0, v] ++ ws }) t) ∧ ButTrace r t ∧ t.ctxs = r.ctxs))))) ∧
  (waitingSet s core = some (m, l) → v.getLsbD 15 = true → hasRoom l (entryStage (m.caps.drop 2)) = true →
    exec e s = .next (endCmd core m none (enqueue l.id (m.caps.drop 2) (some (s.ctx m.agent).task.tid) s))) ∧
  (∀ w a, next → m.depErr = none → m.op = .taskdec w a →
    let sends := fun (g : Signal) => ∃ t, exec e s = .next t ∧ t = { started core m s with dev := t.dev } ∧
      t.dev = { s.dev with signals := s.dev.signals ++ [g] }
    (taskdecBad d = true → exec e s = .next (endCmd core m (some (0x0F, 0)) s)) ∧
    (taskdecBad d = false → d.getLsbD 50 = true → d.toNat / 2 ^ 32 % 2 ^ 18 ≠ s.dev.devno.toNat →
      sends (.remote m.waits none (d.toNat / 2 ^ 32 % 2 ^ 18) d 0 (some (core, m.id)))) ∧
    (taskdecBad d = false → d.getLsbD 50 = false ∨ d.toNat / 2 ^ 32 % 2 ^ 18 = s.dev.devno.toNat →
      sends (.slot m.waits core m.id (d.toNat % 2 ^ 14) (d.toNat / 2 ^ 16 % 2 ^ 16)))) ∧
  (findLaunch s x.launch = some l →
    let before := ∃ y ∈ s.dev.slots, y.2.ready = true ∧ y.2.launch = x.launch ∧ entryStage y.2.entry = entryStage x.entry ∧
      y.2.order < x.order
    (x.ready = false ∨ before ∨ hasRoom l (entryStage x.entry) = false → Idle (.slotEnqueue slot) s) ∧
    (x.ready = true → ¬before → hasRoom l (entryStage x.entry) = true → exec (.slotEnqueue slot) s =
      .next (enqueue x.launch x.entry x.maker { s with dev := { s.dev with slots := mset {} s.dev.slots slot {} } }))) ∧
  (∀ ws maker, findLaunch s l.id = some l → entryStage ws < l.stages.length → s.dev.launches = [l] →
    let q := entryStage ws
    ∃ p u k, u.dev = { s.dev with launches := [p] } ∧ OnlyDevice s u ∧ (∀ x ∈ (stageOf l q).queue, x.place ≠ k) ∧ k ≤ (stageOf l q).queue.length ∧
      p.stages.length = l.stages.length ∧ (∀ j, j < l.stages.length → (stageOf p j).reruns = (stageOf l j).reruns ∧
        (stageOf p j).desc = (stageOf l j).desc ∧ (stageOf p j).queue =
          if j = q then (stageOf l j).queue ++ [{ words := ws, order := s.free, maker := maker, place := k }] else (stageOf l j).queue) ∧
      (let store := engWrite (schedCmd l.asid) false (sdQbase (stageOf l q).desc + .ofNat 64 (64 * k)) (ws.flatMap fun x => leBytes 8 x.toNat) u
       (∀ z, store = .error z → enqueue l.id ws maker s = u) ∧
       (∀ t, store = .ok ((), t) → ∃ p', enqueue l.id ws maker s = { t with dev := { t.dev with launches := [p'] } } ∧
         p'.stages.length = p.stages.length ∧ ∀ j, j < p.stages.length → stageOf p' j = { stageOf p j with held := (stageOf p' j).held })))

/-- R63-R65, R212, R262, R373-R375, R378, R397, R398, R438: a task starts. The entry that the scheduler chooses leaves its queue for a
free context, or for the core's staging place; the context's fills then run in order: its registers, its table, its bank; a fault of a
fill is a trap of the task. What the host chooses, registers that no rule names at task start, when a task is staged, and the number under
which a saved task is kept, are the model's choices (log 22, log 40, log 41, log 19). -/
def Obligations.TaskStartEvents : Prop :=
  ∀ (s : State) (a core : Nat) (l : Launch) (q j : Nat) (e : QEntry),
  let c := s.ctx a
  let d := (stageOf l q).desc
  let at' := descOf s c.task
  let m : Cmd := { id := 0, agent := a, op := .nopX, asid := c.ctl.asid }
  let start := Instr.taskStart a
  let begun := fun (bank : Option Nat) (fills : Nat) (tid : Nat) (bad : Option Trap) =>
    ({ mode := .starting, pc := sdProg d, ctl := startCtl l d q e c.armed, flags := c.flags, allot := c.allot, dir := 1
       task := { tid := tid, wid := e.words.getD 0 0, launch := l.id, stage := q, entry := e, fills := fills }
       sched := { base := sdSched d, slen := sdSlen d, tbv := bank.isSome, tbank := bank.getD 0 }, answer := bad } : Ctx)
  let others := fun (t : State) => ∀ b, b ≠ a → t.ctx b = s.ctx b
  (mayTake s a = false → Idle (.taskDispatch a) s) ∧
  (mayTake s a = true → stagedFor s a = none → c.allot.launch.bind (findLaunch s) = some l → chooseFor s l a = some (q, j) →
    (readyQueue (stageOf l q))[j]? = some e → e.image = none → c.noArea = false → s.dev.launches = [l] →
    ∃ t bank, exec (.taskDispatch a) s = .next t ∧ others t ∧
      t.ctx a = begun bank (if sdSplen d = 0 then 6 else 7) (t.ctx a).task.tid none ∧
      (sdSplen d = 0 → bank = none) ∧ (∀ b, bank = some b → mget none (t.cluster (clusterOf a)).holders b = some a) ∧
      (∃ p, t.dev.launches = [p] ∧ readyQueue (stageOf p q) = (readyQueue (stageOf l q)).eraseIdx j ∧
        ∀ x, x ≠ q → readyQueue (stageOf p x) = readyQueue (stageOf l x)) ∧
      boundTo t l.id (keyOfEntry l e) ≠ none ∧ (∀ n, SameCode (s.core n) (t.core n)) ∧ (Untraced s → DirectoryOnly a 1 s t)) ∧
  (∀ b f, mayTake s a = true → stagedFor s a = some (l, ⟨l.id, q, e, b, f⟩) → e.image = none → c.noArea = false →
    ∃ t, exec (.taskDispatch a) s = .next t ∧ others t ∧
      t.ctx a = begun b (if sdSplen d = 0 ∨ f = none then 6 else 7) (t.ctx a).task.tid (f.map fun x => { cause := x.1, faddr := x.2 }) ∧
      (t.core (coreOf a)).staged = none ∧ t.dev = s.dev ∧ DirectoryOnly a 1 s t) ∧
  (∀ n, mayTake s a = true → stagedFor s a = none → c.allot.launch.bind (findLaunch s) = some l → chooseFor s l a = some (q, j) →
    (readyQueue (stageOf l q))[j]? = some e → e.image = some n → 4096 ≤ n →
    ∃ t, exec (.taskDispatch a) s = .next t ∧ (t.ctx a).mode = (s.ctx n).mode ∧ (t.ctx a).answered = some 0 ∧
      (t.ctx a).regs = (s.ctx n).regs ∧ (t.ctx a).toks = (s.ctx n).toks ∧ (t.ctx a).pc = (s.ctx n).pc ∧
      (t.ctx a).flow = (s.ctx n).flow ∧ (t.ctx a).allot = c.allot ∧ t.ctx n = {} ∧ (∀ b, b ≠ a → b ≠ n → t.ctx b = s.ctx b) ∧
      (imageOf t a).prog = (imageOf s n).prog ∧ (imageOf t a).cmds = (imageOf s n).cmds.map fun x => { x with agent := a }) ∧
  (c.mode ≠ .starting → Idle start s) ∧
  (c.mode = .starting → c.task.fills = 0 → AgentBecomes start a s { c with mode := .ready }) ∧
  (c.mode = .starting → 4 ≤ c.task.fills → c.task.fills < 8 →
    (∀ r t, readImage m c.allot.window (sdRimg at') s = .ok (r, t) → exec start s =
      exec start (t.modCtx a fun x => { x with regs := r, task := { x.task with fills := x.task.fills - 4 } })) ∧
    (∀ z x, readImage m c.allot.window (sdRimg at') s = .error (z, x) →
      exec start s = .next (fillFault a { cause := z.toNat, faddr := x } s))) ∧
  (c.mode = .starting → 2 ≤ c.task.fills → c.task.fills < 4 →
    (sdTitab at' = 0 → exec start s = exec start (s.modCtx a fun x => { x with tis := [], task := { x.task with fills := x.task.fills - 2 } })) ∧
    (sdTitab at' ≠ 0 →
      (∀ b t, readItems m 128 (List.range 64) (sdTitab at') [] s = .ok (b, t) → exec start s = exec start (t.modCtx a fun x =>
        { x with tis := b.map fun y => (y.1, .ofNat 1024 y.2), task := { x.task with fills := x.task.fills - 2 } })) ∧
      (∀ z x, readItems m 128 (List.range 64) (sdTitab at') [] s = .error (z, x) →
        exec start s = .next (fillFault a { cause := z.toNat, faddr := x } s)))) ∧
  (c.mode = .starting → c.task.fills = 1 →
    (∀ x, c.answer = some x → exec start s = .next (fillFault a x s)) ∧
    (c.answer = none →
      (∀ z x, engRead m false (sdSpimg at') (sdSplen at') s = .error (z, x) →
        exec start s = .next (fillFault a { cause := z.toNat, faddr := x } s)) ∧
      (∀ bs t, engRead m false (sdSpimg at') (sdSplen at') s = .ok (bs, t) → bs.length ≤ 2 ^ 18 → ∃ r, exec start s = .next r ∧
        (let k := padKey (clusterOf a) (c.sched.tbank * 2 ^ 18)
         (∀ i, i < 2 ^ 18 → r.byte (k + i) = bs.getD i 0) ∧ (∀ i, i < k ∨ k + 2 ^ 18 ≤ i → r.byte i = t.byte i)) ∧
        r.ctx a = { t.ctx a with mode := .ready, task := { (t.ctx a).task with fills := 0 }, answer := (r.ctx a).answer } ∧
        ∀ b, b ≠ a → r.ctx b = { t.ctx b with answer := (r.ctx b).answer }))) ∧
  (let u := s.core core
   (u.staged ≠ none ∨ stageChoice s core = none → Idle (.taskStaging core) s) ∧
   (u.staged = none → u.inReset = false → u.gated = false → stageChoice s core = some (l, a, q, j) →
     (readyQueue (stageOf l q))[j]? = some e → s.dev.launches = [l] → e.image ≠ none ∨ sdSplen d = 0 → ∃ t, exec (.taskStaging core) s = .next t ∧
       (t.core core).staged = some ⟨l.id, q, e, none, none⟩ ∧ (∀ n, n ≠ core → SameCode (s.core n) (t.core n)) ∧ t.ctxs = s.ctxs ∧
       (∃ p, t.dev.launches = [p] ∧ readyQueue (stageOf p q) = (readyQueue (stageOf l q)).eraseIdx j) ∧ (Untraced s → t.mem = s.mem)) ∧
   (u.staged = none → u.inReset = false → u.gated = false → stageChoice s core = some (l, a, q, j) →
     (readyQueue (stageOf l q))[j]? = some e → e.image = none → sdSplen d ≠ 0 →
     let taken := (bindGroup l.id (keyOfEntry l e) a (takeEntry l.id q j s)).tick
     ∀ b f r, (idleBanks taken core l.id).head? = some b → preload (lrAsid l.hdr) (core / 8) b d taken = (f, r) →
       ∃ t, exec (.taskStaging core) s = .next t ∧ (t.core core).staged = some ⟨l.id, q, e, some b, f⟩ ∧ t.ctxs = r.ctxs ∧
         mget none (t.cluster (core / 8)).holders b = some (8192 + core) ∧ t.dev = { taken.dev with channels := t.dev.channels, signals := r.dev.signals } ∧
         (Untraced r → t.mem = r.mem)))

/-- R186, R290, R300, R379-R381, R395: a task ends. TASKEND and the task that asked for a rerun leave their context empty, with the entry
of the latter at the head of its stage's rerun list; the end of an access program completes its ASTART; a task past its budget is to be
pre-empted. The order of the rerun list, and the numbers under which the accesses of an ended task or program go on, are the model's choices
(log 41, log 19). -/
def Obligations.TaskEndEvents : Prop :=
  ∀ (s : State) (a : Nat),
  let c := s.ctx a
  let n := coreOf a
  let waits := c.mode = .blocked .taskend ∧ endsNow s a = true
  (¬waits ∨ c.task.ending = false → Idle (.taskendComplete a) s) ∧
  (a < 2048 → waits → c.task.ending = true → ∃ t, exec (.taskendComplete a) s = .next t ∧ Emptied a s t ∧
    t.dev = { s.dev with channels := t.dev.channels }) ∧
  (∀ o id m, 2048 ≤ a → a < 2560 → waits → c.task.ending = true → (s.core n).access = some (o, id) → cmdOf s n id = some m → ∃ r,
    exec (.taskendComplete a) s = .next (endCmd n m none r) ∧ r = { s with ctxs := r.ctxs, cores := r.cores } ∧ r.ctx a = { order := c.order } ∧
    (∀ b, b ≠ a → r.ctx b = s.ctx b) ∧ SameCode { s.core n with access := none } (r.core n) ∧ ∀ k, k ≠ n → r.core k = s.core k) ∧
  (¬waits ∨ c.task.rerun = false → Idle (.taskRerun a) s) ∧
  (∀ l, waits → c.task.rerun = true → (s.core n).staged = none → s.dev.launches = [l] → l.id = c.task.launch → c.task.stage < l.stages.length →
    ∃ t p, exec (.taskRerun a) s = .next t ∧ Emptied a s t ∧ t.dev = { s.dev with launches := [p] } ∧
      (stageOf p c.task.stage).reruns =
        { c.task.entry with runs := Nat.min (c.task.entry.runs + 1) 65535, image := none } :: (stageOf l c.task.stage).reruns ∧
      (stageOf p c.task.stage).queue = (stageOf l c.task.stage).queue) ∧
  (let budget := sdBudget (descOf s c.task)
   (c.dir = 1 → c.mode ≠ .starting → budget ≠ 0 → budget * 65536 < c.task.used →
     AgentBecomes (.budgetOverrun a) a s { c with saver := 0x31 }) ∧
   (budget = 0 ∨ c.task.used ≤ budget * 65536 → Idle (.budgetOverrun a) s))

/-! Saving, service, debugging. -/

/-- R61, R167, R172, R225, R226, R297, R303, R394, R395, R398, R399: saving and resuming. A context of which a pre-emption is asked is saved;
when its started commands are done its image is whole, with the product that it interrupted: unchanged in its loading phase, else at a group,
with its partial tile; an overrun moves it to its stage's rerun list; a saved context that is to go on gets back what its core can take, and
its range fences fall back where no counter is free; a machine check poisons and saves, one of a context that is saved poisons its image, and
a poisoned context is put to the host again. R397: the image in the context's area holds the pc, the scalars, the predicates and the vectors
that are not killed. Where a value stands there, and what is no more than a structure, are the model's choices (log 19), and so are the wait
of a resume for room in the queues (log 10), the flags that stay or go with an overrun's image and the way by which a served context comes to
another core (log 41), CAUSE of a machine check (log 43) and the lines read ahead that a resume drops (log 11); where a product stops is a free
value (log 5). -/
def Obligations.SaveEvents : Prop :=
  ∀ (s : State) (a : Nat),
  let c := s.ctx a
  let n := coreOf a
  let k := s.core n
  let img := imageOf s a
  let asked := c.saver = 0x31 ∨ c.saver = 0x32
  let halts := isLive c || c.mode == .starting
  let request := Instr.preemptionRequest a
  let complete := Instr.preemptionSaveComplete a
  let resume := Instr.contextResume a
  let products := (runningIn k 0).filter fun m => m.agent == a && isProduct m
  let killed := c.regs.killed.map fun x => (x.1, 2)
  let s2 := { s with free := s.free + 2 }
  let kept := fun (m : Cmd) (q r : State) => r = { q with cores := r.cores, images := r.images } ∧
    (∀ b, b ≠ a → mget none r.images b = mget none q.images b) ∧ (∀ b, b ≠ n → r.core b = q.core b) ∧
    r.core n = { q.core n with cmds := (q.core n).cmds.filter fun x => x.id != m.id } ∧
    mget none r.images a = some { imageOf q a with
      cmds := { m with started := false } :: (imageOf q a).cmds
      latches := mset {} (imageOf q a).latches (productParts m.op).2.1.toNat (m.latch.getD {}) }
  let asks := fun (q r t : State) => ButTrace q r ∧ r.ctxs = q.ctxs ∧ (∀ m, SameCode (q.core m) (r.core m)) ∧
    Posts a 0x3F c.ctl.faddr (finfoOf c.ctl) 0 false (c.order.pend.filterMap fun p => p.earlier.map Prod.fst) r t
  let moves := ¬asked ∧ Config.choice s.free % 2 = 1
  a < 2048 →
  (¬asked ∨ halts = false → Idle request s) ∧
  (asked → halts = true → ∃ r t, exec request s = .next t ∧ Saves a c.saver r t ∧ t.dev = r.dev ∧ ButTrace s r ∧ r.ctxs = s.ctxs ∧
    ∀ m, SameCode (s.core m) (r.core m)) ∧
  (c.mode ∉ [.empty, .saving, .saved] → ∃ r u t, exec (.machineCheck a) s = .next t ∧
    asks (s.setCtx a { c with ctl := { c.ctl with poisoned := true }, answered := none }) r u ∧ Saves a 0x3F u t) ∧
  (c.mode ∈ [.saving, .saved] → ∃ r t, exec (.machineCheck a) s = .next t ∧ asks (s.setCtx a { c with
    ctl := { c.ctl with poisoned := true }, answered := none, saver := if c.saver = 0x31 then 0x3F else c.saver }) r t) ∧
  (c.mode = .empty → Idle (.machineCheck a) s) ∧
  (let p := imageArea s a
   let u := writeImage a s
   (p = 0 → u = s) ∧
   (p ≠ 0 → c.allot.window ≤ 768 → u = { s with mem := u.mem, stale := u.stale, l2 := u.l2, clusters := u.clusters, cores := u.cores } ∧
     (∀ m, SameCode (s.core m) (u.core m)) ∧ (∀ j, j < p ∨ p + 2 ^ 22 ≤ j → u.byte j = s.byte j) ∧ u.readLE p 8 = c.pc.toNat ∧
     (∀ j, j < 31 → u.readLE (p + 4096 + 8 * j) 8 = (mget 0 c.regs.s (j + 1)).toNat) ∧
     (∀ j, j < 15 → u.readLE (p + 4344 + 32 * j) 32 = (mget 0 c.regs.p (j + 1)).toNat) ∧
     ∀ j m, (liveVectors c)[j]? = some m → u.readLE (p + 4864 + 256 * j) 256 = (mget 0 c.regs.v m).toNat)) ∧
  (c.mode ≠ .saving ∨ heldBack s a = true → Idle complete s) ∧
  (∀ m, c.mode = .saving → heldBack s a = false → products = [m] →
    let p := productParts m.op
    let st := m.latch.getD {}
    let z := productSize m st
    let le := p.2.1.toNat
    ∃ r, exec complete s = exec complete r ∧
      (m.group = 0 ∧ kept m s2 r ∨
        ∃ g, (m.group ≤ (z.1 + z.2 - 1) / z.2 → m.group ≤ g ∧ g ≤ (z.1 + z.2 - 1) / z.2) ∧
          (∀ e, productRows m z.2 z.1 s2 = .error e → r = endArray n m (some e) s2) ∧
          ∀ rows cnt q, productRows m z.2 z.1 s2 = .ok ((rows, cnt), q) → ∃ v,
            kept { m with latch := some (latchSeen n le st q.tick), group := g } (setCmdTile n p.1 m v q.tick) r ∧ ∀ i j, i < 128 → j < 128 →
              tileEl v i j = productEl (tiFmt m.ti == 10 || tiFmt m.ti == 11 || tiFmt m.ti == 12) (tiScale m.ti + st.scx) z.2 z.1
                (fun x => (rows.getD i []).getD x zeroOp) (fun x => latchOp (latchSeen n le st s2) x j) (tileEl (cmdTile n p.1 m s) i j)
                ((List.range g).filter fun x => m.group ≤ x))) ∧
  (c.mode = .saving → heldBack s a = false → products = [] → c.saver ≠ 0x31 → c.answered ≠ some 1 → c.answered ≠ some 2 →
    let q := s.setCtx a { c with mode := .saved, regs := { c.regs with killed := killed } }
    ∃ t, exec complete s = .next t ∧ t.ctx a = { q.ctx a with dir := 3 } ∧
      (∀ b, b ≠ a → t.ctx b = s.ctx b) ∧ t.images = s.images ∧ (∀ m, SameCode (s.core m) (t.core m)) ∧ DirectoryOnly a 3 (writeImage a q) t ∧
      t.dev = { s.dev with ctxbusy := if c.saver = 0x32 then false else s.dev.ctxbusy }) ∧
  (c.mode = .saving → heldBack s a = false → products = [] → c.saver ≠ 0x31 → c.answered = some 1 → ∃ t, exec complete s = .next t ∧
    t.ctx a = { allot := c.allot, flags := c.flags, armed := c.armed, noArea := c.noArea } ∧ ∀ m ∈ (t.core n).cmds, m.agent ≠ a) ∧
  (∀ l, c.mode = .saving → heldBack s a = false → products = [] → c.saver = 0x31 → s.dev.launches = [l] → l.id = c.task.launch →
    c.task.stage < l.stages.length → ∃ t p i, exec complete s = .next t ∧ 4096 ≤ i ∧ coreOf i = n ∧
      t.ctx a = { allot := c.allot, armed := c.armed, noArea := true } ∧
      t.ctx i = { c with mode := .saved, dir := 3, saver := 0, answered := none, regs := { c.regs with killed := killed } } ∧
      (∀ b, b ≠ a → b ≠ i → t.ctx b = s.ctx b) ∧ t.dev = { s.dev with launches := [p] } ∧
      (stageOf p c.task.stage).reruns = (stageOf l c.task.stage).reruns ++ [{ c.task.entry with image := some i }] ∧
      (stageOf p c.task.stage).queue = (stageOf l c.task.stage).queue ∧ mget none t.images a = none ∧
      (imageOf t i).cmds = img.cmds ∧ (imageOf t i).latches = img.latches ∧ (imageOf t i).prog = img.prog ∧
      (∀ x, mget [] (imageOf t i).tiles x = if c.allot.tiles.getLsbD x then mget [] k.tiles x else []) ∧
      (imageOf t i).busy = k.busy &&& c.allot.tiles ∧ (t.core n).busy = k.busy &&& ~~~c.allot.tiles) ∧
  (c.mode ≠ .saved ∨ c.parked = true ∨ c.answered ≠ some 0 → Idle resume s) ∧
  (c.mode = .saved → c.parked = false → c.answered = some 0 →
    (c.ctl.poisoned = true → ∃ r t, asks (s.setCtx a { c with answered := none }) r t ∧
      exec resume s = .next (if c.saver = 0x32 then { t with dev := { t.dev with ctxbusy := false } } else t)) ∧
    (∀ l, c.ctl.poisoned = false → ¬asked → s.dev.launches = [l] → l.id = c.task.launch → c.task.stage < l.stages.length →
      ∃ t u p i, exec resume s = .next (if moves then t else u) ∧ 4096 ≤ i ∧ coreOf i = n ∧ t.ctx a = { allot := c.allot, armed := c.armed, noArea := true } ∧
        t.ctx i = { c with saver := 0, answered := none } ∧ t.dev = { s.dev with launches := [p] } ∧
        (stageOf p c.task.stage).reruns = (stageOf l c.task.stage).reruns ++ [{ c.task.entry with image := some i }] ∧
        (imageOf t i).cmds = img.cmds ∧ (imageOf t i).prog = img.prog) ∧
    (c.ctl.poisoned = false → mayResume s a = false → ∃ u, exec resume s = .next (if moves then u else s)) ∧
    (c.ctl.poisoned = false → mayResume s a = true → ∃ t u x, exec resume s = .next (if moves then u else t) ∧
      (let again := takeAgain (16 - k.counters) (freeCounters [] c.order.pend).1
       x = { c with
         order := { c.order with pend := again.1 }
         ctl := { c.ctl with fallback := c.ctl.fallback + BitVec.ofNat _ again.2.2 } } ∧
       SameCode { k with
         cmds := (img.cmds.filter fun m => m.latch.isSome) ++ k.cmds ++ img.cmds.filter fun m => !m.latch.isSome
         latches := img.latches.foldr (fun l m => mset {} m l.1 l.2) k.latches
         counters := k.counters + again.2.1 } (t.core n)) ∧
      t.ctx a = { x with
        mode := if c.task.fills ≠ 0 ∧ c.ctl.priv = false then .starting else .ready
        dir := 1, saver := 0, answered := none, quantum := 0, waiting := 0, lines := [] } ∧ (∀ b, b ≠ a → t.ctx b = s.ctx b) ∧
      (∀ m, m ≠ n → SameCode (s.core m) (t.core m)) ∧
      mget none t.images a = (img.prog.map fun p => ({ core := n, prog := some p } : Image)) ∧
      (∀ b, b ≠ a → mget none t.images b = mget none s.images b) ∧ (Untraced s → DirectoryOnly a 1 s t) ∧
      (t.dev.ctxbusy = if c.saver = 0x32 then false else s.dev.ctxbusy)))

/-- R302, R303, R320, R356, R394, R395, R417: the host's answers. RESUME lets the context, or its access program, go on; END ends it; RERUN
puts its entry back at the head of the rerun list; END and RERUN end a program with its fault. A context that is still being saved takes the
answer when its image is whole. An answer to pool refill goes to the context of its record. A record is written once the accesses that it
follows have performed and no record of its index is outstanding, and an interrupt message goes to the host; when is a free value (log 5). The
index of an access program's record, that a program which is suspended with its starter stays so until it is back on the processor, and that an
overflow whose answer leaves 64 runs or more is put to the host again, are the model's choices (log 19, log 22, log 38). -/
def Obligations.ServiceEvents : Prop :=
  ∀ (s : State) (index : Nat) (arg : BitVec 32) (x : Service),
  let c := s.ctx index
  let n := coreOf index
  let mine := fun (y : Service) => y.index == index && !y.waits
  let first := s.dev.services.find? mine
  let rest := s.dev.services.erase x
  let taken := { s with dev := { s.dev with services := rest } }
  let resume := Instr.svcdoneResume index arg
  let ends := Instr.svcdoneEnd index
  let rerun := Instr.svcdoneRerun index
  let answers := fun (i : Instr) (k : Nat) => ∃ t, exec i s = .next t ∧ t = { taken with ctxs := t.ctxs } ∧
    t.ctx index = { c with answered := some k } ∧ ∀ b, b ≠ index → t.ctx b = s.ctx b
  let gone := fun (t : State) => t.ctx index = { allot := c.allot, flags := c.flags, armed := c.armed, noArea := c.noArea } ∧
    ∀ m ∈ (t.core n).cmds, m.agent ≠ index
  (first = none → Idle resume s ∧ Idle ends s ∧ Idle rerun s) ∧
  (first = some x → index < 2048 → x.program = false →
    answers resume 0 ∧
    (c.mode ≠ .saved → answers ends 1 ∧ answers rerun 2) ∧
    (c.mode = .saved → (∃ t, exec ends s = .next t ∧ gone t) ∧
      ∀ l, s.dev.launches = [l] → l.id = c.task.launch → c.task.stage < l.stages.length → (s.core n).staged = none →
        ∃ t p, exec rerun s = .next t ∧ gone t ∧ t.dev = { taken.dev with launches := [p] } ∧
          (stageOf p c.task.stage).reruns =
            { c.task.entry with runs := Nat.min (c.task.entry.runs + 1) 65535, image := none } :: (stageOf l c.task.stage).reruns)) ∧
  (first = some x → index < 2048 → x.program = true → ∀ id num, programOf s index = some (id, num) →
    let p := s.ctx num
    let out := (((imageOf s index).cmds ++ (s.core n).cmds).find? fun m => m.id == id).bind fun m => m.out
    (∃ t, exec resume s = .next t ∧ t = { taken with ctxs := t.ctxs } ∧
      t.ctx num = { p with mode := if num < 4096 then .ready else p.mode, answer := none, hold := 0 } ∧ ∀ b, b ≠ num → t.ctx b = s.ctx b) ∧
    (∀ i, i ∈ [ends, rerun] → num = 2048 + n → ownsAccess s index = true → (imageOf s index).cmds = [] → ∃ r,
      exec i s = .next (completeToken index out (some (p.ctl.cause, p.ctl.faddr)) id r) ∧ r = { taken with ctxs := r.ctxs, cores := r.cores } ∧
      r.ctx num = { order := p.order } ∧ (∀ b, b ≠ num → r.ctx b = s.ctx b) ∧ (∀ m, m ≠ n → r.core m = s.core m) ∧
      SameCode { s.core n with access := none, cmds := (s.core n).cmds.filter fun m => m.id != id } (r.core n)) ∧
    (∀ i, i ∈ [ends, rerun] → 4096 ≤ num → ownsAccess s index = false → p.order.pend = [] → ∃ r,
      exec i s = .next (completeToken index out (some (p.ctl.cause, p.ctl.faddr)) id r) ∧
      r = { taken with ctxs := r.ctxs, cores := r.cores, images := r.images } ∧ r.ctx num = {} ∧ (∀ b, b ≠ num → r.ctx b = s.ctx b) ∧
      (∀ m, m ≠ n → r.core m = s.core m) ∧ r.core n = { s.core n with cmds := (s.core n).cmds.filter fun m => m.id != id } ∧
      imageOf r index = { imageOf s index with prog := none, cmds := (imageOf s index).cmds.filter fun m => m.id != id })) ∧
  (let due := fun (y : Service) => y ∈ s.dev.services ∧ y.waits = true ∧ ∀ z ∈ s.dev.services, z.index = y.index → z.waits = true
   ((∀ y, ¬due y) → postRecords s = s) ∧
   (∀ l y l', s.dev.services = l ++ y :: l' → (∀ z ∈ l, ¬due z) → due y →
     let v := s.tick.forceIds y.follows
     let now := Config.choice s.free % 2 ≠ 0
     (v.anyPending y.follows = true → postRecords s = if now then v else s.tick) ∧
     (v.anyPending y.follows = false → ∃ t, postRecords s = (if now then t else s.tick) ∧ t = { v with
         mem := t.mem
         dev := { v.dev with irqs := s.dev.irqs + 1, services := { y with waits := false } :: (l ++ l') } } ∧
       (let k := hostKey (s.dev.mbox.toNat + 32 * y.index)
        t.readLE k 4 = (v.readLE k 4 + 1) % 2 ^ 32 ∧ t.readLE (k + 4) 4 = y.cause % 256 ∧ t.readLE (k + 8) 8 = y.faddr.toNat ∧
          t.readLE (k + 16) 8 = y.finfo.toNat ∧ t.readLE (k + 24) 8 = y.arg.toNat ∧ ∀ j, j < k ∨ k + 32 ≤ j → t.byte j = v.byte j)))) ∧
  (first = some x → 2048 ≤ index → index < 2112 →
    let z := sessionOf s (index - 2048)
    (z.fin = none → exec resume s = .next taken) ∧
    (∀ core id m w ti tag tsk dec, z.fin = some (core, id) → cmdOf s core id = some m → m.op = .mgfin w ti tag tsk dec →
      (∀ rs r, scanRuns m z arg.toNat 0 taken = .ok (rs, r) → rs.length < 64 →
        exec resume s = .next (finishMerge (index - 2048) core m dec { z with runs := rs } r)) ∧
      (∀ rs r, scanRuns m z arg.toNat 0 taken = .ok (rs, r) → 64 ≤ rs.length →
        exec resume s = .next (mgfinHere (index - 2048) core m dec (setSession (index - 2048) { z with runs := rs, fin := none } r))) ∧
      (∀ e, scanRuns m z arg.toNat 0 taken = .error e →
        exec resume s = .next (finishMerge (index - 2048) core m dec (failWith z e) taken))) ∧
    (z.opened = false → exec ends s = .next taken ∧ exec rerun s = .next taken) ∧
    (z.opened = true → ∀ i, i ∈ [ends, rerun] → ∃ t, exec i s = .next t ∧ (t.ctx z.owner).mode = .empty ∧
      (z.owner < 2048 → (t.ctx z.owner).allot = (s.ctx z.owner).allot) ∧ ∀ m ∈ (t.core (coreOf z.owner)).cmds, m.agent ≠ z.owner)) ∧
  (first = some x → index = 2113 → x.program = false →
    let b := s.ctx x.agent
    let answered := fun (i : Instr) (k : Nat) => ∃ t, exec i s = .next t ∧ t = { taken with ctxs := t.ctxs } ∧
      t.ctx x.agent = { b with answered := some k } ∧ ∀ n, n ≠ x.agent → t.ctx n = s.ctx n
    answered resume 0 ∧ (b.mode ≠ .saved → answered ends 1 ∧ answered rerun 2)) ∧
  (first = some x → 2112 ≤ index → index ≠ 2113 → exec resume s = .next taken ∧ exec ends s = .next taken ∧ exec rerun s = .next taken)

/-- R389, R400-R405: the debugger. A CTXCMD acts where the context's state allows it, and says so in RES; a stop that is due, or that a
step brings, raises 0x28 or 0x2A, which stops a context whose EXT is set and traps one whose is not; a trace session opens and closes, the
records that wait in its unit written before its last.
A stop writes the context's image. What STEP with DRAIN waits for, a write of OPEN while a session is open, the lines read ahead that a resume
drops, and where DBGCTL stands in an image, are the model's choices (log 43, log 20, log 11, log 19). -/
def Obligations.DebugEvents : Prop :=
  ∀ (s : State) (a cl : Nat) (dbg : BitVec 6) (i : Instr),
  let c := s.ctx a
  let answer := fun (i : Instr) (n : BitVec 3) => DeviceBecomes i s { s.dev with ctxres := n }
  let acts := fun (i : Instr) (busy : Bool) (x : Ctx) => ∃ t, exec i s = .next t ∧ t.ctx a = x ∧ (∀ b, b ≠ a → t.ctx b = s.ctx b) ∧
    t.dev = { s.dev with ctxres := 0, ctxbusy := busy } ∧ (∀ n, SameCode (s.core n) (t.core n)) ∧ t.images = s.images ∧ t.bars = s.bars ∧
    t.agenda = (if i = .ctxcmdPreempt a then .preemptionRequest a :: s.agenda else s.agenda) ∧
    ∀ k, k ≠ dirKey s a → (i = .ctxcmdSetdbg a dbg → c.dir = 1 ∨ k < imageArea s a + 64 ∨ imageArea s a + 72 ≤ k) → t.byte k = s.byte k
  let tr := (s.cluster cl).trace
  let writes := fun (u t : State) =>
    t = { u with mem := t.mem, stale := t.stale, l2 := t.l2, clusters := t.clusters, cores := t.cores, dev := { u.dev with channels := t.dev.channels } } ∧
      (∀ n, SameCode (u.core n) (t.core n)) ∧ ∀ n, n ≠ cl → t.cluster n = { u.cluster n with l1 := (t.cluster n).l1 }
  let stops := fun (cause : Nat) (x : Ctx) (t : State) =>
    let u := { agent := a, here := c.pc, next := c.pc : Issue }
    let q := takeTrap { cause := cause } ((s.setCtx a x).modIssue fun _ => u)
    Untraced s → t = { (if (q.ctx a).mode = .stopped then writeImage a q else q) with dev := t.dev } ∧ (cause = 0x2A → t.dev = s.dev)
  (s.dev.ctxbusy = true → i ∈ [.ctxcmdPreempt a, .ctxcmdStop a, .ctxcmdResume a, .ctxcmdSetdbg a dbg, .ctxcmdArmdbg a dbg] → answer i 3) ∧
  (s.dev.ctxbusy = false →
    (c.dir = 0 → i ∈ [.ctxcmdPreempt a, .ctxcmdStop a, .ctxcmdResume a, .ctxcmdSetdbg a dbg] → answer i 1) ∧
    (c.dir ≠ 0 → c.dir ≠ 1 → i ∈ [.ctxcmdPreempt a, .ctxcmdStop a] → answer i 2) ∧
    (c.dir = 1 → acts (.ctxcmdPreempt a) true { c with saver := 0x32, parked := true }) ∧
    (c.dir = 1 → DeviceBecomes (.ctxcmdStop a) s { s.dev with ctxres := 0, ctxbusy := true, ctxstop := some a }) ∧
    (c.dir = 1 ∨ c.dir = 2 ∨ c.dir = 3 ∧ c.parked = false → answer (.ctxcmdResume a) 2) ∧
    (c.dir = 4 → acts (.ctxcmdResume a) false { c with mode := .ready, dir := 1, lines := [], whole := none, waiting := 0, quantum := 0 }) ∧
    (c.dir = 3 → c.parked = true → acts (.ctxcmdResume a) true { c with parked := false, answered := some 0 }) ∧
    (c.dir = 2 → answer (.ctxcmdSetdbg a dbg) 2) ∧
    (c.dir = 1 ∨ c.dir = 3 ∨ c.dir = 4 → acts (.ctxcmdSetdbg a dbg) false { c with ctl := { c.ctl with dbgctl := dbg } }) ∧
    acts (.ctxcmdArmdbg a dbg) false { c with armed := some dbg }) ∧
  (s.dev.ctxstop = some a → c.dir = 0 → DeviceBecomes (.debugStop a) s { s.dev with ctxres := 1, ctxbusy := false, ctxstop := none }) ∧
  (let due := c.ctl.priv = false ∧ (s.dev.ctxstop = some a ∨ c.ctl.dbgctl.getLsbD 2 = true ∧ c.ctl.ccyc = c.ctl.dbgstop ∧ c.stopAt ≠ some c.ctl.ccyc)
   (s.dev.ctxstop ≠ some a ∨ c.dir ≠ 0 → ¬due ∨ isRunnable c = false → Idle (.debugStop a) s) ∧
   (s.dev.ctxstop ≠ some a ∨ c.dir ≠ 0 → due → isRunnable c = true → ∃ t, exec (.debugStop a) s = .next t ∧
     stops 0x28 { c with stopAt := some c.ctl.ccyc } t ∧
     (a < 2048 → c.ctl.dbgctl.getLsbD 5 = true → (t.ctx a).mode = .stopped ∧ (t.ctx a).ctl.cause = 0x28 ∧ (t.ctx a).ctl.epc = c.pc) ∧
     (a < 2048 → c.ctl.dbgctl.getLsbD 5 = false → (t.ctx a).ctl.priv = true ∧ (t.ctx a).pc = s.dev.tvec ∧ (t.ctx a).ctl.cause = 0x28) ∧
     (s.dev.ctxstop = some a → t.dev.ctxbusy = false ∧ t.dev.ctxstop = none))) ∧
  (let due := c.ctl.dbgctl.getLsbD 3 = true ∧ c.ctl.priv = false ∧ isRunnable c = true
   (¬due → Idle (.singleStepStop a) s) ∧
   (due → ∃ t, exec (.singleStepStop a) s = .next t ∧ stops 0x2A { c with hold := 0 } t ∧
     (a < 2048 → c.ctl.dbgctl.getLsbD 5 = true → (t.ctx a).mode = .stopped ∧ (t.ctx a).ctl.cause = 0x2A ∧ (t.ctx a).ctl.epc = c.pc) ∧
     (a < 2048 → c.ctl.dbgctl.getLsbD 5 = false → (t.ctx a).ctl.priv = true ∧ (t.ctx a).pc = s.dev.tvec ∧ (t.ctx a).ctl.cause = 0x2A))) ∧
  (tr.opened = true → Idle (.traceOpen cl) s) ∧
  (tr.opened = false → ∃ t, exec (.traceOpen cl) s = .next t ∧ writes s t ∧
    (let n := (t.cluster cl).trace
     n = { tr with opened := true, pend := [], drop := n.drop, ptr := n.ptr } ∧
     (32 ≤ 2 ^ tr.log2.toNat → n.drop = 0 ∧ n.ptr = 32 ∧ (t.byte (tr.base.toNat * 2 ^ 12)).toNat = 0 ∧
       t.readLE (tr.base.toNat * 2 ^ 12 + 8) 8 = s.time % 2 ^ 64))) ∧
  (tr.opened = false → Idle (.traceClose cl) s) ∧
  (tr.opened = true → ∃ t, exec (.traceClose cl) s = .next t ∧
    (let p := flushTrace cl s
     let now := (p.cluster cl).trace
     let full := now.wrap = false ∧ 2 ^ now.log2.toNat < now.ptr.toNat + 32
     let ptr := if full then now.ptr - 32 else now.ptr
     writes s p ∧ now = { tr with pend := [], drop := now.drop, ptr := now.ptr } ∧
     (tr.pend = [] → now.drop = tr.drop ∧ now.ptr = tr.ptr ∧ p.mem = s.mem) ∧ writes p t ∧
     (t.cluster cl).trace = { now with opened := false, drop := if full then now.drop + 1 else now.drop, ptr := ptr + 32 } ∧
     (t.byte (now.base.toNat * 2 ^ 12 + ptr.toNat % 2 ^ now.log2.toNat)).toNat = 1))

/-- R19, R121, R290, R296, R297, R390, R419-R426: the device. CLOCK_STEP_CHANGE and the commands of the ring act in full service only; a
core in reset, or gated, keeps its flags and banks, and leaves reset with its flags cleared; POWER_ON_RESET keeps only what is fused and the
memory. Bring-up checks the boot firmware, then loads the device number, the routes and the mailbox base, and reduced service starts. R133,
R134, R136, R421: full service starts with rotation 0, its refresh and its lanes, once no launch runs. The management processor accepts an
image whose kind, version, SHA3-512 digest and signature are right, and signs its report. What stays over POWER_ON_RESET, when bring-up goes
on and what it reads, the clock step after the switch, the key and the signatures, what a core in reset keeps, and the slot of a refresh that
cuts a row off are the model's choices (log 3, log 5, log 9, log 16, log 23, log 42). -/
def Obligations.DeviceEvents : Prop :=
  ∀ (s : State) (core blk unit : Nat) (n : BitVec 4) (r : BitVec 10) (v : W64),
  let k := s.core core
  let b := s.bytes (hostKey (64 * blk)) 64
  let pa := numAt b 0 8
  let len := numAt b 8 8
  let idle := { s.dev with mgmt := none, irqs := s.dev.irqs + 1 }
  let ends := fun (i : Instr) (x : Nat) => ∃ t, exec i s = .next t ∧ t = { s with mem := t.mem, dev := idle } ∧
    t.readLE (hostKey (64 * blk + 0x30)) 8 = x ∧ ∀ j, j < hostKey (64 * blk + 0x30) ∨ hostKey (64 * blk + 0x38) ≤ j → t.byte j = s.byte j
  let sound := fun (img : List Byte) => imageHead ≤ img.length ∧ (numAt img 0 2 = 1 ∨ numAt img 0 2 = 2) ∧
    mget 0 s.dev.firmware (numAt img 0 2 + 2) ≤ numAt img 2 2 ∧ numAt img 8 64 = (sha3 (img.drop imageHead)).toNat ∧
    Config.verify Config.rootKey ((img.drop 72).take 4627) (.ofNat 512 (numAt img 8 64)) = true
  let boots := Config.choice s.free % 2 ≠ 0
  (s.dev.reduced = true ∨ 14 < n.toNat → Idle (.clockStepChange n) s) ∧
  (s.dev.reduced = false → n.toNat ≤ 14 → ∃ t, exec (.clockStepChange n) s = .next t ∧ OnlyDevice s t ∧
    t.dev = { s.dev with clock := n, frac := t.dev.frac }) ∧
  (∃ t, exec .powerOnReset s = .next t ∧ t = { State.reset with
      free := t.free, env := { s.env with answer := [] }, mem := t.mem, dev := { State.reset.dev with firmware := t.dev.firmware } } ∧
    (∀ j, mget 0 t.dev.firmware j = if j = 3 ∨ j = 4 then mget 0 s.dev.firmware j else 0) ∧
    ∀ j, t.byte j = if 2 ^ 64 ≤ j ∧ j < 2 ^ 65 then 0 else s.byte j) ∧
  (s.dev.boot = 0 → bringUp s = s) ∧
  (s.dev.boot = 2 → ∃ t, bringUp s = (if boots ∧ sound s.env.boot.image ∧ numAt s.env.boot.image 0 2 = 1 then t else s.tick) ∧ OnlyDevice s t ∧
    t.dev = { s.dev with boot := 1, firmware := t.dev.firmware, microcode := t.dev.microcode } ∧
    (numAt s.env.boot.image 0 2 = 1 → t.dev.microcode = s.dev.microcode ∧
      ∀ j, mget 0 t.dev.firmware j = if j = 1 then numAt s.env.boot.image 8 64 else mget 0 s.dev.firmware j)) ∧
  (s.dev.boot ≠ 0 → s.dev.boot ≠ 2 → ∃ t, bringUp s = (if boots then t else s.tick) ∧ OnlyDevice s t ∧
    t.dev = { s.dev with boot := 0, devno := s.env.boot.devno, mbox := s.env.boot.mbox, routes := t.dev.routes } ∧
    ∀ j, let l := s.env.boot.routes.filter fun y => y.1 == j && decide (y.1 < 2 ^ 18) && decide (y.2 < 18)
      mget 0 t.dev.routes j = match l.getLast? with | some y => y.2 + 1 | none => 0) ∧
  (s.dev.reduced = false ∨ s.dev.boot ≠ 0 → Idle .fullServiceSwitch s) ∧
  (s.dev.reduced = true → s.dev.boot = 0 → (∃ l ∈ s.dev.launches, l.admitted = true) →
    DeviceBecomes .fullServiceSwitch s { s.dev with switching := true }) ∧
  (s.dev.reduced = true → s.dev.boot = 0 → (∀ l ∈ s.dev.launches, l.admitted = false) → ∃ t, exec .fullServiceSwitch s = .next t ∧ OnlyDevice s t ∧
    t.dev = { s.dev with
      reduced := false, switching := false, rot := 0, phase := 0, frac := 0, period := 0, clock := t.dev.clock, channels := t.dev.channels } ∧
    t.dev.clock.toNat ≤ 14 ∧ ∀ ch, ch < 256 →
      (let o := s.channel ch
       let p := t.channel ch
       let held := 0 ∈ o.rows
       let begins := o.shaking = false ∧ lends t ch ≠ o.lent
       p = { o with refresh := p.refresh, counts := p.counts, rows := p.rows, shaking := p.shaking, shakeBy := p.shakeBy } ∧
       (∀ b, b ≠ 0 → mget 0 p.counts b = mget 0 o.counts b) ∧
       (held → mget 0 o.counts 0 ≠ 8 → p.refresh = none ∧ mget 0 p.counts 0 = mget 0 o.counts 0 + 1 ∧ p.rows = o.rows) ∧
       (¬held ∨ mget 0 o.counts 0 = 8 → (∃ x, x < 2 ∧ p.refresh = some (0, x) ∧ (¬held → x = 0)) ∧ mget 0 p.counts 0 = 0 ∧
         p.rows = o.rows.filter fun b => b ≠ 0) ∧
       (begins → p.shaking = true ∧ p.shakeBy = (s.dev.calat + 3000) % 2 ^ 41) ∧
       (¬begins → p.shaking = o.shaking ∧ p.shakeBy = o.shakeBy))) ∧
  CoreBecomes (.coreEntersReset core) core s { k with inReset := true } ∧
  CoreBecomes (.corePowerUngate core) core s { k with gated := false } ∧
  (∃ t, exec (.coreLeavesReset core) s = .next t ∧ t = { s with ctxs := t.ctxs, cores := t.cores } ∧ t.core core = { k with inReset := false } ∧
    (∀ m, m ≠ core → t.core m = s.core m) ∧ ∀ a, t.ctx a = if a ∈ agentsOf core ∧ (s.ctx a).mode ≠ .saved then { s.ctx a with flags := [] } else s.ctx a) ∧
  (coreIdle s core = false ∨ k.gated = true → Idle (.corePowerGate core) s) ∧
  (coreIdle s core = true → k.gated = false → ∃ t, exec (.corePowerGate core) s = .next t ∧ OnlyCore core s t ∧ t.core core =
    { k with
      gated := true, tlb := [], sfuq := [], sfuPipe := [], sfuLast := none
      tiles := (t.core core).tiles, latches := (t.core core).latches, acyc := (t.core core).acyc }) ∧
  (exec (.registerWrite r unit v) s = .next (writeCsr true (if r = 0x49 ∨ r = 0x4A then 32 * unit else unit) r v s)) ∧
  (∀ load : Bool, let i := if load then Instr.mgmtcmdLoad blk else Instr.mgmtcmdAttest blk
    (s.dev.mgmt = none → DeviceBecomes i s { s.dev with mgmt := some (load, blk) }) ∧
    (∀ x, s.dev.mgmt = some x → x ≠ (load, blk) → Idle i s) ∧
    (s.dev.mgmt = some (load, blk) → 2 ^ 46 < 64 * blk + 64 → DeviceBecomes i s idle)) ∧
  (s.dev.mgmt = some (true, blk) → 64 * blk + 64 ≤ 2 ^ 46 →
    (2 ^ 46 < pa + len → ends (.mgmtcmdLoad blk) 0x10A) ∧
    (pa + len ≤ 2 ^ 46 →
      let img := s.bytes (hostKey pa) len
      ∃ t, exec (.mgmtcmdLoad blk) s = .next t ∧ t = { s with mem := t.mem, dev := t.dev } ∧
        t.readLE (hostKey (64 * blk + 0x30)) 8 = (if sound img then 1 else 0x10F) ∧
        (∀ j, j < hostKey (64 * blk + 0x30) ∨ hostKey (64 * blk + 0x38) ≤ j → t.byte j = s.byte j) ∧
        t.dev = { idle with
          firmware := t.dev.firmware, microcode := s.dev.microcode || decide (sound img ∧ numAt img 0 2 = 2) } ∧
        ∀ j, mget 0 t.dev.firmware j = if sound img ∧ j = numAt img 0 2 then numAt img 8 64 else mget 0 s.dev.firmware j)) ∧
  (s.dev.mgmt = some (false, blk) → 64 * blk + 64 ≤ 2 ^ 46 →
    (len < 4819 → ends (.mgmtcmdAttest blk) 0x10F) ∧
    (4819 ≤ len → 2 ^ 46 < pa + 4819 → ends (.mgmtcmdAttest blk) 0x10A) ∧
    (4819 ≤ len → pa + 4819 ≤ 2 ^ 46 → 64 * blk + 0x38 ≤ pa ∨ pa + 4819 ≤ 64 * blk + 0x30 →
      ∃ t, exec (.mgmtcmdAttest blk) s = .next t ∧ t = { s with mem := t.mem, dev := idle } ∧ t.readLE (hostKey (64 * blk + 0x30)) 8 = 1 ∧
        (let body := attestBody s.dev ((b.drop 0x10).take 32)
         t.bytes (hostKey pa) 192 = body ∧ t.readLE (hostKey (pa + 192)) 4627 = (Config.sign (sha3 body)).toNat)))

/-! The machine: decoding, fetching, a step, reset, what every step keeps. -/

/-- R21, R22, R24, R25, R26-R34: words of the manual's worked examples, written out there field by field, decode to the instructions that
they stand for; a bundle's bytes split into its words as its header says; an unassigned opcode is refused as such. -/
def Obligations.DecodeWords : Prop :=
  let reads := fun (kd : Kind) (w : Nat) (i : Instr) => decodeWord kd w = .ok i
  let plain := fun (m : BitVec 4) => (⟨false, m, 0, false⟩ : VHead)
  let own : MHead := ⟨none, 0⟩
  decodeBundle [0x03, 0x20, 0x00, 0x00, 0x00, 0x41, 0x30, 0x04, 0x10, 0x60, 0x40, 0x04] =
    .ok (⟨⟨3, 0, true, 0, false, 0, 0⟩, [(.s0, .ok (.addReg false 3 (.s 1) (.s 2))), (.s1, .ok (.addImm false 4 (.s 1) 16))]⟩, []) ∧
  decodeBundle [0x04, 0x20, 0x00, 0x04, 0x60, 0x01, 0x31, 0x01, 0x0B, 0x00, 0x70, 0x06, 0xAA] =
    .ok (⟨⟨4, 0, true, 0, false, 0, 2⟩, [(.v0, .ok (.vmul (plain 0) 11 (.v 4) .held (.two .add (.v 5) .max .held)))]⟩, [0xAA]) ∧
  decodeBundle [0, 0, 0, 0] = .ok (⟨⟨0, 0, false, 0, false, 0, 0⟩, []⟩, []) ∧
  bundleLength (headerOf 0xE440) = 20 ∧ slotsOf (headerOf 0xE440) = [.k, .m0] ∧ headerOf 0xE440 = ⟨64, 1, true, 3, false, 0, 0⟩ ∧
  reads .k 0x24000000_0000FFFF (.killImmLo 2 0xFFFF) ∧ reads .m 0x0E1000F1_00004000 (.vld true own 0 30 (.s 8) false 1 0) ∧
  reads .s 0x80430004 (.brScalar 1 (.s 3) 4) ∧ reads .s 0x9C000000 .taskend ∧ reads .s 0x4830B20B (.bfxImm false 3 (.s 2) true 8 11) ∧
  reads .v 0x20000003_02009180 (.vcmp (plain 0) 3 (.v 8) (.v 9) 6) ∧
  reads .v 0x24068014_01005184 (.vmac16 (plain 13) 20 (.v 4) (.v 5) (.v 6) 4) ∧
  reads .f 0x10280800 (.frsq false 40 (.v 32) 0 false) ∧
  reads .m 0x04100029_2A000003 (.ld false own 5 (.s 9) false 2 true 0 3) ∧
  reads .m 0x20160039_201B0000 (.amo ⟨none, 3⟩ 0 (.s 7) (.s 9) (.s 0) 6 3 0) ∧
  reads .m 0x84140031_20140000 (.bara ⟨none, 2⟩ (.s 6) (.s 9) 5 0) ∧
  reads .m 0x52500000_10000450 (.tdsc ⟨5, []⟩ 0 4 (.s 0) 1 5 false) ∧
  reads .x 0x06242000_01014000 (.mmaScratchpad ⟨2, [1]⟩ 0 0 1 (.s 10) 0) ∧ reads .x 0x8A344001_80000000 (.taskdec ⟨3, [2]⟩ (.s 12)) ∧
  reads .y 0x1101 (.fwait 1 1) ∧ reads .y 0x4002 (.kwait false 2) ∧
  decodeWord .s 0xFC000000 = .error .unassigned ∧ decodeWord .v 0x58060028_00000000 = .error (.reserved 0x2C) ∧
  decodeWord .m 0x3C060807_0F800000 = .error (.reserved 0x0F)

/-- R25-R34, R48-R53: for every well-formed instruction of a slot, with every operand at every value that its encoding can hold, the
decoder reads from its word the instruction itself; a word that decodes is the word of what it decodes to; a header word holds every
field of a header. -/
def Obligations.DecodeEncode : Prop :=
  (∀ (i : Instr) (kd : Kind), i.wf = true → i.kind = some kd → decodeWord kd (encode i) = .ok i) ∧
  (∀ (i : Instr) (kd : Kind) (w : Nat), decodeWord kd w = .ok i → i.wf = true ∧ i.kind = some kd ∧ encode i = w) ∧
  (∀ h : Header, headerOf (headerWord h) = h ∧ headerWord h < 2 ^ 32)

/-- R22, R174, R175, R179: a bundle that lies in one fetch line which has not been read ahead is fetched from the memory at its PC's
translation, and decoded from its bytes, all old or all new of each store (R177); a failed translation raises 0x08 with the PC, or 0x09 where its walk meets a bad entry (R353); the
fetch of a bundle serves every issue of it. R23, R38, R39: the operations of a bundle. A slot's
word issues, fresh, as the operation of its slot, in slot order; a live sticky operation issues where its slot's PRESENT bit is clear,
with the count and base that it has latched. That a line read ahead is kept is the model's choice (log 11). -/
def Obligations.FetchAndOperations : Prop :=
  (∀ (s : State) (a k : Nat),
   let c := s.ctx a
   let pc := c.pc.toNat
   let bs := (leBytes 64 (lineBytes s k).toNat).drop (pc % 64)
   let h := headerOf (leNat (bs.take 4))
   (splitBytes s = [] → lineBytes s k = .ofNat 512 (s.readLE k 64)) ∧
   (∀ b, c.whole = some b → fetchBundle a s = .bundle b s) ∧
   (c.whole = none → (∀ x ∈ c.lines, x.1 ≠ pc / 64) →
     (fetchKey s a (pc / 64) = .at k → pc % 4 = 0 → pc % 64 + bundleLength h ≤ 64 →
       ∃ b, decodeBundle (bs.take (bundleLength h)) = .ok (b, []) ∧ b.hdr = h ∧
         let q := if inBuffer s a pc then s else (fetchCode a c.ctl.asid (pc / 64) k s).tick
         fetchBundle a s = .bundle b ((q.holdTr (coreOf a) c.ctl.asid (pc / 64 * 64)).modCtx a fun c => { c with
           lines := (pc / 64, lineBytes s k) :: c.lines })) ∧
     (∀ w, fetchKey s a (pc / 64) = .cause 0x09 w → fetchBundle a s = .trap { cause := 0x09, faddr := c.pc }) ∧
     ((∀ x, fetchKey s a (pc / 64) ≠ .at x) → (∀ w, fetchKey s a (pc / 64) ≠ .cause 0x09 w) →
       fetchBundle a s = .trap { cause := 0x08, faddr := c.pc }))) ∧
  (∀ (c : Ctx) (b : Bundle) (n : Nat),
   let words := bundleInstrs b
   let sticky := mget none c.flow.sticky n
   (∀ i, words = [(n, i)] → n < 11 → (∀ m, mget none c.flow.sticky m = none) → opersOf c b = [⟨n, i, true, 0, 0, 0⟩]) ∧
   (∀ k, sticky = some k → n < 8 → isTaskendBundle b = false →
     (b.hdr.present.getLsbD n = false ↔ k.oper n ∈ stickyOpers c b) ∧ (b.hdr.present.getLsbD n = false → k.oper n ∈ opersOf c b)) ∧
   (isTaskendBundle b = true → stickyOpers c b = []) ∧
   (∀ i, (n, i) ∈ words → n < 11 → ⟨n, i, true, 0, 0, 0⟩ ∈ opersOf c b))

/-- R23, R43, R175, R179, R195, R198, R200: a step runs the instruction that stands at the program counter. When the active context of the
core whose turn it is fetches a bundle in which one instruction issues (a slot's word, or a sticky operation of an earlier one), no cause
stands before it, no wait of it has ended in one and no data is late, the step is exec of that instruction at the state after the cycle's
landings, and then: on success, the bundle's next issue or its successor; on a trap, the entry of the trap with nothing landed; on a block,
nothing but the block. The
access processor's cycle follows, and the turn passes on (that cores take turns is log 1). The order of the causes is the model's reading
(log 26). -/
def Obligations.StepRunsDecoded : Prop :=
  ∀ (s u v t : State) (j : Nat) (b : Bundle) (o : Oper),
  let core := s.cur
  let a := 4 * core + j
  let goOn := fun (r : State) =>
    andThen (accessPath core r) fun r =>
      .next (if (core + 1) % 512 = 0 then postRecords (bringUp (passCycle { r with bg := true, cur := 0 }))
        else { r with bg := true, cur := (core + 1) % 512 })
  s.agenda = [] → (s.dev.calbusy = false ∨ s.dev.calread = true) → s.bg = false → (s.core core).inReset = false →
  (s.core core).gated = false → beginCycle core s = .next u → (u.core core).active = some j → stopDue u a = false →
  quantumDue u a = false → (u.ctx a).hold = 0 → (u.ctx a).flow.micro = none → fetchBundle a u = .bundle b v →
  let c := v.ctx a
  let len := bundleLength b.hdr
  let i := v.modIssue fun _ => { agent := a, here := c.pc, length := len, clsdef := b.hdr.clsdef, next := c.pc + .ofNat 64 len }
  let x := instOf c (slotTag o.instr i)
  let w := i.modCtx a fun c => { c with iflat := x.this }
  let p := landed a x w
  let r := o.resume p x
  let priv := (u.ctx a).ctl.priv
  let after := fun (done : Bool) (q : State) => stepAfter a (u.ctx a).ctl done (contextCycle a priv q)
  b.slots ≠ [] → opersOf c b = [o] → isMove o.instr = false → isTaskendBundle b = false → earlyTrap b x [o.resume w x] w = none →
  lateNow c = false → c.answer = none → actsHere p x o.instr = true →
  exec r.instr (atOper x r p) = .next t →
  (t.issue.status = .ok → step s = goOn (after (x.last && decide (c.ridx = b.hdr.rep.toNat)) (finishIssue b x t))) ∧
  (∀ e, t.issue.status = .trapped e → e.cause ≠ 0x30 → step s = goOn (trapBundle e (afterTrap a x [r] r.slot w p))) ∧
  (∀ e, t.issue.status = .trapped e → e.cause = 0x30 → step s = goOn (after true (traceTrap e p.me.ctl.priv (trapMicro a p.me.ctl.priv t)))) ∧
  (∀ k, t.issue.status = .blocked k → step s = goOn (blockBundle a k w)) ∧
  (t.issue.status = .stalled → step s = goOn (after false p))

/-- R124, R195, R389-R391, R397, R405, R420: after reset every context is empty, no core has an active one, nothing is in flight, every
control register reads as its table's reset value (FREE of FENCESTAT is 16, LOG2SZ of TRBUF 12, every other field 0), the calendars
follow the default map, and the part is not in full service: both steps of bring-up before reduced service are still to come. That memory reads
as zero, and registers whose reset value the manual does not give (log 3, log 4), are the model's choice. -/
def Obligations.ResetState : Prop :=
  let s := State.reset
  (∀ a, (s.ctx a).mode = .empty ∧ (s.ctx a).flow.records = [] ∧ (s.ctx a).flow.sticky = [] ∧ (s.ctx a).toks = []) ∧
  (∀ n, (s.core n).active = none ∧ (s.core n).cmds = [] ∧ (s.core n).access = none ∧ (s.core n).counters = 0) ∧
  (∀ a (r : BitVec 10), readCsr a r s = if r = 0x0F then 16 else if r = 0x49 then 12 else 0) ∧
  (∀ ch slot, ch < 64 → slot < 512 → slotOwner (mget {} s.dev.channels ch) ch slot = some ((slot + 1024 - 2 * ch) % 512)) ∧
  s.dev.reduced = true ∧ s.dev.boot = 2 ∧ s.dev.launches = [] ∧ s.agenda = [] ∧ s.dev.signals = [] ∧ (∀ k, s.byte k = 0) ∧ MemoryInv s ∧
  candidates s = []

/-- Log 14 (the model's form of memory): a step keeps the memory in its one canonical form, in which equal contents are equal data: every
write of R2, every commit and decommit of R359 and every other part of a step does. -/
def Obligations.StepKeepsMemory : Prop :=
  ∀ s t : State, MemoryInv s → step s = .next t → MemoryInv t
end

