-- ==== Sys2Proof/Laws/Exec.lean ====
section
/-! SUPPORT. Laws/Exec.lean: the meaning of each instruction is the one that its arm names. -/

namespace Sys2Proof.Machine

variable (s : State)

@[simp] theorem exec_nopS : exec (.nopS) s = execNopS s := rfl
@[simp] theorem exec_addReg {st d a b} : exec (.addReg st d a b) s = execAddReg st d a b s := rfl
@[simp] theorem exec_addImm {st d a im} : exec (.addImm st d a im) s = execAddImm st d a im s := rfl
@[simp] theorem exec_subReg {st d a b} : exec (.subReg st d a b) s = execSubReg st d a b s := rfl
@[simp] theorem exec_subImm {st d a im} : exec (.subImm st d a im) s = execSubImm st d a im s := rfl
@[simp] theorem exec_mulReg {st d a b} : exec (.mulReg st d a b) s = execMulReg st d a b s := rfl
@[simp] theorem exec_mulImm {st d a im} : exec (.mulImm st d a im) s = execMulImm st d a im s := rfl
@[simp] theorem exec_mulhReg {st d a b u} : exec (.mulhReg st d a b u) s = execMulhReg st d a b u s := rfl
@[simp] theorem exec_mulhImm {st d a im} : exec (.mulhImm st d a im) s = execMulhImm st d a im s := rfl
@[simp] theorem exec_divReg {st d a b u} : exec (.divReg st d a b u) s = execDivReg st d a b u s := rfl
@[simp] theorem exec_divImm {st d a im} : exec (.divImm st d a im) s = execDivImm st d a im s := rfl
@[simp] theorem exec_remReg {st d a b u} : exec (.remReg st d a b u) s = execRemReg st d a b u s := rfl
@[simp] theorem exec_remImm {st d a im} : exec (.remImm st d a im) s = execRemImm st d a im s := rfl
@[simp] theorem exec_minReg {st d a b u} : exec (.minReg st d a b u) s = execMinReg st d a b u s := rfl
@[simp] theorem exec_minImm {st d a im} : exec (.minImm st d a im) s = execMinImm st d a im s := rfl
@[simp] theorem exec_maxReg {st d a b u} : exec (.maxReg st d a b u) s = execMaxReg st d a b u s := rfl
@[simp] theorem exec_maxImm {st d a im} : exec (.maxImm st d a im) s = execMaxImm st d a im s := rfl
@[simp] theorem exec_andReg {st d a b} : exec (.andReg st d a b) s = execAndReg st d a b s := rfl
@[simp] theorem exec_andImm {st d a im} : exec (.andImm st d a im) s = execAndImm st d a im s := rfl
@[simp] theorem exec_orReg {st d a b} : exec (.orReg st d a b) s = execOrReg st d a b s := rfl
@[simp] theorem exec_orImm {st d a im} : exec (.orImm st d a im) s = execOrImm st d a im s := rfl
@[simp] theorem exec_xorReg {st d a b} : exec (.xorReg st d a b) s = execXorReg st d a b s := rfl
@[simp] theorem exec_xorImm {st d a im} : exec (.xorImm st d a im) s = execXorImm st d a im s := rfl
@[simp] theorem exec_shlReg {st d a b} : exec (.shlReg st d a b) s = execShlReg st d a b s := rfl
@[simp] theorem exec_shlImm {st d a im} : exec (.shlImm st d a im) s = execShlImm st d a im s := rfl
@[simp] theorem exec_shrReg {st d a b} : exec (.shrReg st d a b) s = execShrReg st d a b s := rfl
@[simp] theorem exec_shrImm {st d a im} : exec (.shrImm st d a im) s = execShrImm st d a im s := rfl
@[simp] theorem exec_sraReg {st d a b} : exec (.sraReg st d a b) s = execSraReg st d a b s := rfl
@[simp] theorem exec_sraImm {st d a im} : exec (.sraImm st d a im) s = execSraImm st d a im s := rfl
@[simp] theorem exec_lih {st d a im} : exec (.lih st d a im) s = execLih st d a im s := rfl
@[simp] theorem exec_cmpReg {st d a b c} : exec (.cmpReg st d a b c) s = execCmpReg st d a b c s := rfl
@[simp] theorem exec_cmpImm {st d a im c} : exec (.cmpImm st d a im c) s = execCmpImm st d a im c s := rfl
@[simp] theorem exec_selReg {st d a b c} : exec (.selReg st d a b c) s = execSelReg st d a b c s := rfl
@[simp] theorem exec_selImm {st d a im c} : exec (.selImm st d a im c) s = execSelImm st d a im c s := rfl
@[simp] theorem exec_bfxReg {st d a b g w} : exec (.bfxReg st d a b g w) s = execBfxReg st d a b g w s := rfl
@[simp] theorem exec_bfxImm {st d a g p w} : exec (.bfxImm st d a g p w) s = execBfxImm st d a g p w s := rfl
@[simp] theorem exec_bfi {st d a p w} : exec (.bfi st d a p w) s = execBfi st d a p w s := rfl
@[simp] theorem exec_clz {st d a} : exec (.clz st d a) s = execClz st d a s := rfl
@[simp] theorem exec_popc {st d a} : exec (.popc st d a) s = execPopc st d a s := rfl
@[simp] theorem exec_addsReg {st d a b h} : exec (.addsReg st d a b h) s = execAddsReg st d a b h s := rfl
@[simp] theorem exec_addsImm {st d a im} : exec (.addsImm st d a im) s = execAddsImm st d a im s := rfl
@[simp] theorem exec_wid {st d t f} : exec (.wid st d t f) s = execWid st d t f s := rfl
@[simp] theorem exec_brScalar {c a o} : exec (.brScalar c a o) s = execBrScalar c a o s := rfl
@[simp] theorem exec_brPred {c p o} : exec (.brPred c p o) s = execBrPred c p o s := rfl
@[simp] theorem exec_bra {o} : exec (.bra o) s = execBra o s := rfl
@[simp] theorem exec_call {d o} : exec (.call d o) s = execCall d o s := rfl
@[simp] theorem exec_ret {a} : exec (.ret a) s = execRet a s := rfl
@[simp] theorem exec_jmpr {a o} : exec (.jmpr a o) s = execJmpr a o s := rfl
@[simp] theorem exec_loopn {l a k} : exec (.loopn l a k) s = execLoopn l a k s := rfl
@[simp] theorem exec_lend {l} : exec (.lend l) s = execLend l s := rfl
@[simp] theorem exec_taskend : exec (.taskend) s = execTaskend s := rfl
@[simp] theorem exec_lift {a o} : exec (.lift a o) s = execLift a o s := rfl
@[simp] theorem exec_lret : exec (.lret) s = execLret s := rfl
@[simp] theorem exec_brbScalar {c a o} : exec (.brbScalar c a o) s = execBrbScalar c a o s := rfl
@[simp] theorem exec_brbPred {c p o} : exec (.brbPred c p o) s = execBrbPred c p o s := rfl
@[simp] theorem exec_ljoin : exec (.ljoin) s = execLjoin s := rfl
@[simp] theorem exec_ctlrd {d c} : exec (.ctlrd d c) s = execCtlrd d c s := rfl
@[simp] theorem exec_ctlwr {a c} : exec (.ctlwr a c) s = execCtlwr a c s := rfl
@[simp] theorem exec_eret : exec (.eret) s = execEret s := rfl
@[simp] theorem exec_trap {im} : exec (.trap im) s = execTrap im s := rfl
@[simp] theorem exec_nopV : exec (.nopV) s = execNopV s := rfl
@[simp] theorem exec_vadd {h d a b ch} : exec (.vadd h d a b ch) s = execVadd h d a b ch s := rfl
@[simp] theorem exec_vsub {h d a b ch} : exec (.vsub h d a b ch) s = execVsub h d a b ch s := rfl
@[simp] theorem exec_vmul {h d a b ch} : exec (.vmul h d a b ch) s = execVmul h d a b ch s := rfl
@[simp] theorem exec_vfma {h d a b c ch} : exec (.vfma h d a b c ch) s = execVfma h d a b c ch s := rfl
@[simp] theorem exec_vmin {h d a b ch} : exec (.vmin h d a b ch) s = execVmin h d a b ch s := rfl
@[simp] theorem exec_vmax {h d a b ch} : exec (.vmax h d a b ch) s = execVmax h d a b ch s := rfl
@[simp] theorem exec_vabs {h d a ch} : exec (.vabs h d a ch) s = execVabs h d a ch s := rfl
@[simp] theorem exec_vneg {h d a ch} : exec (.vneg h d a ch) s = execVneg h d a ch s := rfl
@[simp] theorem exec_vand {h d a b ch} : exec (.vand h d a b ch) s = execVand h d a b ch s := rfl
@[simp] theorem exec_vor {h d a b ch} : exec (.vor h d a b ch) s = execVor h d a b ch s := rfl
@[simp] theorem exec_vxor {h d a b ch} : exec (.vxor h d a b ch) s = execVxor h d a b ch s := rfl
@[simp] theorem exec_vshl {h d a b ch} : exec (.vshl h d a b ch) s = execVshl h d a b ch s := rfl
@[simp] theorem exec_vshr {h d a b ch} : exec (.vshr h d a b ch) s = execVshr h d a b ch s := rfl
@[simp] theorem exec_vsra {h d a b ch} : exec (.vsra h d a b ch) s = execVsra h d a b ch s := rfl
@[simp] theorem exec_vmov {h d a ch} : exec (.vmov h d a ch) s = execVmov h d a ch s := rfl
@[simp] theorem exec_vcmp {h pd a b c} : exec (.vcmp h pd a b c) s = execVcmp h pd a b c s := rfl
@[simp] theorem exec_vsel {h d a b ps} : exec (.vsel h d a b ps) s = execVsel h d a b ps s := rfl
@[simp] theorem exec_vmac16 {h d a b c sh} : exec (.vmac16 h d a b c sh) s = execVmac16 h d a b c sh s := rfl
@[simp] theorem exec_vdot4 {h d a b c} : exec (.vdot4 h d a b c) s = execVdot4 h d a b c s := rfl
@[simp] theorem exec_vred {h d a op} : exec (.vred h d a op) s = execVred h d a op s := rfl
@[simp] theorem exec_vscan {h d a op x} : exec (.vscan h d a op x) s = execVscan h d a op x s := rfl
@[simp] theorem exec_vperm {h d a b} : exec (.vperm h d a b) s = execVperm h d a b s := rfl
@[simp] theorem exec_vslide {h d a b k} : exec (.vslide h d a b k) s = execVslide h d a b k s := rfl
@[simp] theorem exec_vbcastScalar {h d x} : exec (.vbcastScalar h d x) s = execVbcastScalar h d x s := rfl
@[simp] theorem exec_vbcastLane {h d a lane} : exec (.vbcastLane h d a lane) s = execVbcastLane h d a lane s := rfl
@[simp] theorem exec_vpopc {h d a} : exec (.vpopc h d a) s = execVpopc h d a s := rfl
@[simp] theorem exec_vcompress {h d a} : exec (.vcompress h d a) s = execVcompress h d a s := rfl
@[simp] theorem exec_vexpand {h d a} : exec (.vexpand h d a) s = execVexpand h d a s := rfl
@[simp] theorem exec_viota {h d} : exec (.viota h d) s = execViota h d s := rfl
@[simp] theorem exec_pand {h pd pa pb} : exec (.pand h pd pa pb) s = execPand h pd pa pb s := rfl
@[simp] theorem exec_por {h pd pa pb} : exec (.por h pd pa pb) s = execPor h pd pa pb s := rfl
@[simp] theorem exec_pxor {h pd pa pb} : exec (.pxor h pd pa pb) s = execPxor h pd pa pb s := rfl
@[simp] theorem exec_pnot {h pd pa} : exec (.pnot h pd pa) s = execPnot h pd pa s := rfl
@[simp] theorem exec_pcnt {h sd pa} : exec (.pcnt h sd pa) s = execPcnt h sd pa s := rfl
@[simp] theorem exec_pfirst {h sd pa} : exec (.pfirst h sd pa) s = execPfirst h sd pa s := rfl
@[simp] theorem exec_vcvt {h d a part src dst sat sr} : exec (.vcvt h d a part src dst sat sr) s = execVcvt h d a part src dst sat sr s := rfl
@[simp] theorem exec_vpackb {h d a part rec sr} : exec (.vpackb h d a part rec sr) s = execVpackb h d a part rec sr s := rfl
@[simp] theorem exec_vunpackb {h d a part rec} : exec (.vunpackb h d a part rec) s = execVunpackb h d a part rec s := rfl
@[simp] theorem exec_vbpackPack {h d a part k bp6 sr} : exec (.vbpackPack h d a part k bp6 sr) s = execVbpackPack h d a part k bp6 sr s := rfl
@[simp] theorem exec_vbpackUnpack {h d a part k bp6} : exec (.vbpackUnpack h d a part k bp6) s = execVbpackUnpack h d a part k bp6 s := rfl
@[simp] theorem exec_vtr {h d idx mt x} : exec (.vtr h d idx mt x) s = execVtr h d idx mt x s := rfl
@[simp] theorem exec_vtw {h idx mt x a} : exec (.vtw h idx mt x a) s = execVtw h idx mt x a s := rfl
@[simp] theorem exec_lreduce {h d a op lvl} : exec (.lreduce h d a op lvl) s = execLreduce h d a op lvl s := rfl
@[simp] theorem exec_nopF : exec (.nopF) s = execNopF s := rfl
@[simp] theorem exec_frcp {st d a p z} : exec (.frcp st d a p z) s = execFrcp st d a p z s := rfl
@[simp] theorem exec_frsq {st d a p z} : exec (.frsq st d a p z) s = execFrsq st d a p z s := rfl
@[simp] theorem exec_fsqrt {st d a p z} : exec (.fsqrt st d a p z) s = execFsqrt st d a p z s := rfl
@[simp] theorem exec_fexp2 {st d a p z} : exec (.fexp2 st d a p z) s = execFexp2 st d a p z s := rfl
@[simp] theorem exec_flog2 {st d a p z} : exec (.flog2 st d a p z) s = execFlog2 st d a p z s := rfl
@[simp] theorem exec_fsig {st d a p z} : exec (.fsig st d a p z) s = execFsig st d a p z s := rfl
@[simp] theorem exec_ftanh {st d a p z} : exec (.ftanh st d a p z) s = execFtanh st d a p z s := rfl
@[simp] theorem exec_fsin {st d a p z} : exec (.fsin st d a p z) s = execFsin st d a p z s := rfl
@[simp] theorem exec_fcos {st d a p z} : exec (.fcos st d a p z) s = execFcos st d a p z s := rfl
@[simp] theorem exec_nopM : exec (.nopM) s = execNopM s := rfl
@[simp] theorem exec_ld {st h d base lur size sx stride ofs} : exec (.ld st h d base lur size sx stride ofs) s = execLd st h d base lur size sx stride ofs s := rfl
@[simp] theorem exec_st {st h x base lur size stride ofs} : exec (.st st h x base lur size stride ofs) s = execSt st h x base lur size stride ofs s := rfl
@[simp] theorem exec_vld {st h p d base lur stride ofs} : exec (.vld st h p d base lur stride ofs) s = execVld st h p d base lur stride ofs s := rfl
@[simp] theorem exec_vst {st h p x base lur stride ofs} : exec (.vst st h p x base lur stride ofs) s = execVst st h p x base lur stride ofs s := rfl
@[simp] theorem exec_vldc {st h p d base stride ofs} : exec (.vldc st h p d base stride ofs) s = execVldc st h p d base stride ofs s := rfl
@[simp] theorem exec_lda {h d base lur size sx ofs} : exec (.lda h d base lur size sx ofs) s = execLda h d base lur size sx ofs s := rfl
@[simp] theorem exec_strel {h x base lur size ofs} : exec (.strel h x base lur size ofs) s = execStrel h x base lur size ofs s := rfl
@[simp] theorem exec_amo {h aop src base cmp rd size ofs} : exec (.amo h aop src base cmp rd size ofs) s = execAmo h aop src base cmp rd size ofs s := rfl
@[simp] theorem exec_cflush {st h base stride ofs} : exec (.cflush st h base stride ofs) s = execCflush st h base stride ofs s := rfl
@[simp] theorem exec_cinv {st h base stride ofs} : exec (.cinv st h base stride ofs) s = execCinv st h base stride ofs s := rfl
@[simp] theorem exec_cpref {st h base stride ofs} : exec (.cpref st h base stride ofs) s = execCpref st h base stride ofs s := rfl
@[simp] theorem exec_vspill {h v base lur n1 ofs} : exec (.vspill h v base lur n1 ofs) s = execVspill h v base lur n1 ofs s := rfl
@[simp] theorem exec_vfill {h v base lur n1 ofs} : exec (.vfill h v base lur n1 ofs) s = execVfill h v base lur n1 ofs s := rfl
@[simp] theorem exec_fenceC {scope mask} : exec (.fenceC scope mask) s = execFenceC scope mask s := rfl
@[simp] theorem exec_fenceR {scope o os} : exec (.fenceR scope o os) s = execFenceR scope o os s := rfl
@[simp] theorem exec_tla {k p lvl node v ti} : exec (.tla k p lvl node v ti) s = execTla k p lvl node v ti s := rfl
@[simp] theorem exec_tld {k p lvl node v ti band} : exec (.tld k p lvl node v ti band) s = execTld k p lvl node v ti band s := rfl
@[simp] theorem exec_tsa {k p lvl node x ti} : exec (.tsa k p lvl node x ti) s = execTsa k p lvl node x ti s := rfl
@[simp] theorem exec_tsd {k p lvl node x ti band} : exec (.tsd k p lvl node x ti band) s = execTsd k p lvl node x ti band s := rfl
@[simp] theorem exec_tdsc {k p lvl node pd ti te} : exec (.tdsc k p lvl node pd ti te) s = execTdsc k p lvl node pd ti te s := rfl
@[simp] theorem exec_tcellCommit {k lvl node ti} : exec (.tcellCommit k lvl node ti) s = execTcellCommit k lvl node ti s := rfl
@[simp] theorem exec_tcellRelease {k lvl node ti} : exec (.tcellRelease k lvl node ti) s = execTcellRelease k lvl node ti s := rfl
@[simp] theorem exec_gath {h d base lur sz idx cnt} : exec (.gath h d base lur sz idx cnt) s = execGath h d base lur sz idx cnt s := rfl
@[simp] theorem exec_scat {h x base lur sz idx cnt} : exec (.scat h x base lur sz idx cnt) s = execScat h x base lur sz idx cnt s := rfl
@[simp] theorem exec_scatAdd {h x base lur sz idx cnt fadd} : exec (.scatAdd h x base lur sz idx cnt fadd) s = execScatAdd h x base lur sz idx cnt fadd s := rfl
@[simp] theorem exec_qpush {core x q} : exec (.qpush core x q) s = execQpush core x q s := rfl
@[simp] theorem exec_qpop {st p d q} : exec (.qpop st p d q) s = execQpop st p d q s := rfl
@[simp] theorem exec_bari {h src base ofs} : exec (.bari h src base ofs) s = execBari h src base ofs s := rfl
@[simp] theorem exec_bara {h src base rd ofs} : exec (.bara h src base rd ofs) s = execBara h src base rd ofs s := rfl
@[simp] theorem exec_barw {h src base ofs} : exec (.barw h src base ofs) s = execBarw h src base ofs s := rfl
@[simp] theorem exec_barx {h base rd ofs} : exec (.barx h base rd ofs) s = execBarx h base rd ofs s := rfl
@[simp] theorem exec_commit {cls cnt base} : exec (.commit cls cnt base) s = execCommit cls cnt base s := rfl
@[simp] theorem exec_decommit {cls cnt base unmap} : exec (.decommit cls cnt base unmap) s = execDecommit cls cnt base unmap s := rfl
@[simp] theorem exec_alloc {h base rd} : exec (.alloc h base rd) s = execAlloc h base rd s := rfl
@[simp] theorem exec_free {h src base} : exec (.free h src base) s = execFree h src base s := rfl
@[simp] theorem exec_tlbinv {scope asid base size} : exec (.tlbinv scope asid base size) s = execTlbinv scope asid base size s := rfl
@[simp] theorem exec_nopX : exec (.nopX) s = execNopX s := rfl
@[simp] theorem exec_mmaScratchpad {k md eb tia base kf} : exec (.mmaScratchpad k md eb tia base kf) s = execMmaScratchpad k md eb tia base kf s := rfl
@[simp] theorem exec_mmaVector {k md eb tia v kf} : exec (.mmaVector k md eb tia v kf) s = execMmaVector k md eb tia v kf s := rfl
@[simp] theorem exec_mmas {k md eb tia base kf} : exec (.mmas k md eb tia base kf) s = execMmas k md eb tia base kf s := rfl
@[simp] theorem exec_lde {k eb tib cmask base} : exec (.lde k eb tib cmask base) s = execLde k eb tib cmask base s := rfl
@[simp] theorem exec_mzero {ks mt} : exec (.mzero ks mt) s = execMzero ks mt s := rfl
@[simp] theorem exec_msave {k mt sp base ofs} : exec (.msave k mt sp base ofs) s = execMsave k mt sp base ofs s := rfl
@[simp] theorem exec_mload {k mt sp base ofs} : exec (.mload k mt sp base ofs) s = execMload k mt sp base ofs s := rfl
@[simp] theorem exec_copy {k desc soff doff} : exec (.copy k desc soff doff) s = execCopy k desc soff doff s := rfl
@[simp] theorem exec_rlay {k tis tid sb db prm rm sat} : exec (.rlay k tis tid sb db prm rm sat) s = execRlay k tis tid sb db prm rm sat s := rfl
@[simp] theorem exec_stage {k n soff doff} : exec (.stage k n soff doff) s = execStage k n soff doff s := rfl
@[simp] theorem exec_mgset {k desc tag} : exec (.mgset k desc tag) s = execMgset k desc tag s := rfl
@[simp] theorem exec_mgpush {k stream v cnt tag} : exec (.mgpush k stream v cnt tag) s = execMgpush k stream v cnt tag s := rfl
@[simp] theorem exec_mgfin {k ti tag tsk dec} : exec (.mgfin k ti tag tsk dec) s = execMgfin k ti tag tsk dec s := rfl
@[simp] theorem exec_contract {k blk} : exec (.contract k blk) s = execContract k blk s := rfl
@[simp] theorem exec_astart {k entry arg} : exec (.astart k entry arg) s = execAstart k entry arg s := rfl
@[simp] theorem exec_astartPost {k flag n} : exec (.astartPost k flag n) s = execAstartPost k flag n s := rfl
@[simp] theorem exec_send {k link sp buf len tag} : exec (.send k link sp buf len tag) s = execSend k link sp buf len tag s := rfl
@[simp] theorem exec_recv {k link sp buf len tag} : exec (.recv k link sp buf len tag) s = execRecv k link sp buf len tag s := rfl
@[simp] theorem exec_ramo {k aop d8 base src cmp rd} : exec (.ramo k aop d8 base src cmp rd) s = execRamo k aop d8 base src cmp rd s := rfl
@[simp] theorem exec_launch {k rec} : exec (.launch k rec) s = execLaunch k rec s := rfl
@[simp] theorem exec_taskset {k ent slot} : exec (.taskset k ent slot) s = execTaskset k ent slot s := rfl
@[simp] theorem exec_taskdec {k val} : exec (.taskdec k val) s = execTaskdec k val s := rfl
@[simp] theorem exec_nopY : exec (.nopY) s = execNopY s := rfl
@[simp] theorem exec_fwait {f n} : exec (.fwait f n) s = execFwait f n s := rfl
@[simp] theorem exec_fpost {f self ctx n} : exec (.fpost f self ctx n) s = execFpost f self ctx n s := rfl
@[simp] theorem exec_fpostr {f a} : exec (.fpostr f a) s = execFpostr f a s := rfl
@[simp] theorem exec_kwait {nt k} : exec (.kwait nt k) s = execKwait nt k s := rfl
@[simp] theorem exec_killScalar {blk mask} : exec (.killScalar blk mask) s = execKillScalar blk mask s := rfl
@[simp] theorem exec_killImmLo {blk imm} : exec (.killImmLo blk imm) s = execKillImmLo blk imm s := rfl
@[simp] theorem exec_killImmHi {blk imm} : exec (.killImmHi blk imm) s = execKillImmHi blk imm s := rfl
@[simp] theorem exec_headerOnlyBundle : exec (.headerOnlyBundle) s = execHeaderOnlyBundle s := rfl
@[simp] theorem exec_instructionFetch {agent} : exec (.instructionFetch agent) s = execInstructionFetch agent s := rfl
@[simp] theorem exec_resultLanding {agent} : exec (.resultLanding agent) s = execResultLanding agent s := rfl
@[simp] theorem exec_lateDataArrival {agent} : exec (.lateDataArrival agent) s = execLateDataArrival agent s := rfl
@[simp] theorem exec_translationAnswer {agent} : exec (.translationAnswer agent) s = execTranslationAnswer agent s := rfl
@[simp] theorem exec_blockEnd {agent} : exec (.blockEnd agent) s = execBlockEnd agent s := rfl
@[simp] theorem exec_quantumBlock {agent} : exec (.quantumBlock agent) s = execQuantumBlock agent s := rfl
@[simp] theorem exec_sfuTake {core} : exec (.sfuTake core) s = execSfuTake core s := rfl
@[simp] theorem exec_storePerform {agent id} : exec (.storePerform agent id) s = execStorePerform agent id s := rfl
@[simp] theorem exec_migrationWindow : exec (.migrationWindow) s = execMigrationWindow s := rfl
@[simp] theorem exec_calendarRotation : exec (.calendarRotation) s = execCalendarRotation s := rfl
@[simp] theorem exec_calendarSlot {channel} : exec (.calendarSlot channel) s = execCalendarSlot channel s := rfl
@[simp] theorem exec_budgetPeriod : exec (.budgetPeriod) s = execBudgetPeriod s := rfl
@[simp] theorem exec_calendarCommit : exec (.calendarCommit) s = execCalendarCommit s := rfl
@[simp] theorem exec_laneLendingHandshake {channel} : exec (.laneLendingHandshake channel) s = execLaneLendingHandshake channel s := rfl
@[simp] theorem exec_arrayCommandStart {core} : exec (.arrayCommandStart core) s = execArrayCommandStart core s := rfl
@[simp] theorem exec_arrayCommandComplete {core} : exec (.arrayCommandComplete core) s = execArrayCommandComplete core s := rfl
@[simp] theorem exec_latchCommandStart {core} : exec (.latchCommandStart core) s = execLatchCommandStart core s := rfl
@[simp] theorem exec_ldeComplete {core} : exec (.ldeComplete core) s = execLdeComplete core s := rfl
@[simp] theorem exec_treeCommandStart {core} : exec (.treeCommandStart core) s = execTreeCommandStart core s := rfl
@[simp] theorem exec_treeAccessPerform {core} : exec (.treeAccessPerform core) s = execTreeAccessPerform core s := rfl
@[simp] theorem exec_copyCommandStart {core} : exec (.copyCommandStart core) s = execCopyCommandStart core s := rfl
@[simp] theorem exec_copyComplete {core id} : exec (.copyComplete core id) s = execCopyComplete core id s := rfl
@[simp] theorem exec_scheduleEntryStart {core} : exec (.scheduleEntryStart core) s = execScheduleEntryStart core s := rfl
@[simp] theorem exec_barrierArrival {n} : exec (.barrierArrival n) s = execBarrierArrival n s := rfl
@[simp] theorem exec_flagPostArrival {n} : exec (.flagPostArrival n) s = execFlagPostArrival n s := rfl
@[simp] theorem exec_mgsetOpen {cluster} : exec (.mgsetOpen cluster) s = execMgsetOpen cluster s := rfl
@[simp] theorem exec_mgpushArrival {cluster} : exec (.mgpushArrival cluster) s = execMgpushArrival cluster s := rfl
@[simp] theorem exec_mgfinClose {cluster} : exec (.mgfinClose cluster) s = execMgfinClose cluster s := rfl
@[simp] theorem exec_accessProgramStart {core} : exec (.accessProgramStart core) s = execAccessProgramStart core s := rfl
@[simp] theorem exec_rangeCounterRelease {core} : exec (.rangeCounterRelease core) s = execRangeCounterRelease core s := rfl
@[simp] theorem exec_freeApply {agent} : exec (.freeApply agent) s = execFreeApply agent s := rfl
@[simp] theorem exec_messageArrival {core} : exec (.messageArrival core) s = execMessageArrival core s := rfl
@[simp] theorem exec_creditReturn {link flits} : exec (.creditReturn link flits) s = execCreditReturn link flits s := rfl
@[simp] theorem exec_recvComplete {core} : exec (.recvComplete core) s = execRecvComplete core s := rfl
@[simp] theorem exec_ramoRemoteOperation {core} : exec (.ramoRemoteOperation core) s = execRamoRemoteOperation core s := rfl
@[simp] theorem exec_remoteSignalDelivery {n} : exec (.remoteSignalDelivery n) s = execRemoteSignalDelivery n s := rfl
@[simp] theorem exec_linkTrained {link} : exec (.linkTrained link) s = execLinkTrained link s := rfl
@[simp] theorem exec_linkDown {link} : exec (.linkDown link) s = execLinkDown link s := rfl
@[simp] theorem exec_hostAccess {pa write data} : exec (.hostAccess pa write data) s = execHostAccess pa write data s := rfl
@[simp] theorem exec_launchAdmission : exec (.launchAdmission) s = execLaunchAdmission s := rfl
@[simp] theorem exec_taskDispatch {ctx} : exec (.taskDispatch ctx) s = execTaskDispatch ctx s := rfl
@[simp] theorem exec_taskStart {ctx} : exec (.taskStart ctx) s = execTaskStart ctx s := rfl
@[simp] theorem exec_taskStaging {core} : exec (.taskStaging core) s = execTaskStaging core s := rfl
@[simp] theorem exec_budgetOverrun {ctx} : exec (.budgetOverrun ctx) s = execBudgetOverrun ctx s := rfl
@[simp] theorem exec_slotDecrement {n} : exec (.slotDecrement n) s = execSlotDecrement n s := rfl
@[simp] theorem exec_slotEnqueue {slot} : exec (.slotEnqueue slot) s = execSlotEnqueue slot s := rfl
@[simp] theorem exec_taskendComplete {agent} : exec (.taskendComplete agent) s = execTaskendComplete agent s := rfl
@[simp] theorem exec_launchCompletion {launch} : exec (.launchCompletion launch) s = execLaunchCompletion launch s := rfl
@[simp] theorem exec_lqtailWrite {v} : exec (.lqtailWrite v) s = execLqtailWrite v s := rfl
@[simp] theorem exec_ringEntryRead : exec (.ringEntryRead) s = execRingEntryRead s := rfl
@[simp] theorem exec_launchQueueReset {v} : exec (.launchQueueReset v) s = execLaunchQueueReset v s := rfl
@[simp] theorem exec_taskRerun {ctx} : exec (.taskRerun ctx) s = execTaskRerun ctx s := rfl
@[simp] theorem exec_machineCheck {ctx} : exec (.machineCheck ctx) s = execMachineCheck ctx s := rfl
@[simp] theorem exec_svcdoneResume {index arg} : exec (.svcdoneResume index arg) s = execSvcdoneResume index arg s := rfl
@[simp] theorem exec_svcdoneEnd {index} : exec (.svcdoneEnd index) s = execSvcdoneEnd index s := rfl
@[simp] theorem exec_svcdoneRerun {index} : exec (.svcdoneRerun index) s = execSvcdoneRerun index s := rfl
@[simp] theorem exec_preemptionRequest {ctx} : exec (.preemptionRequest ctx) s = execPreemptionRequest ctx s := rfl
@[simp] theorem exec_preemptionSaveComplete {ctx} : exec (.preemptionSaveComplete ctx) s = execPreemptionSaveComplete ctx s := rfl
@[simp] theorem exec_contextResume {ctx} : exec (.contextResume ctx) s = execContextResume ctx s := rfl
@[simp] theorem exec_ctxcmdPreempt {ctx} : exec (.ctxcmdPreempt ctx) s = execCtxcmdPreempt ctx s := rfl
@[simp] theorem exec_ctxcmdStop {ctx} : exec (.ctxcmdStop ctx) s = execCtxcmdStop ctx s := rfl
@[simp] theorem exec_ctxcmdResume {ctx} : exec (.ctxcmdResume ctx) s = execCtxcmdResume ctx s := rfl
@[simp] theorem exec_ctxcmdSetdbg {ctx dbg} : exec (.ctxcmdSetdbg ctx dbg) s = execCtxcmdSetdbg ctx dbg s := rfl
@[simp] theorem exec_ctxcmdArmdbg {ctx dbg} : exec (.ctxcmdArmdbg ctx dbg) s = execCtxcmdArmdbg ctx dbg s := rfl
@[simp] theorem exec_debugStop {ctx} : exec (.debugStop ctx) s = execDebugStop ctx s := rfl
@[simp] theorem exec_singleStepStop {ctx} : exec (.singleStepStop ctx) s = execSingleStepStop ctx s := rfl
@[simp] theorem exec_traceOpen {cluster} : exec (.traceOpen cluster) s = execTraceOpen cluster s := rfl
@[simp] theorem exec_traceClose {cluster} : exec (.traceClose cluster) s = execTraceClose cluster s := rfl
@[simp] theorem exec_mgmtcmdLoad {blk} : exec (.mgmtcmdLoad blk) s = execMgmtcmdLoad blk s := rfl
@[simp] theorem exec_mgmtcmdAttest {blk} : exec (.mgmtcmdAttest blk) s = execMgmtcmdAttest blk s := rfl
@[simp] theorem exec_clockStepChange {step} : exec (.clockStepChange step) s = execClockStepChange step s := rfl
@[simp] theorem exec_powerOnReset : exec (.powerOnReset) s = execPowerOnReset s := rfl
@[simp] theorem exec_fullServiceSwitch : exec (.fullServiceSwitch) s = execFullServiceSwitch s := rfl
@[simp] theorem exec_coreLeavesReset {core} : exec (.coreLeavesReset core) s = execCoreLeavesReset core s := rfl
@[simp] theorem exec_registerWrite {csel unit v} : exec (.registerWrite csel unit v) s = execRegisterWrite csel unit v s := rfl
@[simp] theorem exec_coreEntersReset {core} : exec (.coreEntersReset core) s = execCoreEntersReset core s := rfl
@[simp] theorem exec_corePowerGate {core} : exec (.corePowerGate core) s = execCorePowerGate core s := rfl
@[simp] theorem exec_corePowerUngate {core} : exec (.corePowerUngate core) s = execCorePowerUngate core s := rfl
@[simp] theorem exec_inboundFabricAccess {pa write data} : exec (.inboundFabricAccess pa write data) s = execInboundFabricAccess pa write data s := rfl
@[simp] theorem exec_tasksetArm {core} : exec (.tasksetArm core) s = execTasksetArm core s := rfl

end Sys2Proof.Machine
end

