-- ==== Sys2Proof/Laws/State.lean ====
section
/-! SUPPORT. Laws/State.lean: what each update of State leaves and writes, field by field. -/

namespace Sys2Proof.Machine

variable (s : State)

@[simp] theorem State.setCtx_free (a : Nat) (c : Ctx) : (s.setCtx a c).free = s.free := rfl
@[simp] theorem State.setCtx_mem (a : Nat) (c : Ctx) : (s.setCtx a c).mem = s.mem := rfl
@[simp] theorem State.setCtx_stale (a : Nat) (c : Ctx) : (s.setCtx a c).stale = s.stale := rfl
@[simp] theorem State.setCtx_l2 (a : Nat) (c : Ctx) : (s.setCtx a c).l2 = s.l2 := rfl
@[simp] theorem State.setCtx_bars (a : Nat) (c : Ctx) : (s.setCtx a c).bars = s.bars := rfl
@[simp] theorem State.setCtx_ctxs (a : Nat) (c : Ctx) : (s.setCtx a c).ctxs = mset {} s.ctxs a c := rfl
@[simp] theorem State.setCtx_images (a : Nat) (c : Ctx) : (s.setCtx a c).images = s.images := rfl
@[simp] theorem State.setCtx_cores (a : Nat) (c : Ctx) : (s.setCtx a c).cores = s.cores := rfl
@[simp] theorem State.setCtx_clusters (a : Nat) (c : Ctx) : (s.setCtx a c).clusters = s.clusters := rfl
@[simp] theorem State.setCtx_dev (a : Nat) (c : Ctx) : (s.setCtx a c).dev = s.dev := rfl
@[simp] theorem State.setCtx_issue (a : Nat) (c : Ctx) : (s.setCtx a c).issue = s.issue := rfl
@[simp] theorem State.setCtx_env (a : Nat) (c : Ctx) : (s.setCtx a c).env = s.env := rfl
@[simp] theorem State.setCtx_agenda (a : Nat) (c : Ctx) : (s.setCtx a c).agenda = s.agenda := rfl
@[simp] theorem State.setCtx_cur (a : Nat) (c : Ctx) : (s.setCtx a c).cur = s.cur := rfl
@[simp] theorem State.setCtx_bg (a : Nat) (c : Ctx) : (s.setCtx a c).bg = s.bg := rfl

@[simp] theorem State.modCtx_free (a : Nat) (f : Ctx → Ctx) : (s.modCtx a f).free = s.free := rfl
@[simp] theorem State.modCtx_mem (a : Nat) (f : Ctx → Ctx) : (s.modCtx a f).mem = s.mem := rfl
@[simp] theorem State.modCtx_stale (a : Nat) (f : Ctx → Ctx) : (s.modCtx a f).stale = s.stale := rfl
@[simp] theorem State.modCtx_l2 (a : Nat) (f : Ctx → Ctx) : (s.modCtx a f).l2 = s.l2 := rfl
@[simp] theorem State.modCtx_bars (a : Nat) (f : Ctx → Ctx) : (s.modCtx a f).bars = s.bars := rfl
@[simp] theorem State.modCtx_ctxs (a : Nat) (f : Ctx → Ctx) : (s.modCtx a f).ctxs = mset {} s.ctxs a (f (s.ctx a)) := rfl
@[simp] theorem State.modCtx_images (a : Nat) (f : Ctx → Ctx) : (s.modCtx a f).images = s.images := rfl
@[simp] theorem State.modCtx_cores (a : Nat) (f : Ctx → Ctx) : (s.modCtx a f).cores = s.cores := rfl
@[simp] theorem State.modCtx_clusters (a : Nat) (f : Ctx → Ctx) : (s.modCtx a f).clusters = s.clusters := rfl
@[simp] theorem State.modCtx_dev (a : Nat) (f : Ctx → Ctx) : (s.modCtx a f).dev = s.dev := rfl
@[simp] theorem State.modCtx_issue (a : Nat) (f : Ctx → Ctx) : (s.modCtx a f).issue = s.issue := rfl
@[simp] theorem State.modCtx_env (a : Nat) (f : Ctx → Ctx) : (s.modCtx a f).env = s.env := rfl
@[simp] theorem State.modCtx_agenda (a : Nat) (f : Ctx → Ctx) : (s.modCtx a f).agenda = s.agenda := rfl
@[simp] theorem State.modCtx_cur (a : Nat) (f : Ctx → Ctx) : (s.modCtx a f).cur = s.cur := rfl
@[simp] theorem State.modCtx_bg (a : Nat) (f : Ctx → Ctx) : (s.modCtx a f).bg = s.bg := rfl

@[simp] theorem State.modMe_free (f : Ctx → Ctx) : (s.modMe f).free = s.free := rfl
@[simp] theorem State.modMe_mem (f : Ctx → Ctx) : (s.modMe f).mem = s.mem := rfl
@[simp] theorem State.modMe_stale (f : Ctx → Ctx) : (s.modMe f).stale = s.stale := rfl
@[simp] theorem State.modMe_l2 (f : Ctx → Ctx) : (s.modMe f).l2 = s.l2 := rfl
@[simp] theorem State.modMe_bars (f : Ctx → Ctx) : (s.modMe f).bars = s.bars := rfl
@[simp] theorem State.modMe_ctxs (f : Ctx → Ctx) : (s.modMe f).ctxs = mset {} s.ctxs s.issue.agent (f s.me) := rfl
@[simp] theorem State.modMe_images (f : Ctx → Ctx) : (s.modMe f).images = s.images := rfl
@[simp] theorem State.modMe_cores (f : Ctx → Ctx) : (s.modMe f).cores = s.cores := rfl
@[simp] theorem State.modMe_clusters (f : Ctx → Ctx) : (s.modMe f).clusters = s.clusters := rfl
@[simp] theorem State.modMe_dev (f : Ctx → Ctx) : (s.modMe f).dev = s.dev := rfl
@[simp] theorem State.modMe_issue (f : Ctx → Ctx) : (s.modMe f).issue = s.issue := rfl
@[simp] theorem State.modMe_env (f : Ctx → Ctx) : (s.modMe f).env = s.env := rfl
@[simp] theorem State.modMe_agenda (f : Ctx → Ctx) : (s.modMe f).agenda = s.agenda := rfl
@[simp] theorem State.modMe_cur (f : Ctx → Ctx) : (s.modMe f).cur = s.cur := rfl
@[simp] theorem State.modMe_bg (f : Ctx → Ctx) : (s.modMe f).bg = s.bg := rfl

@[simp] theorem State.setCore_free (n : Nat) (c : Core) : (s.setCore n c).free = s.free := rfl
@[simp] theorem State.setCore_mem (n : Nat) (c : Core) : (s.setCore n c).mem = s.mem := rfl
@[simp] theorem State.setCore_stale (n : Nat) (c : Core) : (s.setCore n c).stale = s.stale := rfl
@[simp] theorem State.setCore_l2 (n : Nat) (c : Core) : (s.setCore n c).l2 = s.l2 := rfl
@[simp] theorem State.setCore_bars (n : Nat) (c : Core) : (s.setCore n c).bars = s.bars := rfl
@[simp] theorem State.setCore_ctxs (n : Nat) (c : Core) : (s.setCore n c).ctxs = s.ctxs := rfl
@[simp] theorem State.setCore_images (n : Nat) (c : Core) : (s.setCore n c).images = s.images := rfl
@[simp] theorem State.setCore_cores (n : Nat) (c : Core) : (s.setCore n c).cores = mset {} s.cores n c := rfl
@[simp] theorem State.setCore_clusters (n : Nat) (c : Core) : (s.setCore n c).clusters = s.clusters := rfl
@[simp] theorem State.setCore_dev (n : Nat) (c : Core) : (s.setCore n c).dev = s.dev := rfl
@[simp] theorem State.setCore_issue (n : Nat) (c : Core) : (s.setCore n c).issue = s.issue := rfl
@[simp] theorem State.setCore_env (n : Nat) (c : Core) : (s.setCore n c).env = s.env := rfl
@[simp] theorem State.setCore_agenda (n : Nat) (c : Core) : (s.setCore n c).agenda = s.agenda := rfl
@[simp] theorem State.setCore_cur (n : Nat) (c : Core) : (s.setCore n c).cur = s.cur := rfl
@[simp] theorem State.setCore_bg (n : Nat) (c : Core) : (s.setCore n c).bg = s.bg := rfl

@[simp] theorem State.modCore_free (n : Nat) (f : Core → Core) : (s.modCore n f).free = s.free := rfl
@[simp] theorem State.modCore_mem (n : Nat) (f : Core → Core) : (s.modCore n f).mem = s.mem := rfl
@[simp] theorem State.modCore_stale (n : Nat) (f : Core → Core) : (s.modCore n f).stale = s.stale := rfl
@[simp] theorem State.modCore_l2 (n : Nat) (f : Core → Core) : (s.modCore n f).l2 = s.l2 := rfl
@[simp] theorem State.modCore_bars (n : Nat) (f : Core → Core) : (s.modCore n f).bars = s.bars := rfl
@[simp] theorem State.modCore_ctxs (n : Nat) (f : Core → Core) : (s.modCore n f).ctxs = s.ctxs := rfl
@[simp] theorem State.modCore_images (n : Nat) (f : Core → Core) : (s.modCore n f).images = s.images := rfl
@[simp] theorem State.modCore_cores (n : Nat) (f : Core → Core) : (s.modCore n f).cores = mset {} s.cores n (f (s.core n)) := rfl
@[simp] theorem State.modCore_clusters (n : Nat) (f : Core → Core) : (s.modCore n f).clusters = s.clusters := rfl
@[simp] theorem State.modCore_dev (n : Nat) (f : Core → Core) : (s.modCore n f).dev = s.dev := rfl
@[simp] theorem State.modCore_issue (n : Nat) (f : Core → Core) : (s.modCore n f).issue = s.issue := rfl
@[simp] theorem State.modCore_env (n : Nat) (f : Core → Core) : (s.modCore n f).env = s.env := rfl
@[simp] theorem State.modCore_agenda (n : Nat) (f : Core → Core) : (s.modCore n f).agenda = s.agenda := rfl
@[simp] theorem State.modCore_cur (n : Nat) (f : Core → Core) : (s.modCore n f).cur = s.cur := rfl
@[simp] theorem State.modCore_bg (n : Nat) (f : Core → Core) : (s.modCore n f).bg = s.bg := rfl

@[simp] theorem State.setCluster_free (n : Nat) (c : Cluster) : (s.setCluster n c).free = s.free := rfl
@[simp] theorem State.setCluster_mem (n : Nat) (c : Cluster) : (s.setCluster n c).mem = s.mem := rfl
@[simp] theorem State.setCluster_stale (n : Nat) (c : Cluster) : (s.setCluster n c).stale = s.stale := rfl
@[simp] theorem State.setCluster_l2 (n : Nat) (c : Cluster) : (s.setCluster n c).l2 = s.l2 := rfl
@[simp] theorem State.setCluster_bars (n : Nat) (c : Cluster) : (s.setCluster n c).bars = s.bars := rfl
@[simp] theorem State.setCluster_ctxs (n : Nat) (c : Cluster) : (s.setCluster n c).ctxs = s.ctxs := rfl
@[simp] theorem State.setCluster_images (n : Nat) (c : Cluster) : (s.setCluster n c).images = s.images := rfl
@[simp] theorem State.setCluster_cores (n : Nat) (c : Cluster) : (s.setCluster n c).cores = s.cores := rfl
@[simp] theorem State.setCluster_clusters (n : Nat) (c : Cluster) : (s.setCluster n c).clusters = mset {} s.clusters n c := rfl
@[simp] theorem State.setCluster_dev (n : Nat) (c : Cluster) : (s.setCluster n c).dev = s.dev := rfl
@[simp] theorem State.setCluster_issue (n : Nat) (c : Cluster) : (s.setCluster n c).issue = s.issue := rfl
@[simp] theorem State.setCluster_env (n : Nat) (c : Cluster) : (s.setCluster n c).env = s.env := rfl
@[simp] theorem State.setCluster_agenda (n : Nat) (c : Cluster) : (s.setCluster n c).agenda = s.agenda := rfl
@[simp] theorem State.setCluster_cur (n : Nat) (c : Cluster) : (s.setCluster n c).cur = s.cur := rfl
@[simp] theorem State.setCluster_bg (n : Nat) (c : Cluster) : (s.setCluster n c).bg = s.bg := rfl

@[simp] theorem State.modCluster_free (n : Nat) (f : Cluster → Cluster) : (s.modCluster n f).free = s.free := rfl
@[simp] theorem State.modCluster_mem (n : Nat) (f : Cluster → Cluster) : (s.modCluster n f).mem = s.mem := rfl
@[simp] theorem State.modCluster_stale (n : Nat) (f : Cluster → Cluster) : (s.modCluster n f).stale = s.stale := rfl
@[simp] theorem State.modCluster_l2 (n : Nat) (f : Cluster → Cluster) : (s.modCluster n f).l2 = s.l2 := rfl
@[simp] theorem State.modCluster_bars (n : Nat) (f : Cluster → Cluster) : (s.modCluster n f).bars = s.bars := rfl
@[simp] theorem State.modCluster_ctxs (n : Nat) (f : Cluster → Cluster) : (s.modCluster n f).ctxs = s.ctxs := rfl
@[simp] theorem State.modCluster_images (n : Nat) (f : Cluster → Cluster) : (s.modCluster n f).images = s.images := rfl
@[simp] theorem State.modCluster_cores (n : Nat) (f : Cluster → Cluster) : (s.modCluster n f).cores = s.cores := rfl
@[simp] theorem State.modCluster_clusters (n : Nat) (f : Cluster → Cluster) : (s.modCluster n f).clusters = mset {} s.clusters n (f (s.cluster n)) := rfl
@[simp] theorem State.modCluster_dev (n : Nat) (f : Cluster → Cluster) : (s.modCluster n f).dev = s.dev := rfl
@[simp] theorem State.modCluster_issue (n : Nat) (f : Cluster → Cluster) : (s.modCluster n f).issue = s.issue := rfl
@[simp] theorem State.modCluster_env (n : Nat) (f : Cluster → Cluster) : (s.modCluster n f).env = s.env := rfl
@[simp] theorem State.modCluster_agenda (n : Nat) (f : Cluster → Cluster) : (s.modCluster n f).agenda = s.agenda := rfl
@[simp] theorem State.modCluster_cur (n : Nat) (f : Cluster → Cluster) : (s.modCluster n f).cur = s.cur := rfl
@[simp] theorem State.modCluster_bg (n : Nat) (f : Cluster → Cluster) : (s.modCluster n f).bg = s.bg := rfl

@[simp] theorem State.modDev_free (f : Device → Device) : (s.modDev f).free = s.free := rfl
@[simp] theorem State.modDev_mem (f : Device → Device) : (s.modDev f).mem = s.mem := rfl
@[simp] theorem State.modDev_stale (f : Device → Device) : (s.modDev f).stale = s.stale := rfl
@[simp] theorem State.modDev_l2 (f : Device → Device) : (s.modDev f).l2 = s.l2 := rfl
@[simp] theorem State.modDev_bars (f : Device → Device) : (s.modDev f).bars = s.bars := rfl
@[simp] theorem State.modDev_ctxs (f : Device → Device) : (s.modDev f).ctxs = s.ctxs := rfl
@[simp] theorem State.modDev_images (f : Device → Device) : (s.modDev f).images = s.images := rfl
@[simp] theorem State.modDev_cores (f : Device → Device) : (s.modDev f).cores = s.cores := rfl
@[simp] theorem State.modDev_clusters (f : Device → Device) : (s.modDev f).clusters = s.clusters := rfl
@[simp] theorem State.modDev_dev (f : Device → Device) : (s.modDev f).dev = f s.dev := rfl
@[simp] theorem State.modDev_issue (f : Device → Device) : (s.modDev f).issue = s.issue := rfl
@[simp] theorem State.modDev_env (f : Device → Device) : (s.modDev f).env = s.env := rfl
@[simp] theorem State.modDev_agenda (f : Device → Device) : (s.modDev f).agenda = s.agenda := rfl
@[simp] theorem State.modDev_cur (f : Device → Device) : (s.modDev f).cur = s.cur := rfl
@[simp] theorem State.modDev_bg (f : Device → Device) : (s.modDev f).bg = s.bg := rfl

@[simp] theorem State.modChannel_free (n : Nat) (f : Channel → Channel) : (s.modChannel n f).free = s.free := rfl
@[simp] theorem State.modChannel_mem (n : Nat) (f : Channel → Channel) : (s.modChannel n f).mem = s.mem := rfl
@[simp] theorem State.modChannel_stale (n : Nat) (f : Channel → Channel) : (s.modChannel n f).stale = s.stale := rfl
@[simp] theorem State.modChannel_l2 (n : Nat) (f : Channel → Channel) : (s.modChannel n f).l2 = s.l2 := rfl
@[simp] theorem State.modChannel_bars (n : Nat) (f : Channel → Channel) : (s.modChannel n f).bars = s.bars := rfl
@[simp] theorem State.modChannel_ctxs (n : Nat) (f : Channel → Channel) : (s.modChannel n f).ctxs = s.ctxs := rfl
@[simp] theorem State.modChannel_images (n : Nat) (f : Channel → Channel) : (s.modChannel n f).images = s.images := rfl
@[simp] theorem State.modChannel_cores (n : Nat) (f : Channel → Channel) : (s.modChannel n f).cores = s.cores := rfl
@[simp] theorem State.modChannel_clusters (n : Nat) (f : Channel → Channel) : (s.modChannel n f).clusters = s.clusters := rfl
@[simp] theorem State.modChannel_dev (n : Nat) (f : Channel → Channel) : (s.modChannel n f).dev = { s.dev with channels := mset {} s.dev.channels n (f (mget {} s.dev.channels n)) } := rfl
@[simp] theorem State.modChannel_issue (n : Nat) (f : Channel → Channel) : (s.modChannel n f).issue = s.issue := rfl
@[simp] theorem State.modChannel_env (n : Nat) (f : Channel → Channel) : (s.modChannel n f).env = s.env := rfl
@[simp] theorem State.modChannel_agenda (n : Nat) (f : Channel → Channel) : (s.modChannel n f).agenda = s.agenda := rfl
@[simp] theorem State.modChannel_cur (n : Nat) (f : Channel → Channel) : (s.modChannel n f).cur = s.cur := rfl
@[simp] theorem State.modChannel_bg (n : Nat) (f : Channel → Channel) : (s.modChannel n f).bg = s.bg := rfl

@[simp] theorem State.modIssue_free (f : Issue → Issue) : (s.modIssue f).free = s.free := rfl
@[simp] theorem State.modIssue_mem (f : Issue → Issue) : (s.modIssue f).mem = s.mem := rfl
@[simp] theorem State.modIssue_stale (f : Issue → Issue) : (s.modIssue f).stale = s.stale := rfl
@[simp] theorem State.modIssue_l2 (f : Issue → Issue) : (s.modIssue f).l2 = s.l2 := rfl
@[simp] theorem State.modIssue_bars (f : Issue → Issue) : (s.modIssue f).bars = s.bars := rfl
@[simp] theorem State.modIssue_ctxs (f : Issue → Issue) : (s.modIssue f).ctxs = s.ctxs := rfl
@[simp] theorem State.modIssue_images (f : Issue → Issue) : (s.modIssue f).images = s.images := rfl
@[simp] theorem State.modIssue_cores (f : Issue → Issue) : (s.modIssue f).cores = s.cores := rfl
@[simp] theorem State.modIssue_clusters (f : Issue → Issue) : (s.modIssue f).clusters = s.clusters := rfl
@[simp] theorem State.modIssue_dev (f : Issue → Issue) : (s.modIssue f).dev = s.dev := rfl
@[simp] theorem State.modIssue_issue (f : Issue → Issue) : (s.modIssue f).issue = f s.issue := rfl
@[simp] theorem State.modIssue_env (f : Issue → Issue) : (s.modIssue f).env = s.env := rfl
@[simp] theorem State.modIssue_agenda (f : Issue → Issue) : (s.modIssue f).agenda = s.agenda := rfl
@[simp] theorem State.modIssue_cur (f : Issue → Issue) : (s.modIssue f).cur = s.cur := rfl
@[simp] theorem State.modIssue_bg (f : Issue → Issue) : (s.modIssue f).bg = s.bg := rfl

@[simp] theorem State.tick_free : (s.tick).free = s.free + 1 := rfl
@[simp] theorem State.tick_mem : (s.tick).mem = s.mem := rfl
@[simp] theorem State.tick_stale : (s.tick).stale = s.stale := rfl
@[simp] theorem State.tick_l2 : (s.tick).l2 = s.l2 := rfl
@[simp] theorem State.tick_bars : (s.tick).bars = s.bars := rfl
@[simp] theorem State.tick_ctxs : (s.tick).ctxs = s.ctxs := rfl
@[simp] theorem State.tick_images : (s.tick).images = s.images := rfl
@[simp] theorem State.tick_cores : (s.tick).cores = s.cores := rfl
@[simp] theorem State.tick_clusters : (s.tick).clusters = s.clusters := rfl
@[simp] theorem State.tick_dev : (s.tick).dev = s.dev := rfl
@[simp] theorem State.tick_issue : (s.tick).issue = s.issue := rfl
@[simp] theorem State.tick_env : (s.tick).env = s.env := rfl
@[simp] theorem State.tick_agenda : (s.tick).agenda = s.agenda := rfl
@[simp] theorem State.tick_cur : (s.tick).cur = s.cur := rfl
@[simp] theorem State.tick_bg : (s.tick).bg = s.bg := rfl

@[simp] theorem State.setByte_free (k : Nat) (b : Byte) : (s.setByte k b).free = s.free := rfl
@[simp] theorem State.setByte_mem (k : Nat) (b : Byte) : (s.setByte k b).mem = mset 0 s.mem k b := rfl
@[simp] theorem State.setByte_stale (k : Nat) (b : Byte) : (s.setByte k b).stale = s.stale := rfl
@[simp] theorem State.setByte_l2 (k : Nat) (b : Byte) : (s.setByte k b).l2 = s.l2 := rfl
@[simp] theorem State.setByte_bars (k : Nat) (b : Byte) : (s.setByte k b).bars = s.bars := rfl
@[simp] theorem State.setByte_ctxs (k : Nat) (b : Byte) : (s.setByte k b).ctxs = s.ctxs := rfl
@[simp] theorem State.setByte_images (k : Nat) (b : Byte) : (s.setByte k b).images = s.images := rfl
@[simp] theorem State.setByte_cores (k : Nat) (b : Byte) : (s.setByte k b).cores = s.cores := rfl
@[simp] theorem State.setByte_clusters (k : Nat) (b : Byte) : (s.setByte k b).clusters = s.clusters := rfl
@[simp] theorem State.setByte_dev (k : Nat) (b : Byte) : (s.setByte k b).dev = s.dev := rfl
@[simp] theorem State.setByte_issue (k : Nat) (b : Byte) : (s.setByte k b).issue = s.issue := rfl
@[simp] theorem State.setByte_env (k : Nat) (b : Byte) : (s.setByte k b).env = s.env := rfl
@[simp] theorem State.setByte_agenda (k : Nat) (b : Byte) : (s.setByte k b).agenda = s.agenda := rfl
@[simp] theorem State.setByte_cur (k : Nat) (b : Byte) : (s.setByte k b).cur = s.cur := rfl
@[simp] theorem State.setByte_bg (k : Nat) (b : Byte) : (s.setByte k b).bg = s.bg := rfl

variable (c : Ctx)

@[simp] theorem Ctx.addRec_mode (r : Rec) : (c.addRec r).mode = c.mode := rfl
@[simp] theorem Ctx.addRec_pc (r : Rec) : (c.addRec r).pc = c.pc := rfl
@[simp] theorem Ctx.addRec_regs (r : Rec) : (c.addRec r).regs = c.regs := rfl
@[simp] theorem Ctx.addRec_flow (r : Rec) : (c.addRec r).flow = { c.flow with records := c.flow.records ++ [r] } := rfl
@[simp] theorem Ctx.addRec_saved (r : Rec) : (c.addRec r).saved = c.saved := rfl
@[simp] theorem Ctx.addRec_ctl (r : Rec) : (c.addRec r).ctl = c.ctl := rfl
@[simp] theorem Ctx.addRec_toks (r : Rec) : (c.addRec r).toks = c.toks := rfl
@[simp] theorem Ctx.addRec_past (r : Rec) : (c.addRec r).past = c.past := rfl
@[simp] theorem Ctx.addRec_flags (r : Rec) : (c.addRec r).flags = c.flags := rfl
@[simp] theorem Ctx.addRec_tis (r : Rec) : (c.addRec r).tis = c.tis := rfl
@[simp] theorem Ctx.addRec_order (r : Rec) : (c.addRec r).order = c.order := rfl
@[simp] theorem Ctx.addRec_task (r : Rec) : (c.addRec r).task = c.task := rfl
@[simp] theorem Ctx.addRec_allot (r : Rec) : (c.addRec r).allot = c.allot := rfl
@[simp] theorem Ctx.addRec_sched (r : Rec) : (c.addRec r).sched = c.sched := rfl
@[simp] theorem Ctx.addRec_ridx (r : Rec) : (c.addRec r).ridx = c.ridx := rfl
@[simp] theorem Ctx.addRec_iflat (r : Rec) : (c.addRec r).iflat = c.iflat := rfl
@[simp] theorem Ctx.addRec_group (r : Rec) : (c.addRec r).group = c.group := rfl
@[simp] theorem Ctx.addRec_groupNew (r : Rec) : (c.addRec r).groupNew = c.groupNew := rfl
@[simp] theorem Ctx.addRec_quantum (r : Rec) : (c.addRec r).quantum = c.quantum := rfl
@[simp] theorem Ctx.addRec_waiting (r : Rec) : (c.addRec r).waiting = c.waiting := rfl
@[simp] theorem Ctx.addRec_barw (r : Rec) : (c.addRec r).barw = c.barw := rfl
@[simp] theorem Ctx.addRec_moving (r : Rec) : (c.addRec r).moving = c.moving := rfl
@[simp] theorem Ctx.addRec_moveAt (r : Rec) : (c.addRec r).moveAt = c.moveAt := rfl
@[simp] theorem Ctx.addRec_answer (r : Rec) : (c.addRec r).answer = c.answer := rfl
@[simp] theorem Ctx.addRec_whole (r : Rec) : (c.addRec r).whole = c.whole := rfl
@[simp] theorem Ctx.addRec_lines (r : Rec) : (c.addRec r).lines = c.lines := rfl
@[simp] theorem Ctx.addRec_hold (r : Rec) : (c.addRec r).hold = c.hold := rfl
@[simp] theorem Ctx.addRec_parked (r : Rec) : (c.addRec r).parked = c.parked := rfl
@[simp] theorem Ctx.addRec_armed (r : Rec) : (c.addRec r).armed = c.armed := rfl
@[simp] theorem Ctx.addRec_dir (r : Rec) : (c.addRec r).dir = c.dir := rfl
@[simp] theorem Ctx.addRec_noArea (r : Rec) : (c.addRec r).noArea = c.noArea := rfl
@[simp] theorem Ctx.addRec_saver (r : Rec) : (c.addRec r).saver = c.saver := rfl
@[simp] theorem Ctx.addRec_answered (r : Rec) : (c.addRec r).answered = c.answered := rfl
@[simp] theorem Ctx.addRec_stopAt (r : Rec) : (c.addRec r).stopAt = c.stopAt := rfl

@[simp] theorem Ctx.afterSlot_mode (h : FMap (Option Hold)) (g : List Nat) : (c.afterSlot h g).mode = c.mode := rfl
@[simp] theorem Ctx.afterSlot_pc (h : FMap (Option Hold)) (g : List Nat) : (c.afterSlot h g).pc = c.pc := rfl
@[simp] theorem Ctx.afterSlot_regs (h : FMap (Option Hold)) (g : List Nat) : (c.afterSlot h g).regs = c.regs := rfl
@[simp] theorem Ctx.afterSlot_flow (h : FMap (Option Hold)) (g : List Nat) : (c.afterSlot h g).flow = { c.flow with holds := h } := rfl
@[simp] theorem Ctx.afterSlot_saved (h : FMap (Option Hold)) (g : List Nat) : (c.afterSlot h g).saved = c.saved := rfl
@[simp] theorem Ctx.afterSlot_ctl (h : FMap (Option Hold)) (g : List Nat) : (c.afterSlot h g).ctl = c.ctl := rfl
@[simp] theorem Ctx.afterSlot_toks (h : FMap (Option Hold)) (g : List Nat) : (c.afterSlot h g).toks = c.toks := rfl
@[simp] theorem Ctx.afterSlot_past (h : FMap (Option Hold)) (g : List Nat) : (c.afterSlot h g).past = c.past := rfl
@[simp] theorem Ctx.afterSlot_flags (h : FMap (Option Hold)) (g : List Nat) : (c.afterSlot h g).flags = c.flags := rfl
@[simp] theorem Ctx.afterSlot_tis (h : FMap (Option Hold)) (g : List Nat) : (c.afterSlot h g).tis = c.tis := rfl
@[simp] theorem Ctx.afterSlot_order (h : FMap (Option Hold)) (g : List Nat) : (c.afterSlot h g).order = c.order := rfl
@[simp] theorem Ctx.afterSlot_task (h : FMap (Option Hold)) (g : List Nat) : (c.afterSlot h g).task = c.task := rfl
@[simp] theorem Ctx.afterSlot_allot (h : FMap (Option Hold)) (g : List Nat) : (c.afterSlot h g).allot = c.allot := rfl
@[simp] theorem Ctx.afterSlot_sched (h : FMap (Option Hold)) (g : List Nat) : (c.afterSlot h g).sched = c.sched := rfl
@[simp] theorem Ctx.afterSlot_ridx (h : FMap (Option Hold)) (g : List Nat) : (c.afterSlot h g).ridx = c.ridx := rfl
@[simp] theorem Ctx.afterSlot_iflat (h : FMap (Option Hold)) (g : List Nat) : (c.afterSlot h g).iflat = c.iflat := rfl
@[simp] theorem Ctx.afterSlot_group (h : FMap (Option Hold)) (g : List Nat) : (c.afterSlot h g).group = c.group := rfl
@[simp] theorem Ctx.afterSlot_groupNew (h : FMap (Option Hold)) (g : List Nat) : (c.afterSlot h g).groupNew = g ++ c.groupNew := rfl
@[simp] theorem Ctx.afterSlot_quantum (h : FMap (Option Hold)) (g : List Nat) : (c.afterSlot h g).quantum = c.quantum := rfl
@[simp] theorem Ctx.afterSlot_waiting (h : FMap (Option Hold)) (g : List Nat) : (c.afterSlot h g).waiting = c.waiting := rfl
@[simp] theorem Ctx.afterSlot_barw (h : FMap (Option Hold)) (g : List Nat) : (c.afterSlot h g).barw = c.barw := rfl
@[simp] theorem Ctx.afterSlot_moving (h : FMap (Option Hold)) (g : List Nat) : (c.afterSlot h g).moving = c.moving := rfl
@[simp] theorem Ctx.afterSlot_moveAt (h : FMap (Option Hold)) (g : List Nat) : (c.afterSlot h g).moveAt = c.moveAt := rfl
@[simp] theorem Ctx.afterSlot_answer (h : FMap (Option Hold)) (g : List Nat) : (c.afterSlot h g).answer = c.answer := rfl
@[simp] theorem Ctx.afterSlot_whole (h : FMap (Option Hold)) (g : List Nat) : (c.afterSlot h g).whole = c.whole := rfl
@[simp] theorem Ctx.afterSlot_lines (h : FMap (Option Hold)) (g : List Nat) : (c.afterSlot h g).lines = c.lines := rfl
@[simp] theorem Ctx.afterSlot_hold (h : FMap (Option Hold)) (g : List Nat) : (c.afterSlot h g).hold = c.hold := rfl
@[simp] theorem Ctx.afterSlot_parked (h : FMap (Option Hold)) (g : List Nat) : (c.afterSlot h g).parked = c.parked := rfl
@[simp] theorem Ctx.afterSlot_armed (h : FMap (Option Hold)) (g : List Nat) : (c.afterSlot h g).armed = c.armed := rfl
@[simp] theorem Ctx.afterSlot_dir (h : FMap (Option Hold)) (g : List Nat) : (c.afterSlot h g).dir = c.dir := rfl
@[simp] theorem Ctx.afterSlot_noArea (h : FMap (Option Hold)) (g : List Nat) : (c.afterSlot h g).noArea = c.noArea := rfl
@[simp] theorem Ctx.afterSlot_saver (h : FMap (Option Hold)) (g : List Nat) : (c.afterSlot h g).saver = c.saver := rfl
@[simp] theorem Ctx.afterSlot_answered (h : FMap (Option Hold)) (g : List Nat) : (c.afterSlot h g).answered = c.answered := rfl
@[simp] theorem Ctx.afterSlot_stopAt (h : FMap (Option Hold)) (g : List Nat) : (c.afterSlot h g).stopAt = c.stopAt := rfl

@[simp] theorem Ctx.setSticky_mode (n : Nat) (v : Option Sticky) : (c.setSticky n v).mode = c.mode := rfl
@[simp] theorem Ctx.setSticky_pc (n : Nat) (v : Option Sticky) : (c.setSticky n v).pc = c.pc := rfl
@[simp] theorem Ctx.setSticky_regs (n : Nat) (v : Option Sticky) : (c.setSticky n v).regs = c.regs := rfl
@[simp] theorem Ctx.setSticky_flow (n : Nat) (v : Option Sticky) : (c.setSticky n v).flow = { c.flow with sticky := mset none c.flow.sticky n v } := rfl
@[simp] theorem Ctx.setSticky_saved (n : Nat) (v : Option Sticky) : (c.setSticky n v).saved = c.saved := rfl
@[simp] theorem Ctx.setSticky_ctl (n : Nat) (v : Option Sticky) : (c.setSticky n v).ctl = c.ctl := rfl
@[simp] theorem Ctx.setSticky_toks (n : Nat) (v : Option Sticky) : (c.setSticky n v).toks = c.toks := rfl
@[simp] theorem Ctx.setSticky_past (n : Nat) (v : Option Sticky) : (c.setSticky n v).past = c.past := rfl
@[simp] theorem Ctx.setSticky_flags (n : Nat) (v : Option Sticky) : (c.setSticky n v).flags = c.flags := rfl
@[simp] theorem Ctx.setSticky_tis (n : Nat) (v : Option Sticky) : (c.setSticky n v).tis = c.tis := rfl
@[simp] theorem Ctx.setSticky_order (n : Nat) (v : Option Sticky) : (c.setSticky n v).order = c.order := rfl
@[simp] theorem Ctx.setSticky_task (n : Nat) (v : Option Sticky) : (c.setSticky n v).task = c.task := rfl
@[simp] theorem Ctx.setSticky_allot (n : Nat) (v : Option Sticky) : (c.setSticky n v).allot = c.allot := rfl
@[simp] theorem Ctx.setSticky_sched (n : Nat) (v : Option Sticky) : (c.setSticky n v).sched = c.sched := rfl
@[simp] theorem Ctx.setSticky_ridx (n : Nat) (v : Option Sticky) : (c.setSticky n v).ridx = c.ridx := rfl
@[simp] theorem Ctx.setSticky_iflat (n : Nat) (v : Option Sticky) : (c.setSticky n v).iflat = c.iflat := rfl
@[simp] theorem Ctx.setSticky_group (n : Nat) (v : Option Sticky) : (c.setSticky n v).group = c.group := rfl
@[simp] theorem Ctx.setSticky_groupNew (n : Nat) (v : Option Sticky) : (c.setSticky n v).groupNew = c.groupNew := rfl
@[simp] theorem Ctx.setSticky_quantum (n : Nat) (v : Option Sticky) : (c.setSticky n v).quantum = c.quantum := rfl
@[simp] theorem Ctx.setSticky_waiting (n : Nat) (v : Option Sticky) : (c.setSticky n v).waiting = c.waiting := rfl
@[simp] theorem Ctx.setSticky_barw (n : Nat) (v : Option Sticky) : (c.setSticky n v).barw = c.barw := rfl
@[simp] theorem Ctx.setSticky_moving (n : Nat) (v : Option Sticky) : (c.setSticky n v).moving = c.moving := rfl
@[simp] theorem Ctx.setSticky_moveAt (n : Nat) (v : Option Sticky) : (c.setSticky n v).moveAt = c.moveAt := rfl
@[simp] theorem Ctx.setSticky_answer (n : Nat) (v : Option Sticky) : (c.setSticky n v).answer = c.answer := rfl
@[simp] theorem Ctx.setSticky_whole (n : Nat) (v : Option Sticky) : (c.setSticky n v).whole = c.whole := rfl
@[simp] theorem Ctx.setSticky_lines (n : Nat) (v : Option Sticky) : (c.setSticky n v).lines = c.lines := rfl
@[simp] theorem Ctx.setSticky_hold (n : Nat) (v : Option Sticky) : (c.setSticky n v).hold = c.hold := rfl
@[simp] theorem Ctx.setSticky_parked (n : Nat) (v : Option Sticky) : (c.setSticky n v).parked = c.parked := rfl
@[simp] theorem Ctx.setSticky_armed (n : Nat) (v : Option Sticky) : (c.setSticky n v).armed = c.armed := rfl
@[simp] theorem Ctx.setSticky_dir (n : Nat) (v : Option Sticky) : (c.setSticky n v).dir = c.dir := rfl
@[simp] theorem Ctx.setSticky_noArea (n : Nat) (v : Option Sticky) : (c.setSticky n v).noArea = c.noArea := rfl
@[simp] theorem Ctx.setSticky_saver (n : Nat) (v : Option Sticky) : (c.setSticky n v).saver = c.saver := rfl
@[simp] theorem Ctx.setSticky_answered (n : Nat) (v : Option Sticky) : (c.setSticky n v).answered = c.answered := rfl
@[simp] theorem Ctx.setSticky_stopAt (n : Nat) (v : Option Sticky) : (c.setSticky n v).stopAt = c.stopAt := rfl

@[simp] theorem Ctx.addPend_mode (p : Pend) : (c.addPend p).mode = c.mode := rfl
@[simp] theorem Ctx.addPend_pc (p : Pend) : (c.addPend p).pc = c.pc := rfl
@[simp] theorem Ctx.addPend_regs (p : Pend) : (c.addPend p).regs = c.regs := rfl
@[simp] theorem Ctx.addPend_flow (p : Pend) : (c.addPend p).flow = c.flow := rfl
@[simp] theorem Ctx.addPend_saved (p : Pend) : (c.addPend p).saved = c.saved := rfl
@[simp] theorem Ctx.addPend_ctl (p : Pend) : (c.addPend p).ctl = c.ctl := rfl
@[simp] theorem Ctx.addPend_toks (p : Pend) : (c.addPend p).toks = c.toks := rfl
@[simp] theorem Ctx.addPend_past (p : Pend) : (c.addPend p).past = c.past := rfl
@[simp] theorem Ctx.addPend_flags (p : Pend) : (c.addPend p).flags = c.flags := rfl
@[simp] theorem Ctx.addPend_tis (p : Pend) : (c.addPend p).tis = c.tis := rfl
@[simp] theorem Ctx.addPend_order (p : Pend) : (c.addPend p).order = { c.order with pend := c.order.pend ++ [p] } := rfl
@[simp] theorem Ctx.addPend_task (p : Pend) : (c.addPend p).task = c.task := rfl
@[simp] theorem Ctx.addPend_allot (p : Pend) : (c.addPend p).allot = c.allot := rfl
@[simp] theorem Ctx.addPend_sched (p : Pend) : (c.addPend p).sched = c.sched := rfl
@[simp] theorem Ctx.addPend_ridx (p : Pend) : (c.addPend p).ridx = c.ridx := rfl
@[simp] theorem Ctx.addPend_iflat (p : Pend) : (c.addPend p).iflat = c.iflat := rfl
@[simp] theorem Ctx.addPend_group (p : Pend) : (c.addPend p).group = c.group := rfl
@[simp] theorem Ctx.addPend_groupNew (p : Pend) : (c.addPend p).groupNew = c.groupNew := rfl
@[simp] theorem Ctx.addPend_quantum (p : Pend) : (c.addPend p).quantum = c.quantum := rfl
@[simp] theorem Ctx.addPend_waiting (p : Pend) : (c.addPend p).waiting = c.waiting := rfl
@[simp] theorem Ctx.addPend_barw (p : Pend) : (c.addPend p).barw = c.barw := rfl
@[simp] theorem Ctx.addPend_moving (p : Pend) : (c.addPend p).moving = c.moving := rfl
@[simp] theorem Ctx.addPend_moveAt (p : Pend) : (c.addPend p).moveAt = c.moveAt := rfl
@[simp] theorem Ctx.addPend_answer (p : Pend) : (c.addPend p).answer = c.answer := rfl
@[simp] theorem Ctx.addPend_whole (p : Pend) : (c.addPend p).whole = c.whole := rfl
@[simp] theorem Ctx.addPend_lines (p : Pend) : (c.addPend p).lines = c.lines := rfl
@[simp] theorem Ctx.addPend_hold (p : Pend) : (c.addPend p).hold = c.hold := rfl
@[simp] theorem Ctx.addPend_parked (p : Pend) : (c.addPend p).parked = c.parked := rfl
@[simp] theorem Ctx.addPend_armed (p : Pend) : (c.addPend p).armed = c.armed := rfl
@[simp] theorem Ctx.addPend_dir (p : Pend) : (c.addPend p).dir = c.dir := rfl
@[simp] theorem Ctx.addPend_noArea (p : Pend) : (c.addPend p).noArea = c.noArea := rfl
@[simp] theorem Ctx.addPend_saver (p : Pend) : (c.addPend p).saver = c.saver := rfl
@[simp] theorem Ctx.addPend_answered (p : Pend) : (c.addPend p).answered = c.answered := rfl
@[simp] theorem Ctx.addPend_stopAt (p : Pend) : (c.addPend p).stopAt = c.stopAt := rfl

end Sys2Proof.Machine
end

