-- ==== Sys2Proof/Laws/Map.lean ====
section
/-! SUPPORT. Laws/Map.lean: the sparse maps: reading what was written, the canonical form, and the accessors of State after its
updates. -/

namespace Sys2Proof.Machine

variable {α : Type} [DecidableEq α]

/-- A lower bound of the keys may be lowered. -/
theorem above_mono (d : α) {lo hi : Nat} (h : lo ≤ hi) : ∀ m : FMap α, above d (some hi) m = true → above d (some lo) m = true
  | [], _ => rfl
  | (k, v) :: r, ha => by
    simp only [above, Bool.and_eq_true, decide_eq_true_eq] at ha ⊢
    exact ⟨⟨by omega, ha.1.2⟩, ha.2⟩

/-- A key at or below the bound of a map is not in it. -/
theorem mget_of_above (d : α) {lo n : Nat} : ∀ m : FMap α, above d (some lo) m = true → n ≤ lo → mget d m n = d
  | [], _, _ => rfl
  | (k, v) :: r, ha, hn => by
    simp only [above, Bool.and_eq_true, decide_eq_true_eq] at ha
    have hk : k ≠ n := by omega
    simp only [mget, hk, if_false]
    exact mget_of_above d r ha.2 (by omega)

omit [DecidableEq α] in
theorem mget_filter_ne (d : α) (n : Nat) : ∀ m : FMap α, mget d (m.filter fun e => e.1 != n) n = d
  | [] => rfl
  | (k, v) :: r => by
    by_cases h : k = n
    · simp [h, mget_filter_ne d n r]
    · simp [h, mget, mget_filter_ne d n r]

omit [DecidableEq α] in
theorem mget_filter_other (d : α) {n k : Nat} (h : k ≠ n) : ∀ m : FMap α, mget d (m.filter fun e => e.1 != n) k = mget d m k
  | [] => rfl
  | (j, v) :: r => by
    by_cases hj : j = n
    · have : j ≠ k := by omega
      simp [hj, mget, mget_filter_other d h r, Ne.symm h]
    · simp only [List.filter_cons, bne_iff_ne, ne_eq, hj, not_false_eq_true, if_true, mget]
      rw [mget_filter_other d h r]

omit [DecidableEq α] in
theorem mget_mput_same (d : α) (n : Nat) (v : α) : ∀ m : FMap α, mget d (mput m n v) n = v
  | [] => by simp [mput, mget]
  | (k, w) :: r => by
    unfold mput
    split
    · simp [mget]
    · split
      · simp [mget]
      · rename_i hk
        simp [mget, hk, mget_mput_same d n v r]

omit [DecidableEq α] in
theorem mget_mput_other (d : α) {n k : Nat} (v : α) (h : k ≠ n) : ∀ m : FMap α, mget d (mput m n v) k = mget d m k
  | [] => by simp [mput, mget, Ne.symm h]
  | (j, w) :: r => by
    unfold mput
    split
    · simp [mget, Ne.symm h]
    · split
      · rename_i hj
        have hjk : j ≠ k := by omega
        simp [mget, hjk, Ne.symm h]
      · simp only [mget]
        rw [mget_mput_other d v h r]

/-- A read of the entry just written gives the value written. -/
@[simp] theorem mget_mset_same (d : α) (n : Nat) (v : α) (m : FMap α) : mget d (mset d m n v) n = v := by
  unfold mset
  split
  · rename_i h; rw [mget_filter_ne, h]
  · exact mget_mput_same d n v m

/-- A write leaves the other entries. -/
theorem mget_mset_other (d : α) {n k : Nat} (v : α) (h : k ≠ n) (m : FMap α) : mget d (mset d m n v) k = mget d m k := by
  unfold mset
  split
  · exact mget_filter_other d h m
  · exact mget_mput_other d v h m

/-- An entry after a write. -/
theorem mget_mset (d : α) (n k : Nat) (v : α) (m : FMap α) : mget d (mset d m n v) k = if k = n then v else mget d m k := by
  split
  · rename_i h; rw [h, mget_mset_same]
  · rename_i h; exact mget_mset_other d v h m

/-- Dropping entries keeps the canonical form. -/
theorem above_filter (d : α) (p : Nat × α → Bool) : ∀ (m : FMap α) (lo : Option Nat), above d lo m = true →
    above d lo (m.filter p) = true
  | [], _, _ => rfl
  | (k, v) :: r, lo, ha => by
    have ha' := ha
    simp only [above, Bool.and_eq_true] at ha
    have hr := above_filter d p r (some k) ha.2
    by_cases hp : p (k, v)
    · simp only [List.filter_cons, hp, if_true, above, Bool.and_eq_true]; exact ⟨ha.1, hr⟩
    · simp only [List.filter_cons, hp]
      cases lo with
      | none =>
        cases h : r.filter p with
        | nil => rfl
        | cons y t => obtain ⟨j, u⟩ := y; rw [h] at hr; simp_all [above]
      | some l => exact above_mono d (by have := ha.1.1; simp at this; omega) _ hr

/-- Dropping entries keeps the canonical form. -/
theorem mapWf_filter (d : α) (p : Nat × α → Bool) (m : FMap α) (h : mapWf d m = true) : mapWf d (m.filter p) = true :=
  above_filter d p m none h

theorem above_mput (d : α) (n : Nat) {v : α} (hv : v ≠ d) : ∀ (m : FMap α) (lo : Option Nat),
    (match lo with | none => True | some l => l < n) → above d lo m = true → above d lo (mput m n v) = true
  | [], lo, hl, _ => by cases lo <;> simp_all [mput, above]
  | (k, w) :: r, lo, hl, ha => by
    have ha' := ha
    simp only [above, Bool.and_eq_true, decide_eq_true_eq] at ha
    unfold mput
    split
    · cases lo <;> simp_all [above]
    · split
      · cases lo <;> simp_all [above]
      · simp only [above, Bool.and_eq_true, decide_eq_true_eq]
        exact ⟨ha.1, above_mput d n hv r (some k) (by simp; omega) ha.2⟩

/-- A write keeps the canonical form. -/
theorem mapWf_mset (d : α) (n : Nat) (v : α) (m : FMap α) (h : mapWf d m = true) : mapWf d (mset d m n v) = true := by
  unfold mset
  split
  · exact mapWf_filter d _ m h
  · rename_i hv; exact above_mput d n hv m none trivial h

omit [DecidableEq α] in
/-- An entry after all are changed, when the default stays. -/
theorem mget_mmap (d : α) (f : Nat → α → α) (n : Nat) (h : f n d = d) : ∀ m : FMap α, mget d (mmap f m) n = f n (mget d m n)
  | [] => h.symm
  | (k, v) :: r => by
    show (if k = n then f k v else mget d (mmap f r) n) = f n (if k = n then v else mget d r n)
    split
    · rename_i hk; rw [hk]
    · exact mget_mmap d f n h r

section accessors
variable (s : State)

@[simp] theorem State.ctx_setCtx (a : Nat) (c : Ctx) : (s.setCtx a c).ctx a = c := mget_mset_same _ a c s.ctxs
theorem State.ctx_setCtx_other {a b : Nat} (c : Ctx) (h : b ≠ a) : (s.setCtx a c).ctx b = s.ctx b :=
  mget_mset_other _ c h s.ctxs
@[simp] theorem State.ctx_modCtx (a : Nat) (f : Ctx → Ctx) : (s.modCtx a f).ctx a = f (s.ctx a) := mget_mset_same _ a _ s.ctxs
theorem State.ctx_modCtx_other {a b : Nat} (f : Ctx → Ctx) (h : b ≠ a) : (s.modCtx a f).ctx b = s.ctx b :=
  mget_mset_other _ _ h s.ctxs
@[simp] theorem State.core_setCore (a : Nat) (c : Core) : (s.setCore a c).core a = c := mget_mset_same _ a c s.cores
theorem State.core_setCore_other {a b : Nat} (c : Core) (h : b ≠ a) : (s.setCore a c).core b = s.core b :=
  mget_mset_other _ c h s.cores
@[simp] theorem State.core_modCore (a : Nat) (f : Core → Core) : (s.modCore a f).core a = f (s.core a) := mget_mset_same _ a _ s.cores
theorem State.core_modCore_other {a b : Nat} (f : Core → Core) (h : b ≠ a) : (s.modCore a f).core b = s.core b :=
  mget_mset_other _ _ h s.cores
@[simp] theorem State.cluster_setCluster (a : Nat) (c : Cluster) : (s.setCluster a c).cluster a = c := mget_mset_same _ a c s.clusters
theorem State.cluster_setCluster_other {a b : Nat} (c : Cluster) (h : b ≠ a) : (s.setCluster a c).cluster b = s.cluster b :=
  mget_mset_other _ c h s.clusters
@[simp] theorem State.cluster_modCluster (a : Nat) (f : Cluster → Cluster) : (s.modCluster a f).cluster a = f (s.cluster a) := mget_mset_same _ a _ s.clusters
theorem State.cluster_modCluster_other {a b : Nat} (f : Cluster → Cluster) (h : b ≠ a) : (s.modCluster a f).cluster b = s.cluster b :=
  mget_mset_other _ _ h s.clusters
@[simp] theorem State.ctx_setCore (a : Nat) (n : Nat) (c : Core) : (s.setCore n c).ctx a = s.ctx a := rfl
@[simp] theorem State.ctx_modCore (a : Nat) (n : Nat) (f : Core → Core) : (s.modCore n f).ctx a = s.ctx a := rfl
@[simp] theorem State.ctx_setCluster (a : Nat) (n : Nat) (c : Cluster) : (s.setCluster n c).ctx a = s.ctx a := rfl
@[simp] theorem State.ctx_modCluster (a : Nat) (n : Nat) (f : Cluster → Cluster) : (s.modCluster n f).ctx a = s.ctx a := rfl
@[simp] theorem State.ctx_modDev (a : Nat) (f : Device → Device) : (s.modDev f).ctx a = s.ctx a := rfl
@[simp] theorem State.ctx_modIssue (a : Nat) (f : Issue → Issue) : (s.modIssue f).ctx a = s.ctx a := rfl
@[simp] theorem State.ctx_tick (a : Nat) : (s.tick).ctx a = s.ctx a := rfl
@[simp] theorem State.ctx_setByte (a : Nat) (k : Nat) (b : Byte) : (s.setByte k b).ctx a = s.ctx a := rfl
@[simp] theorem State.ctx_modChannel (a : Nat) (n : Nat) (f : Channel → Channel) : (s.modChannel n f).ctx a = s.ctx a := rfl
@[simp] theorem State.core_setCtx (a : Nat) (n : Nat) (c : Ctx) : (s.setCtx n c).core a = s.core a := rfl
@[simp] theorem State.core_modCtx (a : Nat) (n : Nat) (f : Ctx → Ctx) : (s.modCtx n f).core a = s.core a := rfl
@[simp] theorem State.core_modMe (a : Nat) (f : Ctx → Ctx) : (s.modMe f).core a = s.core a := rfl
@[simp] theorem State.core_setCluster (a : Nat) (n : Nat) (c : Cluster) : (s.setCluster n c).core a = s.core a := rfl
@[simp] theorem State.core_modCluster (a : Nat) (n : Nat) (f : Cluster → Cluster) : (s.modCluster n f).core a = s.core a := rfl
@[simp] theorem State.core_modDev (a : Nat) (f : Device → Device) : (s.modDev f).core a = s.core a := rfl
@[simp] theorem State.core_modIssue (a : Nat) (f : Issue → Issue) : (s.modIssue f).core a = s.core a := rfl
@[simp] theorem State.core_tick (a : Nat) : (s.tick).core a = s.core a := rfl
@[simp] theorem State.core_setByte (a : Nat) (k : Nat) (b : Byte) : (s.setByte k b).core a = s.core a := rfl
@[simp] theorem State.core_modChannel (a : Nat) (n : Nat) (f : Channel → Channel) : (s.modChannel n f).core a = s.core a := rfl
@[simp] theorem State.cluster_setCtx (a : Nat) (n : Nat) (c : Ctx) : (s.setCtx n c).cluster a = s.cluster a := rfl
@[simp] theorem State.cluster_modCtx (a : Nat) (n : Nat) (f : Ctx → Ctx) : (s.modCtx n f).cluster a = s.cluster a := rfl
@[simp] theorem State.cluster_modMe (a : Nat) (f : Ctx → Ctx) : (s.modMe f).cluster a = s.cluster a := rfl
@[simp] theorem State.cluster_setCore (a : Nat) (n : Nat) (c : Core) : (s.setCore n c).cluster a = s.cluster a := rfl
@[simp] theorem State.cluster_modCore (a : Nat) (n : Nat) (f : Core → Core) : (s.modCore n f).cluster a = s.cluster a := rfl
@[simp] theorem State.cluster_modDev (a : Nat) (f : Device → Device) : (s.modDev f).cluster a = s.cluster a := rfl
@[simp] theorem State.cluster_modIssue (a : Nat) (f : Issue → Issue) : (s.modIssue f).cluster a = s.cluster a := rfl
@[simp] theorem State.cluster_tick (a : Nat) : (s.tick).cluster a = s.cluster a := rfl
@[simp] theorem State.cluster_setByte (a : Nat) (k : Nat) (b : Byte) : (s.setByte k b).cluster a = s.cluster a := rfl
@[simp] theorem State.cluster_modChannel (a : Nat) (n : Nat) (f : Channel → Channel) : (s.modChannel n f).cluster a = s.cluster a := rfl

@[simp] theorem State.me_modMe (f : Ctx → Ctx) : (s.modMe f).me = f s.me := State.ctx_modCtx s s.issue.agent f
theorem State.ctx_modMe_other {a : Nat} (f : Ctx → Ctx) (h : a ≠ s.issue.agent) : (s.modMe f).ctx a = s.ctx a :=
  State.ctx_modCtx_other s f h
@[simp] theorem State.me_tick : s.tick.me = s.me := rfl
@[simp] theorem State.me_modCore (n : Nat) (f : Core → Core) : (s.modCore n f).me = s.me := rfl
@[simp] theorem State.me_modCluster (n : Nat) (f : Cluster → Cluster) : (s.modCluster n f).me = s.me := rfl
@[simp] theorem State.me_modDev (f : Device → Device) : (s.modDev f).me = s.me := rfl
@[simp] theorem State.me_setByte (k : Nat) (b : Byte) : (s.setByte k b).me = s.me := rfl
/-- Reading a byte after a write of one (R2). -/
theorem State.byte_setByte (k j : Nat) (b : Byte) : (s.setByte k b).byte j = if j = k then b else s.byte j := mget_mset 0 k j b s.mem

end accessors

end Sys2Proof.Machine
end

