-- ==== Sys2Proof/Laws/Slot.lean ====
section
/-! SUPPORT. Laws/Slot.lean: what running a slot word does: the checks before it, its reads, its result, its sticky state. -/

namespace Sys2Proof.Spec
open Sys2Proof.Machine

/-! Running. -/

/-- A slot word that is in order and whose effect is in order answers the state of its effect, with its sticky state. -/
theorem runSlot_ok {i : Instr} {b : W64} {c : BitVec 4} {k : State → Res} {s t : State}
    (h : preTrap i s = none) (hk : k (afterReads i s) = .ok t) : runSlot i b c k s = .next (stickyAfter i b c t) := by
  simp [runSlot, h, hk, finish, Res.bind]

/-- A slot word with a cause before its own takes it. -/
theorem runSlot_trap {i : Instr} {b : W64} {c : BitVec 4} {k : State → Res} {s : State} {x : Trap} (h : preTrap i s = some x) :
    runSlot i b c k s = .next ((takeTrap x s).modIssue fun j => { j with status := .trapped x }) := by
  simp [runSlot, h, finish]

/-- The cause of an effect is taken. -/
theorem runSlot_own {i : Instr} {b : W64} {c : BitVec 4} {k : State → Res} {s : State} {x : Trap} (h : preTrap i s = none)
    (hk : k (afterReads i s) = .trap x) :
    runSlot i b c k s = .next ((takeTrap x s).modIssue fun j => { j with status := .trapped x }) := by
  simp [runSlot, h, hk, finish, Res.bind]

/-- A block of an effect is taken. -/
theorem runSlot_block {i : Instr} {b : W64} {c : BitVec 4} {k : State → Res} {s : State} {x : Blk} (h : preTrap i s = none)
    (hk : k (afterReads i s) = .block x) :
    runSlot i b c k s = .next ((blockOn s.issue.agent x s).modIssue fun j => { j with status := .blocked x }) := by
  simp [runSlot, h, hk, finish, Res.bind]

/-! Changes of the agent in issue. -/

/-- Changes of the agent alone leave the rest. -/
theorem outside_modMe {s t : State} (f : Ctx → Ctx) (h : Outside s t) : Outside s (t.modMe f) :=
  ⟨congrArg (fun u : State => { u with ctxs := (t.modMe f).ctxs }) h.1, fun a ha =>
    (State.ctx_modMe_other t f (by rw [(congrArg State.issue h.1 :)]; exact ha)).trans (h.2 a ha)⟩

theorem outside_refl (s : State) : Outside s s := ⟨rfl, fun _ _ => rfl⟩

theorem outside_tick {s t : State} (h : Outside s t) : Outside s t.tick :=
  ⟨congrArg (fun u : State => { u with free := t.free + 1 }) h.1, h.2⟩

theorem outside_trans {s t u : State} (h : Outside s t) (g : Outside t u) : Outside s u :=
  ⟨g.1.trans (congrArg (fun x : State => { x with ctxs := u.ctxs, free := u.free }) h.1), fun a ha =>
    (g.2 a (by rw [(congrArg State.issue h.1 :)]; exact ha)).trans (h.2 a ha)⟩

/-! The reads and the sticky state. -/

theorem outside_afterReads (i : Instr) (s : State) : Outside s (afterReads i s) := by
  unfold afterReads
  dsimp only
  split
  · exact outside_refl s
  · exact outside_modMe _ (outside_refl s)

theorem outside_stickyAfter (i : Instr) (b : W64) (c : BitVec 4) (s : State) : Outside s (stickyAfter i b c s) := by
  unfold stickyAfter
  dsimp only
  split
  · exact outside_refl s
  · exact outside_modMe _ (outside_refl s)

/-- A slot's reads set its latches and note its destinations; nothing else. -/
theorem me_afterReads (i : Instr) (s : State) : ∃ h g,
    (afterReads i s).me = { s.me with flow := { s.me.flow with holds := h }, groupNew := g } := by
  unfold afterReads
  dsimp only
  split
  · exact ⟨s.me.flow.holds, s.me.groupNew, rfl⟩
  · exact ⟨latchReads s (info i).vs, writesOf i s ++ s.me.groupNew, State.me_modMe s _⟩

/-- The sticky state after a slot; nothing else. -/
theorem me_stickyAfter (i : Instr) (b : W64) (c : BitVec 4) (s : State) : ∃ k,
    (stickyAfter i b c s).me = { s.me with flow := { s.me.flow with sticky := k } } := by
  unfold stickyAfter
  dsimp only
  split
  · exact ⟨s.me.flow.sticky, rfl⟩
  · exact ⟨_, State.me_modMe s _⟩

@[simp] theorem issue_afterReads (i : Instr) (s : State) : (afterReads i s).issue = s.issue := (congrArg State.issue (outside_afterReads i s).1 :)
@[simp] theorem mem_afterReads (i : Instr) (s : State) : (afterReads i s).mem = s.mem := (congrArg State.mem (outside_afterReads i s).1 :)
@[simp] theorem cores_afterReads (i : Instr) (s : State) : (afterReads i s).cores = s.cores := (congrArg State.cores (outside_afterReads i s).1 :)
@[simp] theorem clusters_afterReads (i : Instr) (s : State) : (afterReads i s).clusters = s.clusters := (congrArg State.clusters (outside_afterReads i s).1 :)
@[simp] theorem dev_afterReads (i : Instr) (s : State) : (afterReads i s).dev = s.dev := (congrArg State.dev (outside_afterReads i s).1 :)
@[simp] theorem env_afterReads (i : Instr) (s : State) : (afterReads i s).env = s.env := (congrArg State.env (outside_afterReads i s).1 :)
@[simp] theorem free_afterReads (i : Instr) (s : State) : (afterReads i s).free = s.free := by
  unfold afterReads; dsimp only; split <;> rfl
@[simp] theorem free_stickyAfter (i : Instr) (b : W64) (c : BitVec 4) (s : State) : (stickyAfter i b c s).free = s.free := by
  unfold stickyAfter; split <;> rfl
@[simp] theorem issue_stickyAfter (i : Instr) (b : W64) (c : BitVec 4) (s : State) : (stickyAfter i b c s).issue = s.issue :=
  (congrArg State.issue (outside_stickyAfter i b c s).1 :)

section reads
variable (i : Instr) (s : State)

@[simp] theorem regs_afterReads : (afterReads i s).me.regs = s.me.regs := by obtain ⟨_, _, h⟩ := me_afterReads i s; rw [h]
@[simp] theorem lift_afterReads : (afterReads i s).me.flow.lift = s.me.flow.lift := by obtain ⟨_, _, h⟩ := me_afterReads i s; rw [h]
@[simp] theorem records_afterReads : (afterReads i s).me.flow.records = s.me.flow.records := by obtain ⟨_, _, h⟩ := me_afterReads i s; rw [h]
@[simp] theorem qs_afterReads : (afterReads i s).me.flow.qs = s.me.flow.qs := by obtain ⟨_, _, h⟩ := me_afterReads i s; rw [h]
@[simp] theorem qv_afterReads : (afterReads i s).me.flow.qv = s.me.flow.qv := by obtain ⟨_, _, h⟩ := me_afterReads i s; rw [h]
@[simp] theorem ctl_afterReads : (afterReads i s).me.ctl = s.me.ctl := by obtain ⟨_, _, h⟩ := me_afterReads i s; rw [h]
@[simp] theorem prefill_afterReads : (afterReads i s).me.flow.prefill = s.me.flow.prefill := by obtain ⟨_, _, h⟩ := me_afterReads i s; rw [h]
@[simp] theorem tis_afterReads : (afterReads i s).me.tis = s.me.tis := by obtain ⟨_, _, h⟩ := me_afterReads i s; rw [h]
@[simp] theorem toks_afterReads : (afterReads i s).me.toks = s.me.toks := by obtain ⟨_, _, h⟩ := me_afterReads i s; rw [h]
@[simp] theorem order_afterReads : (afterReads i s).me.order = s.me.order := by obtain ⟨_, _, h⟩ := me_afterReads i s; rw [h]
@[simp] theorem allot_afterReads : (afterReads i s).me.allot = s.me.allot := by obtain ⟨_, _, h⟩ := me_afterReads i s; rw [h]
@[simp] theorem flags_afterReads : (afterReads i s).me.flags = s.me.flags := by obtain ⟨_, _, h⟩ := me_afterReads i s; rw [h]
@[simp] theorem task_afterReads : (afterReads i s).me.task = s.me.task := by obtain ⟨_, _, h⟩ := me_afterReads i s; rw [h]
@[simp] theorem ridx_afterReads : (afterReads i s).me.ridx = s.me.ridx := by obtain ⟨_, _, h⟩ := me_afterReads i s; rw [h]

@[simp] theorem xs_afterReads : (afterReads i s).xs = s.xs := by simp [State.xs]
@[simp] theorem lanesOf_afterReads (n : Nat) : (afterReads i s).lanesOf n = s.lanesOf n := by simp [State.lanesOf]
@[simp] theorem physV_afterReads (u : BitVec 3) (n : Nat) : (afterReads i s).physV u n = s.physV u n := by simp [State.physV]
@[simp] theorem vnum_afterReads (n : Nat) : (afterReads i s).vnum (afterReads i s).me n = s.vnum s.me n := by
  simp only [State.vnum, State.vraw, killedValue, prefill_afterReads, free_afterReads, regs_afterReads, ctl_afterReads]
@[simp] theorem sc_afterReads (c : SCode) : (afterReads i s).sc c = s.sc c := by
  cases c <;> simp [State.sc, tagOfS]
@[simp] theorem pr_afterReads (n : BitVec 4) : (afterReads i s).pr n = s.pr n := by simp [State.pr]
@[simp] theorem tileOf_afterReads (n : BitVec 3) : (afterReads i s).tileOf n = s.tileOf n := by simp [State.tileOf, State.core]
@[simp] theorem destS_afterReads (u : BitVec 3) (d : BitVec 5) : (afterReads i s).destS u d = s.destS u d := by simp [State.destS]
@[simp] theorem destV_afterReads (u : BitVec 3) (d : Nat) : (afterReads i s).destV u d = s.destV u d := by simp [State.destV]
@[simp] theorem destP_afterReads (u : BitVec 3) (d : BitVec 4) : (afterReads i s).destP u d = s.destP u d := by simp [State.destP]

end reads

@[simp] theorem runOf_afterReads (i j : Instr) (s : State) : (afterReads j s).runOf i = s.runOf i := by
  unfold State.runOf
  split <;> simp [State.vectorRun]

@[simp] theorem slotTag_afterReads (i j : Instr) (s : State) : slotTag i (afterReads j s) = slotTag i s := by
  simp only [slotTag, lift_afterReads, runOf_afterReads]

/-! Vector sources. -/

/-- The fields of a V slot have positions of their own (R37). -/
theorem posOf_inj {s : State} (hv : InV s) {f g : Nat} (h : f ≠ g) : posOf s.issue.slot f ≠ posOf s.issue.slot g := by
  have h1 := hv.2
  simp only [posOf, show s.issue.slot < 5 by omega, if_true]
  omega

/-- A latch that a slot's sources read with `=` is as it was (R37). -/
theorem latch_held {s : State} (hv : InV s) (f : Nat) : ∀ (vs : List (Nat × VCode)) (h : FMap (Option Hold)),
    (∀ x ∈ vs, x.1 = f → x.2 = .held) →
    mget none (vs.foldl (fun h x => match x.2 with
      | .v n => mset none h (posOf s.issue.slot x.1) (some ⟨s.vc x.1 x.2, decide (tagOfV s.me.flow.lift n.toNat ≠ 0)⟩)
      | .qv _ => mset none h (posOf s.issue.slot x.1) none
      | .held => h) h) (posOf s.issue.slot f) = mget none h (posOf s.issue.slot f)
  | [], _, _ => rfl
  | x :: r, h, hx => by
    have ih := fun h => latch_held hv f r h (fun y hy => hx y (List.mem_cons_of_mem _ hy))
    rw [List.foldl_cons, ih]
    by_cases hf : x.1 = f
    · rw [hx x (List.mem_cons_self ..) hf]
    · have h1 := posOf_inj hv (Ne.symm hf)
      split
      · exact mget_mset_other none _ h1 _
      · exact mget_mset_other none _ h1 _
      · rfl

/-- A source of a V slot is read as before the slot's own reads, when its fields are distinct. -/
theorem vc_afterReads {i : Instr} {s : State} (hv : InV s) (f : Nat) (c : VCode) (h : ∀ x ∈ (info i).vs, x.1 = f → x.2 = c) :
    (afterReads i s).vc f c = s.vc f c := by
  cases c with
  | v n => simp [State.vc, tagOfV]
  | qv n => simp [State.vc]
  | held =>
    have hh : mget none (afterReads i s).me.flow.holds (posOf s.issue.slot f) = mget none s.me.flow.holds (posOf s.issue.slot f) := by
      unfold afterReads
      dsimp only
      split
      · rfl
      · rw [State.me_modMe, Ctx.afterSlot_flow]
        exact latch_held hv f (info i).vs s.me.flow.holds h
    simp only [State.vc, issue_afterReads, hh]

/-! Tags to come. -/

theorem me_noteTag (k n : Nat) (u : BitVec 3) (s : State) : ∃ l, (noteTag k n u s).me = { s.me with flow := { s.me.flow with retag := l } } := by
  unfold noteTag
  split
  · exact ⟨s.me.flow.retag, rfl⟩
  · exact ⟨_, State.me_modMe s _⟩

theorem outside_noteTag (k n : Nat) (u : BitVec 3) (s : State) : Outside s (noteTag k n u s) := by
  unfold noteTag
  split
  · exact outside_refl s
  · exact outside_modMe _ (outside_refl s)

@[simp] theorem free_noteTag (k n : Nat) (u : BitVec 3) (s : State) : (noteTag k n u s).free = s.free := by
  unfold noteTag; split <;> rfl

@[simp] theorem records_noteTag (k n : Nat) (u : BitVec 3) (s : State) : (noteTag k n u s).me.flow.records = s.me.flow.records := by
  obtain ⟨l, e⟩ := me_noteTag k n u s
  rw [e]

theorem onlyResult_noteTag (k n : Nat) (u : BitVec 3) {s t : State} (h : OnlyResult s t) : OnlyResult s (noteTag k n u t) := by
  obtain ⟨l, e⟩ := me_noteTag k n u t
  unfold OnlyResult at h ⊢
  rw [e, h]

/-! No lift level open. -/

theorem slotTag_plain {i : Instr} {s : State} (h : Plain s) : slotTag i s = 0 := by
  unfold Plain at h
  simp [slotTag, h]

theorem noteTag_plain {s : State} (h : Plain s) (k n : Nat) (u : BitVec 3) : noteTag k n u s = s := by
  unfold Plain at h
  simp [noteTag, h]

theorem plain_afterReads {i : Instr} {s : State} (h : Plain s) : Plain (afterReads i s) := by
  simpa [Plain] using h

theorem regOffset_zero (u : BitVec 3) (j : Nat) : ∀ xs, regOffset u j [] xs = 0
  | [] => by simp [regOffset]
  | _ :: _ => by simp [regOffset]

theorem physV_plain {s : State} (h : Plain s) (u : BitVec 3) (n : Nat) : s.physV u n = n := by
  unfold Plain at h
  simp [State.physV, h, regOffset_zero]

/-! Results. -/

/-- A result enters the in-flight buffer, and nothing else happens. -/
theorem result_in {i : Instr} {b : W64} {c : BitVec 4} {s u : State} (r : Result) (ready : Bool) (hu : Outside s u)
    (hm : OnlyResult s u) (hr : u.me.flow.records = s.me.flow.records) (hf : u.free = s.free) (hl : s.me.flow.records.length < 64) :
    ∃ t, putRec r.lat r.dest r.mask r.val r.flags ready u = .ok t ∧ Emits s (stickyAfter i b c t) r ready ∧
      OnlyResult s (stickyAfter i b c t) ∧ Outside s (stickyAfter i b c t) := by
  refine ⟨u.tick.modMe (Ctx.addRec ⟨u.free, r.lat, r.dest, r.mask, r.val, r.flags, ready⟩),
    by unfold putRec; rw [hr, if_neg (by omega)], ?_⟩
  obtain ⟨k, hk⟩ := me_stickyAfter i b c (u.tick.modMe (Ctx.addRec ⟨u.free, r.lat, r.dest, r.mask, r.val, r.flags, ready⟩))
  rw [State.me_modMe, State.me_tick] at hk
  refine ⟨?_, ?_, outside_trans (outside_modMe _ (outside_tick hu)) (outside_stickyAfter i b c _)⟩
  · unfold Emits
    rw [hk]
    simp [Ctx.addRec, hr, hf]
  · unfold OnlyResult at hm ⊢
    rw [hk, hm]
    rfl

/-- A slot word's reads leave what OnlyResult leaves. -/
theorem onlyResult_afterReads (i : Instr) (s : State) : OnlyResult s (afterReads i s) := by
  obtain ⟨h, g, e⟩ := me_afterReads i s
  unfold OnlyResult
  rw [e]

theorem onlyResult_stickyAfter {i : Instr} {b : W64} {c : BitVec 4} {s t : State} (h : OnlyResult s t) :
    OnlyResult s (stickyAfter i b c t) := by
  obtain ⟨k, e⟩ := me_stickyAfter i b c t
  unfold OnlyResult at h ⊢
  rw [e, h]

/-- A slot word whose effect is one result, when it is in order. -/
theorem runSlot_result {i : Instr} {b : W64} {c : BitVec 4} {s : State} {k : State → Res} (r : Result) (h : Ready i s)
    (hk : k (afterReads i s) = putRec r.lat r.dest r.mask r.val r.flags true (afterReads i s)) :
    ∃ t, runSlot i b c k s = .next t ∧ JustResult s t r := by
  obtain ⟨t, ht, he, ho, hs⟩ := result_in (i := i) (b := b) (c := c) r true (outside_afterReads i s) (onlyResult_afterReads i s)
    (records_afterReads i s) (free_afterReads i s) h.2
  exact ⟨_, runSlot_ok h.1 (hk.trans ht), he, ho, hs⟩

/-- A slot word whose effect is one result and the tag of its destination, when it is in order. -/
theorem runSlot_tagged {i : Instr} {b : W64} {c : BitVec 4} {s : State} {k : State → Res} {kd n : Nat} {u : BitVec 3} (r : Result)
    (h : Ready i s)
    (hk : k (afterReads i s) = putRec r.lat r.dest r.mask r.val r.flags true (noteTag kd n u (afterReads i s))) :
    ∃ t, runSlot i b c k s = .next t ∧ JustResult s t r := by
  obtain ⟨t, ht, he, ho, hs⟩ := result_in (i := i) (b := b) (c := c) r true
    (outside_trans (outside_afterReads i s) (outside_noteTag kd n u _)) (onlyResult_noteTag kd n u (onlyResult_afterReads i s))
    (by simp) (by simp) h.2
  exact ⟨_, runSlot_ok h.1 (hk.trans ht), he, ho, hs⟩

/-- A scalar instruction whose value is known. -/
theorem scalarOp_result {i : Instr} {lat : Nat} {d : BitVec 5} {v : State → W64} {s : State} (w : W64) (h : Ready i s)
    (hv : v (afterReads i s) = w) :
    ∃ t, scalarOp i lat d v s = .next t ∧ JustResult s t { lat := lat, dest := s.destS (slotTag i s) d, val := w.setWidth 2048 } := by
  refine runSlot_tagged (kd := 0) (n := d.toNat) (u := slotTag i s)
    { lat := lat, dest := s.destS (slotTag i s) d, val := w.setWidth 2048 } h ?_
  simp only [putS, slotTag_afterReads, destS_afterReads, hv]

/-- A vector result of a V slot. -/
theorem putV_result {i : Instr} {b : W64} {c : BitVec 4} {s : State} {k : State → Res} (lat : Nat) (d : Nat) (mask v : Vec) (fl : BitVec 5)
    (h : Ready i s) (hk : k (afterReads i s) = putV (slotTag i s) lat d mask v fl (afterReads i s)) :
    ∃ t, runSlot i b c k s = .next t ∧
      JustResult s t { lat := lat, dest := s.destV (slotTag i s) d, mask := mask, val := v, flags := fl } := by
  refine runSlot_tagged (kd := 1) (n := d) (u := slotTag i s)
    { lat := lat, dest := s.destV (slotTag i s) d, mask := mask, val := v, flags := fl } h ?_
  rw [hk, putV, destV_afterReads]

/-- A result by lanes. -/
theorem putLanes_result {i : Instr} {b : W64} {c : BitVec 4} {s : State} {k : State → Res} (lat : Nat) (d : BitVec 10) (w : Nat) (p : Pred)
    (z : Bool) (f : Nat → Nat × BitVec 5) (h : Ready i s)
    (hk : k (afterReads i s) = putLanes (slotTag i s) lat d w p z ((List.range (2048 / w)).map f) (afterReads i s)) :
    ∃ t, runSlot i b c k s = .next t ∧ JustResult s t
      { lat := lat, dest := s.destV (slotTag i s) d.toNat
        mask := if z then BitVec.allOnes 2048 else laneMask w p
        val := if z then lanes w (fun l => (f l).1) &&& laneMask w p else lanes w fun l => (f l).1
        flags := keptFlags w p ((List.range (2048 / w)).map f) } := by
  refine putV_result lat d.toNat _ _ _ h ?_
  simp only [hk, putLanes, lanes, List.map_map, Function.comp_def]

/-- An instruction that gives each lane a value. -/
theorem lanewise_result {i : Instr} {hd : VHead} {d : BitVec 10} {w lat : Nat} {f : State → Nat → Nat} {s : State} (g : Nat → Nat)
    (h : Ready i s) (hf : ∀ l, f (afterReads i s) l = g l) :
    ∃ t, lanewise i hd d w lat f s = .next t ∧ JustResult s t
      { lat := lat, dest := s.destV (slotTag i s) d.toNat
        mask := if hd.z then BitVec.allOnes 2048 else laneMask w (s.pr hd.pred)
        val := if hd.z then lanes w g &&& laneMask w (s.pr hd.pred) else lanes w g
        flags := keptFlags w (s.pr hd.pred) ((List.range (2048 / w)).map fun l => (g l, 0)) } := by
  refine putLanes_result lat d w (s.pr hd.pred) hd.z (fun l => (g l, 0)) h ?_
  simp only [State.utag, slotTag_afterReads, pr_afterReads, hf]

/-- A slot word without an effect of its own. -/
theorem runSlot_nothing {i : Instr} {b : W64} {c : BitVec 4} {s : State} (h : preTrap i s = none) :
    ∃ t, runSlot i b c .ok s = .next t ∧ Nothing s t := by
  refine ⟨_, runSlot_ok h rfl, ?_, onlyResult_stickyAfter (onlyResult_afterReads i s),
    outside_trans (outside_afterReads i s) (outside_stickyAfter i b c _)⟩
  obtain ⟨k, e⟩ := me_stickyAfter i b c (afterReads i s)
  rw [e]
  simp

end Sys2Proof.Spec
end

