-- ==== Sys2Proof/Laws/Results.lean ====
section
/-! SUPPORT. Laws/Results.lean: the slot words whose one effect is a result: what gives a scalar, lanes, a cascade, a predicate. -/

namespace Sys2Proof.Spec
open Sys2Proof.Machine

/-- A scalar instruction gives the value of its operands. -/
theorem gives_scalar {i : Instr} {lat : Nat} {d : BitVec 5} {v : State → W64} {s : State} {w : W64} (he : exec i s = scalarOp i lat d v s)
    (hv : v (afterReads i s) = w) : GivesScalar i s lat d w := by
  unfold GivesScalar Gives
  intro h
  rw [he]
  exact scalarOp_result w h hv

/-- An instruction whose effect is one vector result gives it. -/
theorem gives_vector {i : Instr} {s : State} {k : State → Res} {lat d : Nat} {mask v : Vec} {fl : BitVec 5} (he : exec i s = runOp i k s)
    (hk : k (afterReads i s) = putV (slotTag i s) lat d mask v fl (afterReads i s)) :
    Gives i s { lat := lat, dest := s.destV (slotTag i s) d, mask := mask, val := v, flags := fl } := by
  unfold Gives
  intro h
  rw [he]
  unfold runOp
  have := putV_result (i := i) (b := 0) (c := 0) (k := k) lat d mask v fl h hk
  exact this

/-- An instruction whose effect is one result by lanes gives it. -/
theorem gives_lanes {i : Instr} {s : State} {k : State → Res} {lat : Nat} {d : BitVec 10} {w : Nat} {p : Pred} {z : Bool}
    {f : Nat → Nat × BitVec 5} (he : exec i s = runOp i k s)
    (hk : InV s → k (afterReads i s) = putLanes (slotTag i s) lat d w p z ((List.range (2048 / w)).map f) (afterReads i s)) :
    GivesLanes i s lat d w p z f := by
  unfold GivesLanes Gives
  intro hv h
  rw [he]
  unfold runOp
  have := putLanes_result (i := i) (b := 0) (c := 0) (k := k) lat d w p z f h (hk hv)
  exact this

/-- An instruction that gives each lane a value. -/
theorem gives_lanewise {i : Instr} {hd : VHead} {d : BitVec 10} {w lat : Nat} {f : State → Nat → Nat} {g : Nat → Nat} {s : State}
    (he : exec i s = lanewise i hd d w lat f s) (hf : InV s → ∀ l, f (afterReads i s) l = g l) :
    GivesLanes i s lat d w (s.pr hd.pred) hd.z (fun l => (g l, 0)) := by
  refine gives_lanes (k := fun t =>
    putLanes (t.utag i) lat d w (t.pr hd.pred) hd.z ((List.range (2048 / w)).map fun l => (f t l, 0)) t) he ?_
  intro hv
  simp only [State.utag, slotTag_afterReads, pr_afterReads, hf hv]

/-- The fields of a cascade's operands follow those of the first unit. -/
theorem srcs_field {ch : Chain} {n : Nat} {x : Nat × VCode} (h : x ∈ ch.srcs n) : n ≤ x.1 := by
  cases ch <;> simp [Chain.srcs] at h
  · simp [h]
  · rcases h with h | h <;> simp [h]

/-- The operands of a cascade have fields of their own. -/
theorem srcs_inj {ch : Chain} {n : Nat} {x y : Nat × VCode} (hx : x ∈ ch.srcs n) (hy : y ∈ ch.srcs n) (h : x.1 = y.1) : x = y := by
  cases ch <;> simp [Chain.srcs] at hx hy
  · rw [hx, hy]
  · rcases hx with hx | hx <;> rcases hy with hy | hy <;> subst hx hy <;> first | rfl | (simp at h)

/-- A chainable instruction gives, lane by lane, its first unit and its cascade. -/
theorem gives_chain {i : Instr} {hd : VHead} {d : BitVec 10} {xs : List VCode} {ch : Chain} {lat : Nat} {f : List Nat → Nat × BitVec 5}
    {s : State} (he : exec i s = chained i hd d xs ch lat f s)
    (hvs : (info i).vs = xs.zipIdx.map (fun x => (x.2, x.1)) ++ ch.srcs xs.length) : GivesChain i s hd d xs ch lat f := by
  unfold GivesChain
  dsimp only
  unfold chained at he
  refine gives_lanes he ?_
  intro hv
  have inj : ∀ x ∈ (info i).vs, ∀ y ∈ (info i).vs, y.1 = x.1 → y.2 = x.2 := by
    intro x hx y hy h
    rw [hvs, List.mem_append, List.mem_map] at hx hy
    have lt : ∀ z : Nat × VCode, (∃ a ∈ xs.zipIdx, (a.2, a.1) = z) → z.1 < xs.length := by
      rintro z ⟨a, ha, rfl⟩
      exact (List.mem_zipIdx' ha).1
    rcases hx with hx | hx <;> rcases hy with hy | hy
    · obtain ⟨a, ha, rfl⟩ := hx
      obtain ⟨b, hb, rfl⟩ := hy
      have h1 := (List.mem_zipIdx' ha).2
      have h2 := (List.mem_zipIdx' hb).2
      simp only at h
      simp only [h1, h2, h]
    · have := lt x hx; have := srcs_field hy; omega
    · have := lt y hy; have := srcs_field hx; omega
    · rw [srcs_inj hx hy h.symm]
  have key : ∀ x ∈ (info i).vs, (afterReads i s).vc x.1 x.2 = s.vc x.1 x.2 := fun x hx =>
    vc_afterReads hv x.1 x.2 fun y hy hxy => inj x hx y hy hxy
  have h1 : (xs.zipIdx.map fun x => (afterReads i s).vc x.2 x.1) = xs.zipIdx.map fun x => s.vc x.2 x.1 := by
    apply List.map_congr_left
    intro x hx
    exact key (x.2, x.1) (by rw [hvs]; exact List.mem_append_left _ (List.mem_map_of_mem (f := fun x => (x.2, x.1)) hx))
  have h2 : ((ch.srcs xs.length).map fun x => (afterReads i s).vc x.1 x.2) = (ch.srcs xs.length).map fun x => s.vc x.1 x.2 := by
    apply List.map_congr_left
    intro x hx
    exact key x (by rw [hvs]; exact List.mem_append_right _ hx)
  dsimp only
  simp only [State.utag, slotTag_afterReads, pr_afterReads, h1, h2, List.map_map, Function.comp_def, src]

/-! Predicates. -/

theorem outside_seedP (u : BitVec 3) (d : BitVec 4) {s t : State} (h : Outside s t) : Outside s (seedP u d t) := by
  unfold seedP
  dsimp only
  split
  · exact h
  · exact outside_modMe _ h

@[simp] theorem free_seedP (u : BitVec 3) (d : BitVec 4) (s : State) : (seedP u d s).free = s.free := by
  unfold seedP; dsimp only; split <;> rfl

/-- A predicate that starts its instances: nothing else. -/
theorem me_seedP (u : BitVec 3) (d : BitVec 4) (s : State) : ∃ p, (seedP u d s).me =
    { s.me with flow := { s.me.flow with lift := { s.me.flow.lift with predAt := p } } } := by
  unfold seedP
  dsimp only
  split
  · exact ⟨s.me.flow.lift.predAt, rfl⟩
  · exact ⟨_, State.me_modMe s _⟩

/-- A predicate starts no instance when no lift level is open. -/
theorem lift_seedP_plain (u : BitVec 3) (d : BitVec 4) {s : State} (_ : Plain s) (hu : u = 0) : seedP u d s = s := by
  subst hu
  simp [seedP]

/-- A predicate result of a V slot. -/
theorem gives_pred {i : Instr} {s : State} {k : State → Res} {lat : Nat} {d : BitVec 4} {g : Pred} {z : Bool} {v : Pred} {fl : BitVec 5}
    (he : exec i s = runOp i k s)
    (hk : InV s → k (afterReads i s) = putPred (slotTag i s) lat d g z v fl (afterReads i s)) :
    GivesPred i s lat d g z v fl := by
  unfold GivesPred
  intro hv h
  rw [he]
  unfold runOp
  have hk' := hk hv
  unfold putPred putP putRec at hk'
  obtain ⟨hh, gg, e1⟩ := me_afterReads i s
  obtain ⟨p, e2⟩ := me_seedP (slotTag i s) d (afterReads i s)
  obtain ⟨r, e3⟩ := me_noteTag 2 d.toNat (slotTag i s) (seedP (slotTag i s) d (afterReads i s))
  rw [if_neg (by rw [records_noteTag, e2, e1]; exact Nat.not_le.mpr h.2)] at hk'
  refine ⟨_, runSlot_ok h.1 hk', ?_⟩
  obtain ⟨n, e4⟩ := me_stickyAfter i 0 0 ((noteTag 2 d.toNat (slotTag i s) (seedP (slotTag i s) d (afterReads i s))).tick.modMe
    (Ctx.addRec ⟨(noteTag 2 d.toNat (slotTag i s) (seedP (slotTag i s) d (afterReads i s))).free, lat,
      (afterReads i s).destP (slotTag i s) d, (if z then BitVec.allOnes 256 else g).setWidth 2048,
      (if z then v &&& g else v).setWidth 2048, fl, true⟩))
  rw [State.me_modMe, State.me_tick, e3, e2, e1] at e4
  refine ⟨⟨?_, ?_⟩, ?_, ?_⟩
  · rw [e4]
    rfl
  · intro hp
    rw [e4]
    have h0 : seedP (slotTag i s) d (afterReads i s) = afterReads i s := lift_seedP_plain _ d (plain_afterReads hp) (slotTag_plain hp)
    rw [h0, e1] at e2
    have : p = s.me.flow.lift.predAt := by
      have := congrArg (fun c : Ctx => c.flow.lift.predAt) e2
      simpa using this.symm
    simp [Ctx.addRec, this]
  · exact outside_trans (outside_modMe _ (outside_tick (outside_trans (outside_seedP _ d (outside_afterReads i s)) (outside_noteTag _ _ _ _))))
      (outside_stickyAfter i 0 0 _)
  · unfold Emits
    rw [e4]
    simp [Ctx.addRec]

theorem seedP_plain (d : BitVec 4) (s : State) : seedP 0 d s = s := by simp [seedP]

end Sys2Proof.Spec
end

