-- ==== Sys2Proof/Laws/Control.lean ====
section
/-! SUPPORT. Laws/Control.lean: what a slot word that changes its agent leaves, and what a control slot does. -/

namespace Sys2Proof.Spec
open Sys2Proof.Machine

theorem becomes_stickyAfter {i : Instr} {b : W64} {c : BitVec 4} {u : State} {m : Ctx} (hm : Becomes u m) :
    Becomes (stickyAfter i b c u) m := by
  obtain ⟨n, e⟩ := me_stickyAfter i b c u
  obtain ⟨h, k, g, hm⟩ := hm
  exact ⟨h, n, g, by rw [e, hm]; rfl⟩

/-- A slot word whose effect changes its agent alone. -/
theorem makes_of {i : Instr} {b : W64} {c : BitVec 4} {s u : State} {k : State → Res} {m : Ctx} (h : preTrap i s = none)
    (he : exec i s = runSlot i b c k s) (hk : k (afterReads i s) = .ok u) (hm : Becomes u m) (hu : Outside s u) : Makes i s m :=
  ⟨_, he.trans (runSlot_ok h hk), becomes_stickyAfter hm, outside_trans hu (outside_stickyAfter i b c u)⟩

/-- After its reads the agent is as before. -/
theorem becomes_afterReads (i : Instr) (s : State) : Becomes (afterReads i s) s.me := by
  obtain ⟨h, g, e⟩ := me_afterReads i s
  exact ⟨h, s.me.flow.sticky, g, e⟩

/-- A change of the agent that keeps what every slot word sets. -/
theorem becomes_modMe {u : State} {m : Ctx} {f : Ctx → Ctx} (hm : Becomes u m) (hf : ∀ h k g, f (slotted h k g m) = slotted h k g (f m)) :
    Becomes (u.modMe f) (f m) := by
  obtain ⟨h, k, g, hm⟩ := hm
  exact ⟨h, k, g, by rw [State.me_modMe, hm, hf]⟩

/-- A word's own cause. -/
theorem traps_own {i : Instr} {b : W64} {c : BitVec 4} {s : State} {k : State → Res} {x : Trap} (h : preTrap i s = none)
    (he : exec i s = runSlot i b c k s) (hk : k (afterReads i s) = .trap x) : Traps i s x := he.trans (runSlot_own h hk)

/-- A word's block. -/
theorem blocks_own {i : Instr} {b : W64} {c : BitVec 4} {s : State} {k : State → Res} {x : Blk} (h : preTrap i s = none)
    (he : exec i s = runSlot i b c k s) (hk : k (afterReads i s) = .block x) : Blocks i s x := he.trans (runSlot_block h hk)

/-- A word's stall. -/
theorem stalls_own {i : Instr} {b : W64} {c : BitVec 4} {s : State} {k : State → Res} (h : preTrap i s = none)
    (he : exec i s = runSlot i b c k s) (hk : k (afterReads i s) = .stall) : Stalls i s := by
  unfold Stalls
  rw [he]
  simp [runSlot, h, hk, finish, Res.bind]

/-! Control slots. -/

/-- Changes of the agent and of the issue's successor leave the rest. -/
theorem outside_issue {s t : State} {f : Issue → Issue} (h : Outside s t) : Outside s { t.modIssue f with issue := s.issue } :=
  ⟨congrArg (fun u : State => { u with issue := s.issue }) h.1, h.2⟩

theorem me_addVote (v : Bool × W64) (s : State) :
    (addVote v s).me = { s.me with flow := { s.me.flow with votes := if s.issue.first then [v] else s.me.flow.votes ++ [v] } } :=
  State.me_modMe s _

/-- What a control slot notes in an issue. -/
theorem me_voteHere (i : Instr) (vote : State → Bool × W64) (s : State) :
    (voteHere (slotTag i s) vote (afterReads i s)).me =
      { (afterReads i s).me with flow := { (afterReads i s).me.flow with votes := votesWith i s (vote (afterReads i s)) } } := by
  have hv : (afterReads i s).me.flow.votes = s.me.flow.votes := by
    obtain ⟨h, g, e⟩ := me_afterReads i s
    rw [e]
  unfold voteHere votesWith
  by_cases h : slotTag i s ≠ 0 ∨ s.issue.first = true
  · rw [if_pos h, if_pos (by simpa using h), me_addVote, hv, issue_afterReads]
  · rw [if_neg h, if_neg (by simpa using h)]
    rw [← hv]

theorem issue_voteHere (u : BitVec 3) (vote : State → Bool × W64) (s : State) : (voteHere u vote s).issue = s.issue := by
  unfold voteHere addVote
  split <;> rfl

theorem outside_voteHere (u : BitVec 3) (vote : State → Bool × W64) {s t : State} (h : Outside s t) : Outside s (voteHere u vote t) := by
  unfold voteHere
  split
  · exact outside_modMe _ h
  · exact h

/-- A transfer. -/
theorem me_transfer (v : Bool × W64) (s : State) : (transfer v s).me = { s.me with flow := { s.me.flow with votes := [] } } := by
  unfold transfer
  dsimp only
  split
  · exact State.me_modMe s (fun c => { c with flow := { c.flow with votes := [] } })
  · exact State.me_modMe s _

theorem issue_transfer (v : Bool × W64) (s : State) : (transfer v s).issue = sent s.issue v := by
  unfold transfer sent
  dsimp only
  split <;> rfl

theorem outside_transfer {s t : State} (v : Bool × W64) (h : Outside s t) : Outside s { transfer v t with issue := s.issue } := by
  unfold transfer
  dsimp only
  split
  · exact outside_issue (outside_modMe _ h)
  · have := outside_issue (f := fun i => i) (outside_modMe (fun c => { c with flow := { c.flow with votes := [] } }) h)
    exact this

/-- The sticky state is the agent's. -/
theorem outside_issue_sticky {i : Instr} {b : W64} {c : BitVec 4} {s u : State} (ha : u.issue.agent = s.issue.agent)
    (h : Outside s { u with issue := s.issue }) : Outside s { stickyAfter i b c u with issue := s.issue } := by
  have key : ∀ f, Outside s { u.modMe f with issue := s.issue } := by
    intro f
    exact ⟨congrArg (fun x : State => { x with ctxs := (u.modMe f).ctxs }) h.1, fun a hn =>
      (State.ctx_modMe_other u f (by rw [ha]; exact hn)).trans (h.2 a hn)⟩
  unfold stickyAfter
  dsimp only
  split
  · exact h
  · exact key _

theorem becomes_transfer {u : State} {m : Ctx} (v : Bool × W64) (hm : Becomes u m) :
    Becomes (transfer v u) { m with flow := { m.flow with votes := [] } } := by
  obtain ⟨h, k, g, hm⟩ := hm
  exact ⟨h, k, g, by rw [me_transfer, hm]; rfl⟩

theorem becomes_voteHere (i : Instr) (vote : State → Bool × W64) (s : State) :
    Becomes (voteHere (slotTag i s) vote (afterReads i s)) (withVotes s (votesWith i s (vote (afterReads i s)))) := by
  obtain ⟨h, k, g, hm⟩ := becomes_afterReads i s
  exact ⟨h, k, g, by rw [me_voteHere, hm]; rfl⟩

end Sys2Proof.Spec
end

