-- ==== Sys2Proof/Laws/Memory.lean ====
section
/-! SUPPORT. Laws/Memory.lean: memory: every operation keeps its canonical form (log 14), and what a byte reads as after each. -/

namespace Sys2Proof.Machine

variable (s : State)

/-- Memory at reset has its canonical form. -/
theorem wf_reset : State.reset.mem.wf = true := rfl

/-- Writing a byte keeps the form. -/
theorem wf_setByte (k : Nat) (b : Byte) (h : s.mem.wf = true) : (s.setByte k b).mem.wf = true := mapWf_mset 0 k b s.mem h

/-- Writing bytes keeps the form. -/
theorem wf_setBytes (k : Nat) (l : List Byte) (h : s.mem.wf = true) : (s.setBytes k l).mem.wf = true := by
  induction l generalizing s k with
  | nil => exact h
  | cons b r ih => exact ih _ _ (wf_setByte s k b h)

/-- Writing a value keeps the form. -/
theorem wf_writeLE (k n v : Nat) (h : s.mem.wf = true) : (s.writeLE k n v).mem.wf = true := wf_setBytes s k _ h

/-- Clearing a range keeps the form. -/
theorem wf_dropRange (m : Memory) (lo hi : Nat) (h : m.wf = true) : (dropRange m lo hi).wf = true := mapWf_filter 0 _ m h

/-- A byte of a cleared range reads as zero; every other reads as before. -/
theorem mget_dropRange (lo hi k : Nat) : ∀ m : Memory, mget 0 (dropRange m lo hi) k = if lo ≤ k ∧ k < hi then 0 else mget 0 m k
  | [] => by simp [dropRange, mget]
  | (n, v) :: r => by
    have ih := mget_dropRange lo hi k r
    unfold dropRange at ih ⊢
    by_cases hn : lo ≤ n ∧ n < hi
    · rw [List.filter_cons_of_neg (by simp [hn]), ih]
      by_cases hk : lo ≤ k ∧ k < hi
      · simp [hk]
      · have : n ≠ k := by rintro rfl; exact hk hn
        simp [hk, mget, this]
    · rw [List.filter_cons_of_pos (by simp; omega)]
      by_cases hk : n = k
      · subst hk; simp [mget, hn]
      · simp only [mget, hk, if_false]; exact ih

/-- A byte after bytes were written. -/
theorem byte_setBytes (k : Nat) (l : List Byte) (j : Nat) :
    (s.setBytes k l).byte j = if k ≤ j ∧ j < k + l.length then l.getD (j - k) 0 else s.byte j := by
  induction l generalizing s k with
  | nil => simp [State.setBytes]
  | cons b r ih =>
    simp only [State.setBytes, List.length_cons]
    rw [ih, State.byte_setByte]
    by_cases h1 : k + 1 ≤ j ∧ j < k + 1 + r.length
    · have h2 : k ≤ j ∧ j < k + (r.length + 1) := by omega
      simp only [h1, and_self, if_true, h2]
      rw [show j - k = (j - (k + 1)) + 1 by omega]
      simp
    · by_cases h3 : j = k
      · subst h3; simp
      · have h2 : ¬(k ≤ j ∧ j < k + (r.length + 1)) := by omega
        rw [if_neg h1, if_neg h2, if_neg h3]

/-- Writing bytes changes nothing but memory. -/
theorem setBytes_frame (k : Nat) (l : List Byte) : { s.setBytes k l with mem := s.mem } = s := by
  induction l generalizing s k with
  | nil => rfl
  | cons b r ih =>
    have h := ih (s.setByte k b) (k + 1)
    simp only [State.setBytes]
    generalize (s.setByte k b).setBytes (k + 1) r = t at h
    calc { t with mem := s.mem } = { ({ t with mem := (s.setByte k b).mem } : State) with mem := s.mem } := rfl
      _ = { (s.setByte k b) with mem := s.mem } := by rw [h]
      _ = s := rfl

/-- The bytes from a key on, each. -/
theorem getD_bytes (k n j : Nat) (h : j < n) : (s.bytes k n).getD j 0 = s.byte (k + j) := by
  induction n generalizing k j with
  | zero => omega
  | succ n ih =>
    cases j with
    | zero => simp [State.bytes]
    | succ j =>
      have := ih (k + 1) j (by omega)
      simp only [State.bytes, List.getD_cons_succ, this]
      congr 1
      omega

/-- The number of bytes read. -/
@[simp] theorem length_bytes (k n : Nat) : (s.bytes k n).length = n := by
  induction n generalizing k with
  | zero => rfl
  | succ n ih => simp [State.bytes, ih]

/-- A line that becomes dirty in L2, and the one that it evicts, leave memory as it is (R144, R147). -/
@[simp] theorem State.makeDirty_mem (l : Nat) : (s.makeDirty l).mem = s.mem := by
  unfold State.makeDirty
  dsimp only
  split <;> rfl

/-- A byte that performs keeps the form. -/
theorem wf_performByte (a : Nat) (asid : BitVec 16) (c : Nat × Nat × Byte) (h : s.mem.wf = true) : (s.performByte a asid c).mem.wf = true := by
  refine mapWf_mset 0 c.2.1 c.2.2 _ ?_
  split <;> split <;> first | exact h | (simp only [State.makeDirty_mem]; exact h)

/-- A byte that performs is what its key reads as; every other key reads as before. -/
theorem byte_performByte (a : Nat) (asid : BitVec 16) (c : Nat × Nat × Byte) (j : Nat) :
    (s.performByte a asid c).byte j = if j = c.2.1 then c.2.2 else s.byte j := by
  have mem : ∀ u : State, u.mem = s.mem → ((u.setByte c.2.1 c.2.2).byte j = if j = c.2.1 then c.2.2 else s.byte j) := by
    intro u hu
    have : u.byte j = s.byte j := by simp only [State.byte, hu]
    rw [State.byte_setByte, this]
  refine mem _ ?_
  split <;> split <;> simp only [State.makeDirty_mem]

/-- Bytes that perform keep the form. -/
theorem wf_performBytes (a : Nat) (asid : BitVec 16) (l : List (Nat × Nat × Byte)) (h : s.mem.wf = true) :
    (s.performBytes a asid l).mem.wf = true := by
  induction l generalizing s with
  | nil => exact h
  | cons c r ih => exact ih _ (wf_performByte s a asid c h)

/-- A write at the home keeps the form. -/
theorem wf_homeLE (k n v : Nat) (h : s.mem.wf = true) : (s.homeLE k n v).mem.wf = true := wf_performBytes s _ _ _ h

/-- A range that becomes zero at the home keeps the form. -/
theorem wf_zeroRange (lo hi : Nat) (h : s.mem.wf = true) : (s.zeroRange lo hi).mem.wf = true := by
  have fold : ∀ (l : List Nat) (t : State), (l.foldl State.makeDirty t).mem = t.mem := by
    intro l
    induction l with
    | nil => exact fun _ => rfl
    | cons x r ih => exact fun t => (ih _).trans (t.makeDirty_mem x)
  unfold State.zeroRange
  dsimp only
  rw [fold]
  exact wf_dropRange _ lo hi h

end Sys2Proof.Machine
end

