-- ==== Sys2Proof/Laws/PerInstr.lean ====
section
/-! SUPPORT. Laws/PerInstr.lean: the statements about every instruction as syntax, one lemma for each constructor. -/

namespace Sys2Proof.Laws

/-- A packed word lies below the power of two of its fields' widths. -/
theorem pack_lt : ∀ l : List (Nat × Nat), pack l < 2 ^ (l.map Prod.fst).sum
  | [] => by simp [pack]
  | (n, v) :: r => by
    have hr := pack_lt r
    have hv : v % 2 ^ n < 2 ^ n := Nat.mod_lt _ (Nat.two_pow_pos n)
    simp only [pack, List.map_cons, List.sum_cons, Nat.pow_add]
    calc v % 2 ^ n + 2 ^ n * pack r < 2 ^ n + 2 ^ n * pack r := by omega
      _ = 2 ^ n * (pack r + 1) := by rw [Nat.mul_add, Nat.mul_one, Nat.add_comm]
      _ ≤ 2 ^ n * 2 ^ (r.map Prod.fst).sum := Nat.mul_le_mul_left _ hr

end Sys2Proof.Laws

namespace Sys2Proof.Laws.WordFits

/-- The word of a slot instruction has no bit above those of its kind's word (R27-R34). -/
def Statement (i : Instr) : Prop := ∀ kd, i.kind = some kd → encode i < 2 ^ (8 * kd.bytes)

/-- A word packed from fields whose widths add up to the word's fits. -/
theorem of_pack {i : Instr} {kd : Kind} {l : List (Nat × Nat)} (hk : i.kind = some kd) (he : encode i = pack l)
    (hl : (l.map Prod.fst).sum = 8 * kd.bytes) : Statement i := by
  intro x h
  rw [hk] at h
  cases h
  rw [he, ← hl]
  exact pack_lt l

/-- An event has no word. -/
theorem of_none {i : Instr} (hk : i.kind = none) : Statement i := by
  intro x h
  rw [hk] at h
  cases h

theorem nopS : Statement .nopS := of_pack rfl rfl rfl
theorem addReg (st : Bool) (d : BitVec 5) (a b : SCode) : Statement (.addReg st d a b) := of_pack rfl rfl rfl
theorem addImm (st : Bool) (d : BitVec 5) (a : SCode) (i : BitVec 13) : Statement (.addImm st d a i) := of_pack rfl rfl rfl
theorem subReg (st : Bool) (d : BitVec 5) (a b : SCode) : Statement (.subReg st d a b) := of_pack rfl rfl rfl
theorem subImm (st : Bool) (d : BitVec 5) (a : SCode) (i : BitVec 13) : Statement (.subImm st d a i) := of_pack rfl rfl rfl
theorem mulReg (st : Bool) (d : BitVec 5) (a b : SCode) : Statement (.mulReg st d a b) := of_pack rfl rfl rfl
theorem mulImm (st : Bool) (d : BitVec 5) (a : SCode) (i : BitVec 13) : Statement (.mulImm st d a i) := of_pack rfl rfl rfl
theorem mulhReg (st : Bool) (d : BitVec 5) (a b : SCode) (u : Bool) : Statement (.mulhReg st d a b u) := of_pack rfl rfl rfl
theorem mulhImm (st : Bool) (d : BitVec 5) (a : SCode) (i : BitVec 13) : Statement (.mulhImm st d a i) := of_pack rfl rfl rfl
theorem divReg (st : Bool) (d : BitVec 5) (a b : SCode) (u : Bool) : Statement (.divReg st d a b u) := of_pack rfl rfl rfl
theorem divImm (st : Bool) (d : BitVec 5) (a : SCode) (i : BitVec 13) : Statement (.divImm st d a i) := of_pack rfl rfl rfl
theorem remReg (st : Bool) (d : BitVec 5) (a b : SCode) (u : Bool) : Statement (.remReg st d a b u) := of_pack rfl rfl rfl
theorem remImm (st : Bool) (d : BitVec 5) (a : SCode) (i : BitVec 13) : Statement (.remImm st d a i) := of_pack rfl rfl rfl
theorem minReg (st : Bool) (d : BitVec 5) (a b : SCode) (u : Bool) : Statement (.minReg st d a b u) := of_pack rfl rfl rfl
theorem minImm (st : Bool) (d : BitVec 5) (a : SCode) (i : BitVec 13) : Statement (.minImm st d a i) := of_pack rfl rfl rfl
theorem maxReg (st : Bool) (d : BitVec 5) (a b : SCode) (u : Bool) : Statement (.maxReg st d a b u) := of_pack rfl rfl rfl
theorem maxImm (st : Bool) (d : BitVec 5) (a : SCode) (i : BitVec 13) : Statement (.maxImm st d a i) := of_pack rfl rfl rfl
theorem andReg (st : Bool) (d : BitVec 5) (a b : SCode) : Statement (.andReg st d a b) := of_pack rfl rfl rfl
theorem andImm (st : Bool) (d : BitVec 5) (a : SCode) (i : BitVec 13) : Statement (.andImm st d a i) := of_pack rfl rfl rfl
theorem orReg (st : Bool) (d : BitVec 5) (a b : SCode) : Statement (.orReg st d a b) := of_pack rfl rfl rfl
theorem orImm (st : Bool) (d : BitVec 5) (a : SCode) (i : BitVec 13) : Statement (.orImm st d a i) := of_pack rfl rfl rfl
theorem xorReg (st : Bool) (d : BitVec 5) (a b : SCode) : Statement (.xorReg st d a b) := of_pack rfl rfl rfl
theorem xorImm (st : Bool) (d : BitVec 5) (a : SCode) (i : BitVec 13) : Statement (.xorImm st d a i) := of_pack rfl rfl rfl
theorem shlReg (st : Bool) (d : BitVec 5) (a b : SCode) : Statement (.shlReg st d a b) := of_pack rfl rfl rfl
theorem shlImm (st : Bool) (d : BitVec 5) (a : SCode) (i : BitVec 6) : Statement (.shlImm st d a i) := of_pack rfl rfl rfl
theorem shrReg (st : Bool) (d : BitVec 5) (a b : SCode) : Statement (.shrReg st d a b) := of_pack rfl rfl rfl
theorem shrImm (st : Bool) (d : BitVec 5) (a : SCode) (i : BitVec 6) : Statement (.shrImm st d a i) := of_pack rfl rfl rfl
theorem sraReg (st : Bool) (d : BitVec 5) (a b : SCode) : Statement (.sraReg st d a b) := of_pack rfl rfl rfl
theorem sraImm (st : Bool) (d : BitVec 5) (a : SCode) (i : BitVec 6) : Statement (.sraImm st d a i) := of_pack rfl rfl rfl
theorem lih (st : Bool) (d : BitVec 5) (a : SCode) (i : BitVec 13) : Statement (.lih st d a i) := of_pack rfl rfl rfl
theorem cmpReg (st : Bool) (d : BitVec 5) (a b : SCode) (c : BitVec 4) : Statement (.cmpReg st d a b c) := of_pack rfl rfl rfl
theorem cmpImm (st : Bool) (d : BitVec 5) (a : SCode) (i : BitVec 9) (c : BitVec 4) :
    Statement (.cmpImm st d a i c) := of_pack rfl rfl rfl
theorem selReg (st : Bool) (d : BitVec 5) (a b : SCode) (c : SCode) : Statement (.selReg st d a b c) := of_pack rfl rfl rfl
theorem selImm (st : Bool) (d : BitVec 5) (a : SCode) (i : BitVec 7) (c : SCode) :
    Statement (.selImm st d a i c) := of_pack rfl rfl rfl
theorem bfxReg (st : Bool) (d : BitVec 5) (a b : SCode) (g : Bool) (w : BitVec 6) :
    Statement (.bfxReg st d a b g w) := of_pack rfl rfl rfl
theorem bfxImm (st : Bool) (d : BitVec 5) (a : SCode) (g : Bool) (p w : BitVec 6) :
    Statement (.bfxImm st d a g p w) := of_pack rfl rfl rfl
theorem bfi (st : Bool) (d : BitVec 5) (a : SCode) (p w : BitVec 6) : Statement (.bfi st d a p w) := of_pack rfl rfl rfl
theorem clz (st : Bool) (d : BitVec 5) (a : SCode) : Statement (.clz st d a) := of_pack rfl rfl rfl
theorem popc (st : Bool) (d : BitVec 5) (a : SCode) : Statement (.popc st d a) := of_pack rfl rfl rfl
theorem addsReg (st : Bool) (d : BitVec 5) (a b : SCode) (h : BitVec 4) : Statement (.addsReg st d a b h) := of_pack rfl rfl rfl
theorem addsImm (st : Bool) (d : BitVec 5) (a : SCode) (i : BitVec 13) : Statement (.addsImm st d a i) := of_pack rfl rfl rfl
theorem wid (st : Bool) (d : BitVec 5) (t : Bool) (f : BitVec 3) : Statement (.wid st d t f) := of_pack rfl rfl rfl
theorem brScalar (c : BitVec 2) (a : SCode) (o : BitVec 16) : Statement (.brScalar c a o) := of_pack rfl rfl rfl
theorem brPred (c : BitVec 2) (p : BitVec 4) (o : BitVec 16) : Statement (.brPred c p o) := of_pack rfl rfl rfl
theorem bra (o : BitVec 25) : Statement (.bra o) := of_pack rfl rfl rfl
theorem call (d : BitVec 5) (o : BitVec 20) : Statement (.call d o) := of_pack rfl rfl rfl
theorem ret (a : SCode) : Statement (.ret a) := of_pack rfl rfl rfl
theorem jmpr (a : SCode) (o : BitVec 19) : Statement (.jmpr a o) := of_pack rfl rfl rfl
theorem loopn (l : BitVec 3) (a : SCode) (k : BitVec 16) : Statement (.loopn l a k) := of_pack rfl rfl rfl
theorem lend (l : BitVec 3) : Statement (.lend l) := of_pack rfl rfl rfl
theorem taskend : Statement .taskend := of_pack rfl rfl rfl
theorem lift (a : SCode) (o : BitVec 19) : Statement (.lift a o) := of_pack rfl rfl rfl
theorem lret : Statement .lret := of_pack rfl rfl rfl
theorem brbScalar (c : BitVec 2) (a : SCode) (o : BitVec 16) : Statement (.brbScalar c a o) := of_pack rfl rfl rfl
theorem brbPred (c : BitVec 2) (p : BitVec 4) (o : BitVec 16) : Statement (.brbPred c p o) := of_pack rfl rfl rfl
theorem ljoin : Statement .ljoin := of_pack rfl rfl rfl
theorem ctlrd (d : BitVec 5) (c : BitVec 10) : Statement (.ctlrd d c) := of_pack rfl rfl rfl
theorem ctlwr (a : SCode) (c : BitVec 10) : Statement (.ctlwr a c) := of_pack rfl rfl rfl
theorem eret : Statement .eret := of_pack rfl rfl rfl
theorem trap (i : BitVec 16) : Statement (.trap i) := of_pack rfl rfl rfl
theorem nopV : Statement .nopV := of_pack rfl rfl rfl
theorem vadd (h : VHead) (d : BitVec 10) (a b : VCode) (ch : Chain) : Statement (.vadd h d a b ch) := of_pack rfl rfl rfl
theorem vsub (h : VHead) (d : BitVec 10) (a b : VCode) (ch : Chain) : Statement (.vsub h d a b ch) := of_pack rfl rfl rfl
theorem vmul (h : VHead) (d : BitVec 10) (a b : VCode) (ch : Chain) : Statement (.vmul h d a b ch) := of_pack rfl rfl rfl
theorem vfma (h : VHead) (d : BitVec 10) (a b c : VCode) (ch : Chain) : Statement (.vfma h d a b c ch) := of_pack rfl rfl rfl
theorem vmin (h : VHead) (d : BitVec 10) (a b : VCode) (ch : Chain) : Statement (.vmin h d a b ch) := of_pack rfl rfl rfl
theorem vmax (h : VHead) (d : BitVec 10) (a b : VCode) (ch : Chain) : Statement (.vmax h d a b ch) := of_pack rfl rfl rfl
theorem vabs (h : VHead) (d : BitVec 10) (a : VCode) (ch : Chain) : Statement (.vabs h d a ch) := of_pack rfl rfl rfl
theorem vneg (h : VHead) (d : BitVec 10) (a : VCode) (ch : Chain) : Statement (.vneg h d a ch) := of_pack rfl rfl rfl
theorem vand (h : VHead) (d : BitVec 10) (a b : VCode) (ch : Chain) : Statement (.vand h d a b ch) := of_pack rfl rfl rfl
theorem vor (h : VHead) (d : BitVec 10) (a b : VCode) (ch : Chain) : Statement (.vor h d a b ch) := of_pack rfl rfl rfl
theorem vxor (h : VHead) (d : BitVec 10) (a b : VCode) (ch : Chain) : Statement (.vxor h d a b ch) := of_pack rfl rfl rfl
theorem vshl (h : VHead) (d : BitVec 10) (a b : VCode) (ch : Chain) : Statement (.vshl h d a b ch) := of_pack rfl rfl rfl
theorem vshr (h : VHead) (d : BitVec 10) (a b : VCode) (ch : Chain) : Statement (.vshr h d a b ch) := of_pack rfl rfl rfl
theorem vsra (h : VHead) (d : BitVec 10) (a b : VCode) (ch : Chain) : Statement (.vsra h d a b ch) := of_pack rfl rfl rfl
theorem vmov (h : VHead) (d : BitVec 10) (a : VCode) (ch : Chain) : Statement (.vmov h d a ch) := of_pack rfl rfl rfl
theorem vcmp (h : VHead) (pd : BitVec 4) (a b : VCode) (c : BitVec 6) : Statement (.vcmp h pd a b c) := of_pack rfl rfl rfl
theorem vsel (h : VHead) (d : BitVec 10) (a b : VCode) (ps : BitVec 4) : Statement (.vsel h d a b ps) := of_pack rfl rfl rfl
theorem vmac16 (h : VHead) (d : BitVec 10) (a b c : VCode) (sh : BitVec 4) : Statement (.vmac16 h d a b c sh) := of_pack rfl rfl rfl
theorem vdot4 (h : VHead) (d : BitVec 10) (a b c : VCode) : Statement (.vdot4 h d a b c) := of_pack rfl rfl rfl
theorem vred (h : VHead) (d : BitVec 10) (a : VCode) (op : BitVec 3) : Statement (.vred h d a op) := of_pack rfl rfl rfl
theorem vscan (h : VHead) (d : BitVec 10) (a : VCode) (op : BitVec 2) (x : Bool) :
    Statement (.vscan h d a op x) := of_pack rfl rfl rfl
theorem vperm (h : VHead) (d : BitVec 10) (a b : VCode) : Statement (.vperm h d a b) := of_pack rfl rfl rfl
theorem vslide (h : VHead) (d : BitVec 10) (a b : VCode) (k : BitVec 8) : Statement (.vslide h d a b k) := of_pack rfl rfl rfl
theorem vbcastScalar (h : VHead) (d : BitVec 10) (x : SCode) : Statement (.vbcastScalar h d x) := of_pack rfl rfl rfl
theorem vbcastLane (h : VHead) (d : BitVec 10) (a : VCode) (lane : BitVec 8) : Statement (.vbcastLane h d a lane) := of_pack rfl rfl rfl
theorem vpopc (h : VHead) (d : BitVec 10) (a : VCode) : Statement (.vpopc h d a) := of_pack rfl rfl rfl
theorem vcompress (h : VHead) (d : BitVec 10) (a : VCode) : Statement (.vcompress h d a) := of_pack rfl rfl rfl
theorem vexpand (h : VHead) (d : BitVec 10) (a : VCode) : Statement (.vexpand h d a) := of_pack rfl rfl rfl
theorem viota (h : VHead) (d : BitVec 10) : Statement (.viota h d) := of_pack rfl rfl rfl
theorem pand (h : VHead) (pd pa pb : BitVec 4) : Statement (.pand h pd pa pb) := of_pack rfl rfl rfl
theorem por (h : VHead) (pd pa pb : BitVec 4) : Statement (.por h pd pa pb) := of_pack rfl rfl rfl
theorem pxor (h : VHead) (pd pa pb : BitVec 4) : Statement (.pxor h pd pa pb) := of_pack rfl rfl rfl
theorem pnot (h : VHead) (pd pa : BitVec 4) : Statement (.pnot h pd pa) := of_pack rfl rfl rfl
theorem pcnt (h : VHead) (sd : BitVec 5) (pa : BitVec 4) : Statement (.pcnt h sd pa) := of_pack rfl rfl rfl
theorem pfirst (h : VHead) (sd : BitVec 5) (pa : BitVec 4) : Statement (.pfirst h sd pa) := of_pack rfl rfl rfl
theorem vcvt (h : VHead) (d : BitVec 10) (a : VCode) (part : BitVec 3) (src dst : BitVec 4) (sat sr : Bool) :
    Statement (.vcvt h d a part src dst sat sr) := of_pack rfl rfl rfl
theorem vpackb (h : VHead) (d : BitVec 10) (a : VCode) (part : BitVec 3) (rec : BitVec 2) (sr : Bool) :
    Statement (.vpackb h d a part rec sr) := of_pack rfl rfl rfl
theorem vunpackb (h : VHead) (d : BitVec 10) (a : VCode) (part : BitVec 3) (rec : BitVec 2) :
    Statement (.vunpackb h d a part rec) := of_pack rfl rfl rfl
theorem vbpackPack (h : VHead) (d : BitVec 10) (a : VCode) (part : BitVec 3) (k : SCode) (bp6 sr : Bool) :
    Statement (.vbpackPack h d a part k bp6 sr) := of_pack rfl rfl rfl
theorem vbpackUnpack (h : VHead) (d : BitVec 10) (a : VCode) (part : BitVec 3) (k : SCode) (bp6 : Bool) :
    Statement (.vbpackUnpack h d a part k bp6) := of_pack rfl rfl rfl
theorem vtr (h : VHead) (d : BitVec 10) (idx : BitVec 8) (mt : BitVec 3) (x : SCode) :
    Statement (.vtr h d idx mt x) := of_pack rfl rfl rfl
theorem vtw (h : VHead) (idx : BitVec 8) (mt : BitVec 3) (x : SCode) (a : VCode) :
    Statement (.vtw h idx mt x a) := of_pack rfl rfl rfl
theorem lreduce (h : VHead) (d : BitVec 10) (a : VCode) (op : BitVec 3) (lvl : BitVec 2) :
    Statement (.lreduce h d a op lvl) := of_pack rfl rfl rfl
theorem nopF : Statement .nopF := of_pack rfl rfl rfl
theorem frcp (st : Bool) (d : BitVec 10) (a : VCode) (p : BitVec 4) (z : Bool) :
    Statement (.frcp st d a p z) := of_pack rfl rfl rfl
theorem frsq (st : Bool) (d : BitVec 10) (a : VCode) (p : BitVec 4) (z : Bool) :
    Statement (.frsq st d a p z) := of_pack rfl rfl rfl
theorem fsqrt (st : Bool) (d : BitVec 10) (a : VCode) (p : BitVec 4) (z : Bool) :
    Statement (.fsqrt st d a p z) := of_pack rfl rfl rfl
theorem fexp2 (st : Bool) (d : BitVec 10) (a : VCode) (p : BitVec 4) (z : Bool) :
    Statement (.fexp2 st d a p z) := of_pack rfl rfl rfl
theorem flog2 (st : Bool) (d : BitVec 10) (a : VCode) (p : BitVec 4) (z : Bool) :
    Statement (.flog2 st d a p z) := of_pack rfl rfl rfl
theorem fsig (st : Bool) (d : BitVec 10) (a : VCode) (p : BitVec 4) (z : Bool) :
    Statement (.fsig st d a p z) := of_pack rfl rfl rfl
theorem ftanh (st : Bool) (d : BitVec 10) (a : VCode) (p : BitVec 4) (z : Bool) :
    Statement (.ftanh st d a p z) := of_pack rfl rfl rfl
theorem fsin (st : Bool) (d : BitVec 10) (a : VCode) (p : BitVec 4) (z : Bool) :
    Statement (.fsin st d a p z) := of_pack rfl rfl rfl
theorem fcos (st : Bool) (d : BitVec 10) (a : VCode) (p : BitVec 4) (z : Bool) :
    Statement (.fcos st d a p z) := of_pack rfl rfl rfl
theorem nopM : Statement .nopM := of_pack rfl rfl rfl
theorem ld (st : Bool) (h : MHead) (d : BitVec 5) (base : SCode) (lur : Bool) (size : BitVec 2) (sx : Bool) (stride : BitVec 11) (ofs : BitVec 14) :
    Statement (.ld st h d base lur size sx stride ofs) := of_pack rfl rfl rfl
theorem st (st : Bool) (h : MHead) (x : SCode) (base : SCode) (lur : Bool) (size : BitVec 2) (stride : BitVec 11) (ofs : BitVec 14) :
    Statement (.st st h x base lur size stride ofs) := of_pack rfl rfl rfl
theorem vld (st : Bool) (h : MHead) (p : BitVec 4) (d : BitVec 10) (base : SCode) (lur : Bool) (stride ofs : BitVec 14) :
    Statement (.vld st h p d base lur stride ofs) := of_pack rfl rfl rfl
theorem vst (st : Bool) (h : MHead) (p : BitVec 4) (x : VCode) (base : SCode) (lur : Bool) (stride ofs : BitVec 14) :
    Statement (.vst st h p x base lur stride ofs) := of_pack rfl rfl rfl
theorem vldc (st : Bool) (h : MHead) (p : BitVec 4) (d : BitVec 10) (base : SCode) (stride ofs : BitVec 14) :
    Statement (.vldc st h p d base stride ofs) := of_pack rfl rfl rfl
theorem lda (h : MHead) (d : BitVec 5) (base : SCode) (lur : Bool) (size : BitVec 2) (sx : Bool) (ofs : BitVec 14) :
    Statement (.lda h d base lur size sx ofs) := of_pack rfl rfl rfl
theorem strel (h : MHead) (x : SCode) (base : SCode) (lur : Bool) (size : BitVec 2) (ofs : BitVec 14) :
    Statement (.strel h x base lur size ofs) := of_pack rfl rfl rfl
theorem amo (h : MHead) (aop : BitVec 4) (src base cmp : SCode) (rd : BitVec 5) (size : BitVec 2) (ofs : BitVec 14) :
    Statement (.amo h aop src base cmp rd size ofs) := of_pack rfl rfl rfl
theorem cflush (st : Bool) (h : MHead) (base : SCode) (stride ofs : BitVec 14) :
    Statement (.cflush st h base stride ofs) := of_pack rfl rfl rfl
theorem cinv (st : Bool) (h : MHead) (base : SCode) (stride ofs : BitVec 14) :
    Statement (.cinv st h base stride ofs) := of_pack rfl rfl rfl
theorem cpref (st : Bool) (h : MHead) (base : SCode) (stride ofs : BitVec 14) :
    Statement (.cpref st h base stride ofs) := of_pack rfl rfl rfl
theorem vspill (h : MHead) (v : BitVec 10) (base : SCode) (lur : Bool) (n1 : BitVec 10) (ofs : BitVec 14) :
    Statement (.vspill h v base lur n1 ofs) := of_pack rfl rfl rfl
theorem vfill (h : MHead) (v : BitVec 10) (base : SCode) (lur : Bool) (n1 : BitVec 10) (ofs : BitVec 14) :
    Statement (.vfill h v base lur n1 ofs) := of_pack rfl rfl rfl
theorem fenceC (scope : BitVec 3) (mask : BitVec 16) : Statement (.fenceC scope mask) := of_pack rfl rfl rfl
theorem fenceR (scope : BitVec 3) (o : FOpd) (os : List FOpd) : Statement (.fenceR scope o os) := of_pack rfl rfl rfl
theorem tla (k : Tok) (p : BitVec 4) (lvl : BitVec 5) (node : SCode) (v : BitVec 10) (ti : BitVec 6) :
    Statement (.tla k p lvl node v ti) := of_pack rfl rfl rfl
theorem tld (k : Tok) (p : BitVec 4) (lvl : BitVec 5) (node : SCode) (v : BitVec 10) (ti : BitVec 6) (band : BitVec 3) :
    Statement (.tld k p lvl node v ti band) := of_pack rfl rfl rfl
theorem tsa (k : Tok) (p : BitVec 4) (lvl : BitVec 5) (node : SCode) (x : VCode) (ti : BitVec 6) :
    Statement (.tsa k p lvl node x ti) := of_pack rfl rfl rfl
theorem tsd (k : Tok) (p : BitVec 4) (lvl : BitVec 5) (node : SCode) (x : VCode) (ti : BitVec 6) (band : BitVec 3) :
    Statement (.tsd k p lvl node x ti band) := of_pack rfl rfl rfl
theorem tdsc (k : Tok) (p : BitVec 4) (lvl : BitVec 5) (node : SCode) (pd : BitVec 4) (ti : BitVec 6) (te : Bool) :
    Statement (.tdsc k p lvl node pd ti te) := of_pack rfl rfl rfl
theorem tcellCommit (k : Tok) (lvl : BitVec 5) (node : SCode) (ti : BitVec 6) : Statement (.tcellCommit k lvl node ti) := of_pack rfl rfl rfl
theorem tcellRelease (k : Tok) (lvl : BitVec 5) (node : SCode) (ti : BitVec 6) : Statement (.tcellRelease k lvl node ti) := of_pack rfl rfl rfl
theorem gath (h : MHead) (d : BitVec 10) (base : SCode) (lur : Bool) (sz : BitVec 2) (idx : Option VCode) (cnt : SCode) :
    Statement (.gath h d base lur sz idx cnt) := of_pack rfl rfl rfl
theorem scat (h : MHead) (x : VCode) (base : SCode) (lur : Bool) (sz : BitVec 2) (idx : Option VCode) (cnt : SCode) :
    Statement (.scat h x base lur sz idx cnt) := of_pack rfl rfl rfl
theorem scatAdd (h : MHead) (x : VCode) (base : SCode) (lur : Bool) (sz : BitVec 2) (idx : Option VCode) (cnt : SCode) (fadd : Bool) :
    Statement (.scatAdd h x base lur sz idx cnt fadd) := of_pack rfl rfl rfl
theorem qpush (core : Bool) (x : VCode) (q : BitVec 2) : Statement (.qpush core x q) := of_pack rfl rfl rfl
theorem qpop (st : Bool) (p : BitVec 4) (d : BitVec 10) (q : BitVec 2) : Statement (.qpop st p d q) := of_pack rfl rfl rfl
theorem bari (h : MHead) (src base : SCode) (ofs : BitVec 14) : Statement (.bari h src base ofs) := of_pack rfl rfl rfl
theorem bara (h : MHead) (src base : SCode) (rd : BitVec 5) (ofs : BitVec 14) :
    Statement (.bara h src base rd ofs) := of_pack rfl rfl rfl
theorem barw (h : MHead) (src base : SCode) (ofs : BitVec 14) : Statement (.barw h src base ofs) := of_pack rfl rfl rfl
theorem barx (h : MHead) (base : SCode) (rd : BitVec 5) (ofs : BitVec 14) :
    Statement (.barx h base rd ofs) := of_pack rfl rfl rfl
theorem commit (cls : Option (BitVec 4)) (cnt base : SCode) : Statement (.commit cls cnt base) := of_pack rfl rfl rfl
theorem decommit (cls : Option (BitVec 4)) (cnt base : SCode) (unmap : Bool) : Statement (.decommit cls cnt base unmap) := of_pack rfl rfl rfl
theorem alloc (h : MHead) (base : SCode) (rd : BitVec 5) : Statement (.alloc h base rd) := of_pack rfl rfl rfl
theorem free (h : MHead) (src base : SCode) : Statement (.free h src base) := of_pack rfl rfl rfl
theorem tlbinv (scope : BitVec 3) (asid base : SCode) (size : BitVec 2) : Statement (.tlbinv scope asid base size) := of_pack rfl rfl rfl
theorem nopX : Statement .nopX := of_pack rfl rfl rfl
theorem mmaScratchpad (k : Tok) (md : BitVec 3) (eb : BitVec 2) (tia : BitVec 6) (base : SCode) (kf : BitVec 8) :
    Statement (.mmaScratchpad k md eb tia base kf) := of_pack rfl rfl rfl
theorem mmaVector (k : Tok) (md : BitVec 3) (eb : BitVec 2) (tia : BitVec 6) (v : BitVec 10) (kf : BitVec 8) :
    Statement (.mmaVector k md eb tia v kf) := of_pack rfl rfl rfl
theorem mmas (k : Tok) (md : BitVec 3) (eb : BitVec 2) (tia : BitVec 6) (base : SCode) (kf : BitVec 8) :
    Statement (.mmas k md eb tia base kf) := of_pack rfl rfl rfl
theorem lde (k : Tok) (eb : BitVec 2) (tib : BitVec 6) (cmask : BitVec 8) (base : SCode) :
    Statement (.lde k eb tib cmask base) := of_pack rfl rfl rfl
theorem mzero (ks : List (BitVec 5)) (mt : BitVec 3) : Statement (.mzero ks mt) := of_pack rfl rfl rfl
theorem msave (k : Tok) (mt : BitVec 3) (sp : Bool) (base : SCode) (ofs : BitVec 13) :
    Statement (.msave k mt sp base ofs) := of_pack rfl rfl rfl
theorem mload (k : Tok) (mt : BitVec 3) (sp : Bool) (base : SCode) (ofs : BitVec 13) :
    Statement (.mload k mt sp base ofs) := of_pack rfl rfl rfl
theorem copy (k : Tok) (desc soff doff : SCode) : Statement (.copy k desc soff doff) := of_pack rfl rfl rfl
theorem rlay (k : Tok) (tis tid : BitVec 6) (sb db prm : SCode) (rm : BitVec 2) (sat : Bool) :
    Statement (.rlay k tis tid sb db prm rm sat) := of_pack rfl rfl rfl
theorem stage (k : Tok) (n : BitVec 9) (soff doff : SCode) : Statement (.stage k n soff doff) := of_pack rfl rfl rfl
theorem mgset (k : Tok) (desc tag : SCode) : Statement (.mgset k desc tag) := of_pack rfl rfl rfl
theorem mgpush (k : Tok) (stream : BitVec 4) (v : BitVec 10) (cnt tag : SCode) :
    Statement (.mgpush k stream v cnt tag) := of_pack rfl rfl rfl
theorem mgfin (k : Tok) (ti : BitVec 6) (tag tsk : SCode) (dec : Bool) : Statement (.mgfin k ti tag tsk dec) := of_pack rfl rfl rfl
theorem contract (k : Tok) (blk : SCode) : Statement (.contract k blk) := of_pack rfl rfl rfl
theorem astart (k : Tok) (entry arg : SCode) : Statement (.astart k entry arg) := of_pack rfl rfl rfl
theorem astartPost (k : Tok) (flag : BitVec 4) (n : BitVec 8) : Statement (.astartPost k flag n) := of_pack rfl rfl rfl
theorem send (k : Tok) (link : BitVec 5) (sp : Bool) (buf len : SCode) (tag : BitVec 8) :
    Statement (.send k link sp buf len tag) := of_pack rfl rfl rfl
theorem recv (k : Tok) (link : BitVec 5) (sp : Bool) (buf len : SCode) (tag : BitVec 8) :
    Statement (.recv k link sp buf len tag) := of_pack rfl rfl rfl
theorem ramo (k : Tok) (aop : BitVec 4) (d8 : Bool) (base src cmp : SCode) (rd : BitVec 5) :
    Statement (.ramo k aop d8 base src cmp rd) := of_pack rfl rfl rfl
theorem launch (k : Tok) (rec : SCode) : Statement (.launch k rec) := of_pack rfl rfl rfl
theorem taskset (k : Tok) (ent slot : SCode) : Statement (.taskset k ent slot) := of_pack rfl rfl rfl
theorem taskdec (k : Tok) (val : SCode) : Statement (.taskdec k val) := of_pack rfl rfl rfl
theorem nopY : Statement .nopY := of_pack rfl rfl rfl
theorem fwait (f : BitVec 4) (n : BitVec 8) : Statement (.fwait f n) := of_pack rfl rfl rfl
theorem fpost (f : BitVec 4) (self : Bool) (ctx : BitVec 2) (n : BitVec 5) :
    Statement (.fpost f self ctx n) := of_pack rfl rfl rfl
theorem fpostr (f : BitVec 4) (a : SCode) : Statement (.fpostr f a) := of_pack rfl rfl rfl
theorem kwait (nt : Bool) (k : BitVec 5) : Statement (.kwait nt k) := of_pack rfl rfl rfl
theorem killScalar (blk : BitVec 4) (mask : SCode) : Statement (.killScalar blk mask) := of_pack rfl rfl rfl
theorem killImmLo (blk : BitVec 4) (imm : BitVec 32) : Statement (.killImmLo blk imm) := of_pack rfl rfl rfl
theorem killImmHi (blk : BitVec 4) (imm : BitVec 32) : Statement (.killImmHi blk imm) := of_pack rfl rfl rfl
theorem headerOnlyBundle : Statement .headerOnlyBundle := of_none rfl
theorem instructionFetch (agent : Nat) : Statement (.instructionFetch agent) := of_none rfl
theorem resultLanding (agent : Nat) : Statement (.resultLanding agent) := of_none rfl
theorem lateDataArrival (agent : Nat) : Statement (.lateDataArrival agent) := of_none rfl
theorem translationAnswer (agent : Nat) : Statement (.translationAnswer agent) := of_none rfl
theorem blockEnd (agent : Nat) : Statement (.blockEnd agent) := of_none rfl
theorem quantumBlock (agent : Nat) : Statement (.quantumBlock agent) := of_none rfl
theorem sfuTake (core : Nat) : Statement (.sfuTake core) := of_none rfl
theorem storePerform (agent id : Nat) : Statement (.storePerform agent id) := of_none rfl
theorem migrationWindow : Statement .migrationWindow := of_none rfl
theorem calendarRotation : Statement .calendarRotation := of_none rfl
theorem calendarSlot (channel : Nat) : Statement (.calendarSlot channel) := of_none rfl
theorem budgetPeriod : Statement .budgetPeriod := of_none rfl
theorem calendarCommit : Statement .calendarCommit := of_none rfl
theorem laneLendingHandshake (channel : Nat) : Statement (.laneLendingHandshake channel) := of_none rfl
theorem arrayCommandStart (core : Nat) : Statement (.arrayCommandStart core) := of_none rfl
theorem arrayCommandComplete (core : Nat) : Statement (.arrayCommandComplete core) := of_none rfl
theorem latchCommandStart (core : Nat) : Statement (.latchCommandStart core) := of_none rfl
theorem ldeComplete (core : Nat) : Statement (.ldeComplete core) := of_none rfl
theorem treeCommandStart (core : Nat) : Statement (.treeCommandStart core) := of_none rfl
theorem treeAccessPerform (core : Nat) : Statement (.treeAccessPerform core) := of_none rfl
theorem copyCommandStart (core : Nat) : Statement (.copyCommandStart core) := of_none rfl
theorem copyComplete (core id : Nat) : Statement (.copyComplete core id) := of_none rfl
theorem scheduleEntryStart (core : Nat) : Statement (.scheduleEntryStart core) := of_none rfl
theorem barrierArrival (n : Nat) : Statement (.barrierArrival n) := of_none rfl
theorem flagPostArrival (n : Nat) : Statement (.flagPostArrival n) := of_none rfl
theorem mgsetOpen (cluster : Nat) : Statement (.mgsetOpen cluster) := of_none rfl
theorem mgpushArrival (cluster : Nat) : Statement (.mgpushArrival cluster) := of_none rfl
theorem mgfinClose (cluster : Nat) : Statement (.mgfinClose cluster) := of_none rfl
theorem accessProgramStart (core : Nat) : Statement (.accessProgramStart core) := of_none rfl
theorem rangeCounterRelease (core : Nat) : Statement (.rangeCounterRelease core) := of_none rfl
theorem freeApply (agent : Nat) : Statement (.freeApply agent) := of_none rfl
theorem messageArrival (core : Nat) : Statement (.messageArrival core) := of_none rfl
theorem creditReturn (link flits : Nat) : Statement (.creditReturn link flits) := of_none rfl
theorem recvComplete (core : Nat) : Statement (.recvComplete core) := of_none rfl
theorem ramoRemoteOperation (core : Nat) : Statement (.ramoRemoteOperation core) := of_none rfl
theorem remoteSignalDelivery (n : Nat) : Statement (.remoteSignalDelivery n) := of_none rfl
theorem linkTrained (link : Nat) : Statement (.linkTrained link) := of_none rfl
theorem linkDown (link : Nat) : Statement (.linkDown link) := of_none rfl
theorem singleStepStop (ctx : Nat) : Statement (.singleStepStop ctx) := of_none rfl
theorem tasksetArm (core : Nat) : Statement (.tasksetArm core) := of_none rfl
theorem debugStop (ctx : Nat) : Statement (.debugStop ctx) := of_none rfl
theorem preemptionRequest (ctx : Nat) : Statement (.preemptionRequest ctx) := of_none rfl
theorem preemptionSaveComplete (ctx : Nat) : Statement (.preemptionSaveComplete ctx) := of_none rfl
theorem contextResume (ctx : Nat) : Statement (.contextResume ctx) := of_none rfl
theorem hostAccess (pa : Nat) (write : Bool) (data : List (BitVec 8)) : Statement (.hostAccess pa write data) := of_none rfl
theorem launchAdmission : Statement .launchAdmission := of_none rfl
theorem taskDispatch (ctx : Nat) : Statement (.taskDispatch ctx) := of_none rfl
theorem taskStart (ctx : Nat) : Statement (.taskStart ctx) := of_none rfl
theorem taskStaging (core : Nat) : Statement (.taskStaging core) := of_none rfl
theorem budgetOverrun (ctx : Nat) : Statement (.budgetOverrun ctx) := of_none rfl
theorem slotDecrement (n : Nat) : Statement (.slotDecrement n) := of_none rfl
theorem slotEnqueue (slot : Nat) : Statement (.slotEnqueue slot) := of_none rfl
theorem taskendComplete (agent : Nat) : Statement (.taskendComplete agent) := of_none rfl
theorem launchCompletion (launch : Nat) : Statement (.launchCompletion launch) := of_none rfl
theorem lqtailWrite (v : BitVec 64) : Statement (.lqtailWrite v) := of_none rfl
theorem ringEntryRead : Statement .ringEntryRead := of_none rfl
theorem launchQueueReset (v : BitVec 64) : Statement (.launchQueueReset v) := of_none rfl
theorem taskRerun (ctx : Nat) : Statement (.taskRerun ctx) := of_none rfl
theorem machineCheck (ctx : Nat) : Statement (.machineCheck ctx) := of_none rfl
theorem svcdoneResume (index : Nat) (arg : BitVec 32) : Statement (.svcdoneResume index arg) := of_none rfl
theorem svcdoneEnd (index : Nat) : Statement (.svcdoneEnd index) := of_none rfl
theorem svcdoneRerun (index : Nat) : Statement (.svcdoneRerun index) := of_none rfl
theorem ctxcmdPreempt (ctx : Nat) : Statement (.ctxcmdPreempt ctx) := of_none rfl
theorem ctxcmdStop (ctx : Nat) : Statement (.ctxcmdStop ctx) := of_none rfl
theorem ctxcmdResume (ctx : Nat) : Statement (.ctxcmdResume ctx) := of_none rfl
theorem ctxcmdSetdbg (ctx : Nat) (dbg : BitVec 6) : Statement (.ctxcmdSetdbg ctx dbg) := of_none rfl
theorem ctxcmdArmdbg (ctx : Nat) (dbg : BitVec 6) : Statement (.ctxcmdArmdbg ctx dbg) := of_none rfl
theorem traceOpen (cluster : Nat) : Statement (.traceOpen cluster) := of_none rfl
theorem traceClose (cluster : Nat) : Statement (.traceClose cluster) := of_none rfl
theorem mgmtcmdLoad (blk : Nat) : Statement (.mgmtcmdLoad blk) := of_none rfl
theorem mgmtcmdAttest (blk : Nat) : Statement (.mgmtcmdAttest blk) := of_none rfl
theorem clockStepChange (step : BitVec 4) : Statement (.clockStepChange step) := of_none rfl
theorem powerOnReset : Statement .powerOnReset := of_none rfl
theorem fullServiceSwitch : Statement .fullServiceSwitch := of_none rfl
theorem coreLeavesReset (core : Nat) : Statement (.coreLeavesReset core) := of_none rfl
theorem registerWrite (csel : BitVec 10) (unit : Nat) (v : BitVec 64) : Statement (.registerWrite csel unit v) := of_none rfl
theorem coreEntersReset (core : Nat) : Statement (.coreEntersReset core) := of_none rfl
theorem corePowerGate (core : Nat) : Statement (.corePowerGate core) := of_none rfl
theorem corePowerUngate (core : Nat) : Statement (.corePowerUngate core) := of_none rfl
theorem inboundFabricAccess (pa : Nat) (write : Bool) (data : List (BitVec 8)) : Statement (.inboundFabricAccess pa write data) := of_none rfl

end Sys2Proof.Laws.WordFits
end

