-- ==== Sys2Proof/Laws/Step.lean ====
section
/-! SUPPORT. Laws/Step.lean: how a step goes on (log 1), and the issue of a bundle in which one operation acts. -/

namespace Sys2Proof.Machine

@[simp] theorem andThen_next (s : State) (k : State → Host.Outcome State Fault Refusal) : andThen (.next s) k = k s := rfl
@[simp] theorem andThen_fault (f : Fault) (k : State → Host.Outcome State Fault Refusal) : andThen (.fault f) k = .fault f := rfl
@[simp] theorem andThen_refused (f : Refusal) (k : State → Host.Outcome State Fault Refusal) :
    andThen (.refused f) k = .refused f := rfl

/-- What follows a part of a step runs when that part answers a next state. -/
theorem andThen_eq_next {o : Host.Outcome State Fault Refusal} {k : State → Host.Outcome State Fault Refusal} {t : State} :
    andThen o k = .next t ↔ ∃ s, o = .next s ∧ k s = .next t := by
  cases o <;> simp [andThen]

/-- The event that the agenda holds first is the next step. -/
theorem step_agenda {s : State} {i : Instr} {r : List Instr} (h : s.agenda = i :: r) : step s = exec i { s with agenda := r } := by
  unfold step
  rw [h]

/-- A calendar commit that waits is the next step. -/
theorem step_commit {s : State} (h : s.agenda = []) (hb : s.dev.calbusy = true) (hr : s.dev.calread = false) :
    step s = exec .calendarCommit s := by
  unfold step
  rw [h]
  simp [hb, hr]

/-- A background event is due. -/
theorem step_background {s : State} (h : s.agenda = []) (hc : (s.dev.calbusy && !s.dev.calread) = false) (hb : s.bg = true) :
    step s = background s := by
  unfold step
  rw [h]
  simp [hc, hb]

/-- A core cycle is due. -/
theorem step_cycle {s : State} (h : s.agenda = []) (hc : (s.dev.calbusy && !s.dev.calread) = false) (hb : s.bg = false) :
    step s = nextCycle s := by
  unfold step
  rw [h]
  simp [hc, hb]

/-- One operation acts in one order only. -/
theorem runOrder_one (r : Oper) : runOrder [r] = [r] := by
  obtain ⟨n, i, f, c, b, k⟩ := r
  cases i <;> rfl

/-- A re-issue is of the same word. -/
theorem resume_isMove (o : Oper) (s : State) (x : Inst) : isMove (o.resume s x).instr = isMove o.instr := by
  unfold Oper.resume
  split
  · split
    · rename_i k _ h
      simp only [Bool.and_eq_true, beq_iff_eq] at h
      simp [Sticky.oper, h.1.2]
    · rfl
  · rfl

/-- A step from an agenda keeps memory's form when its event does. -/
theorem wf_step_agenda {s t : State} {i : Instr} {r : List Instr} (h : s.agenda = i :: r)
    (hi : ∀ u, exec i { s with agenda := r } = .next u → u.mem.wf = true) (hs : step s = .next t) : t.mem.wf = true :=
  hi t (step_agenda h ▸ hs)

end Sys2Proof.Machine
end

