-- ==== Sys2Proof/Tests/Slice0.lean ====
section
/-! SUPPORT. Tests/Slice0.lean: the model's own tests: ill-formed terms, words written out from the manual's encodings and worked
examples, single issues, and, for each statement, states and operands that meet its hypotheses. -/

namespace Sys2Proof.Tests
set_option Elab.async false

open Sys2Proof.Machine Sys2Proof.Spec

/-! Ill-formed terms, one or more for each check of WellFormed. -/

/-- A V head of a mode. -/
def vh (m : BitVec 4) : VHead := ⟨false, m, 0, false⟩
/-- The same with `.z`. -/
def vz (m : BitVec 4) : VHead := ⟨false, m, 0, true⟩
/-- An access head with the bundle's class and scope `.ctx`. -/
def mh : MHead := ⟨none, 0⟩
/-- A token field without consumed tokens. -/
def tk (k : BitVec 5) : Tok := ⟨k, []⟩

/-- R72, R75, R181, R183, R185, R390: a reserved condition, width, form, loop level, control register. -/
theorem test_wf_scalar : ([.cmpReg false 1 (.s 1) (.s 2) 10, .cmpImm false 1 (.s 1) 0 15, .wid false 1 false 6, .brPred 3 1 0, .brbPred 3 1 0,
    .loopn 6 (.s 1) 0, .lend 7, .ctlrd 1 0x3FF, .ctlwr (.s 1) 0x3FF].all fun i => !Instr.wf i) = true := by decide

/-- R26, R28, R29: a destination or a source above v767, a short code above v31, a cascade that finds no field. -/
theorem test_wf_codes : ([.vadd (vh 0) 768 (.v 1) (.v 2) .none, .vadd (vh 0) 1 (.v 768) (.v 2) .none, .vadd (vh 0) 1 (.v 1) (.v 800) .none,
    .vfma (vh 0) 1 (.v 1) (.v 2) (.v 32) .none, .vadd (vh 0) 1 (.v 1) (.v 2) (.one .add (.v 32)),
    .vfma (vh 0) 1 (.v 1) (.v 2) (.v 3) (.two .add (.v 4) .add (.v 5)), .vdot4 (vh 14) 1 (.v 1) (.v 2) (.v 40),
    .vmac16 (vh 13) 1 (.v 1) (.v 2) (.v 40) 0, .vabs (vh 0) 768 (.v 1) .none, .frcp false 768 (.v 1) 0 false, .frcp false 1 (.v 768) 0 false,
    .vld false mh 0 768 (.s 1) false 0 0, .vst false mh 0 (.v 768) (.s 1) false 0 0, .qpush false (.v 768) 0, .qpop false 0 768 0]
    |>.all fun i => !Instr.wf i) = true := by decide

/-- R82, R85-R96, R110-R120: a mode, operation, lane, part or `.z` that the instruction does not have. -/
theorem test_wf_vector : ([.vshl (vh 0) 1 (.v 1) (.v 2) .none, .vshr (vh 3) 1 (.v 1) (.v 2) .none, .vsra (vh 11) 1 (.v 1) (.v 2) .none,
    .vcmp (vh 0) 1 (.v 1) (.v 2) 12, .vmac16 (vh 12) 1 (.v 1) (.v 2) (.v 3) 0, .vdot4 (vh 13) 1 (.v 1) (.v 2) (.v 3), .vred (vz 0) 1 (.v 1) 0,
    .vred (vh 0) 1 (.v 1) 7, .vscan (vh 0) 1 (.v 1) 3 false, .vslide (vh 0) 1 (.v 1) (.v 2) 64, .vbcastLane (vh 13) 1 (.v 1) 128,
    .vpopc (vh 0) 1 (.v 1), .viota (vh 0) 1, .pand (vh 1) 1 1 1, .por (vh 1) 1 1 1, .pxor (vh 1) 1 1 1, .pnot (vh 1) 1 1, .pcnt (vz 0) 1 1,
    .pfirst (vz 0) 1 1, .vcvt (vh 0) 1 (.v 1) 0 15 0 false false, .vpackb (vh 4) 1 (.v 1) 0 0 false, .vpackb (vh 0) 1 (.v 1) 7 0 false,
    .vunpackb (vh 4) 1 (.v 1) 0 0, .vunpackb (vh 0) 1 (.v 1) 7 0, .vbpackPack (vh 4) 1 (.v 1) 0 (.s 1) false false,
    .vbpackPack (vh 0) 1 (.v 1) 4 (.s 1) false false, .vbpackUnpack (vh 0) 1 (.v 1) 5 (.s 1) true, .vtr (vh 12) 1 0 0 (.s 0),
    .vtw (vz 0) 0 0 (.s 0) (.v 1), .lreduce (vh 0) 1 (.v 1) 0 0].all fun i => !Instr.wf i) = true := by decide

/-- R31, R67, R148-R155, R168, R170, R309-R311, R362-R365: a reserved scope, size, operation, mask, operand. -/
theorem test_wf_access : ([.ld false ⟨none, 5⟩ 1 (.s 1) false 0 false 0 0, .ld false mh 1 (.s 1) false 3 true 0 0,
    .st false ⟨some 1, 7⟩ (.s 2) (.s 1) false 0 0 0, .lda mh 1 (.s 1) false 1 false 0, .strel mh (.s 2) (.s 1) false 0 0,
    .amo mh 15 (.s 1) (.s 2) (.s 0) 1 2 0, .amo mh 0 (.s 1) (.s 2) (.s 0) 1 1 0, .cpref false ⟨none, 4⟩ (.s 1) 0 0,
    .cflush false ⟨none, 6⟩ (.s 1) 0 0, .vspill mh 0 (.s 1) false 768 0, .vfill mh 768 (.s 1) false 0 0, .fenceC 5 1, .fenceC 0 0,
    .fenceR 5 (.ti 1) [], .fenceR 0 (.range 31) [], .fenceR 0 (.ti 0) [.ti 1, .ti 2, .ti 3, .ti 4], .gath mh 1 (.s 1) false 1 none (.s 0),
    .gath mh 1 (.s 1) false 2 (some .held) (.s 0), .scat mh (.v 768) (.s 1) false 2 none (.s 0), .scatAdd mh (.v 1) (.s 1) false 3 none (.s 0) true,
    .bari ⟨none, 5⟩ (.s 1) (.s 2) 0, .alloc ⟨none, 0⟩ (.s 1) 1, .free ⟨none, 2⟩ (.s 1) (.s 2), .tlbinv 0 (.s 1) (.s 2) 0,
    .tlbinv 5 (.s 1) (.s 2) 0].all fun i => !Instr.wf i) = true := by decide

/-- R32, R34, R206, R238, R272, R275, R301, R319, R411: too many tokens, a count, band, link, block or flag count that is reserved. -/
theorem test_wf_engine : ([.tla ⟨1, [1, 2, 3, 4]⟩ 0 0 (.s 1) 1 0, .tla (tk 1) 0 0 (.s 1) 768 0, .tld (tk 1) 0 0 (.s 1) 1 0 0,
    .tsa (tk 1) 0 0 (.s 1) .held 0, .tsd (tk 1) 0 0 (.s 1) (.v 1) 0 0, .mmaScratchpad (tk 1) 0 0 0 (.s 1) 129, .mmaVector (tk 1) 0 0 0 1 0,
    .mmaVector (tk 1) 0 0 0 768 1, .mmas (tk 1) 0 0 0 (.s 1) 200, .mzero [1, 2, 3, 4] 0, .lde ⟨1, [1, 2, 3, 4]⟩ 0 0 0 (.s 1),
    .stage (tk 1) 0 (.s 0) (.s 0), .stage (tk 1) 257 (.s 0) (.s 0), .mgpush (tk 1) 0 768 (.s 0) (.s 1), .mgfin (tk 1) 0 (.s 1) (.s 2) false,
    .astartPost (tk 1) 0 0, .send (tk 1) 18 false (.s 1) (.s 2) 0, .recv (tk 1) 31 false (.s 1) (.s 2) 0,
    .ramo (tk 1) 15 true (.s 1) (.s 2) (.s 0) 1, .fpost 0 false 0 0, .fpost 0 true 1 1, .killScalar 12 (.s 1), .killImmLo 13 0,
    .killImmHi 15 0].all fun i => !Instr.wf i) = true := by decide

/-! Words written out from the encodings (R25-R34) and worked examples of the manual. -/

/-- The bits of a word, from fields written as the tables write them: the highest field first, each with its width and value. -/
def bits (l : List (Nat × Nat)) : Nat := l.foldl (fun w f => w * 2 ^ f.1 + f.2) 0

/-- R27, chapter 3: `ADD s3, s1, s2` and `ADD s4, s1, 16`; `SUB s4, s4, 1`; `SHL s6, s6, s7`; `ADDS s1, s5, s1, 1`. -/
theorem test_decode_scalar : bits [(6, 0x01), (1, 0), (5, 3), (6, 1), (1, 0), (6, 2), (7, 0)] = 0x04304100 ∧
    decodeWord .s 0x04304100 = .ok (.addReg false 3 (.s 1) (.s 2)) ∧
    bits [(6, 0x01), (1, 0), (5, 4), (6, 1), (1, 1), (13, 16)] = 0x04406010 ∧ decodeWord .s 0x04406010 = .ok (.addImm false 4 (.s 1) 16) ∧
    decodeWord .s 0x08412001 = .ok (.subImm false 4 (.s 4) 1) ∧ decodeWord .s 0x30618380 = .ok (.shlReg false 6 (.s 6) (.s 7)) ∧
    decodeWord .s 0x58114081 = .ok (.addsReg false 1 (.s 5) (.s 1) 1) := by decide +kernel

/-- R27, R181-R186, R343-R347: control words of the manual's listings. -/
theorem test_decode_control : bits [(6, 0x20), (1, 0), (1, 0), (2, 1), (6, 3), (16, 4)] = 0x80430004 ∧
    decodeWord .s 0x80430004 = .ok (.brScalar 1 (.s 3) 4) ∧ decodeWord .s 0x8400000B = .ok (.bra 11) ∧
    decodeWord .s 0x90800000 = .ok (.jmpr (.s 16) 0) ∧ decodeWord .s 0x940C0030 = .ok (.loopn 0 (.s 12) 0x30) ∧
    decodeWord .s 0x98000000 = .ok (.lend 0) ∧ decodeWord .s 0xA008000B = .ok (.lift (.s 1) 11) ∧ decodeWord .s 0xA4000000 = .ok .lret ∧
    decodeWord .s 0xA9820005 = .ok (.brbPred 2 2 5) ∧ decodeWord .s 0xAC000000 = .ok .ljoin ∧ decodeWord .s 0x9C000000 = .ok .taskend := by
  decide +kernel

/-- R28, R29: V words of the manual's examples; `VMUL.f32 ^, v1, v2 -> VADD.f32 ^, ^, v3 -> VMAX.f32 v10, ^, v20` field by field. -/
theorem test_decode_vector : bits [(1, 0), (6, 3), (3, 1), (3, 6), (4, 0), (4, 0), (1, 0), (10, 10), (10, 1), (10, 2), (6, 3), (6, 20)] =
      0x0670000A004020D4 ∧
    decodeWord .v 0x0670000A004020D4 = .ok (.vmul (vh 0) 10 (.v 1) (.v 2) (.two .add (.v 3) .max (.v 20))) ∧
    decodeWord .v 0x5800002800000000 = .ok (.vtr (vh 0) 40 0 0 (.s 0)) ∧
    decodeWord .v 0x2E06800A02008002 = .ok (.vslide (vh 13) 10 (.v 8) (.v 8) 2) ∧
    decodeWord .v 0x3006800000000280 = .ok (.vbcastScalar (vh 13) 0 (.s 10)) ∧
    decodeWord .v 0x2800002006000000 = .ok (.vred (vh 0) 32 (.v 24) 0) ∧ decodeWord .v 0x5C00003004000002 = .ok (.lreduce (vh 0) 48 (.v 16) 0 2) ∧
    decodeWord .v 0x4A02100500C00000 = .ok (.pfirst ⟨false, 4, 2, false⟩ 5 3) ∧
    decodeWord .v 0x5200001400800080 = .ok (.vpackb (vh 0) 20 (.v 2) 0 2 false) := by decide +kernel

/-- R30: `FSIG v14, v10` field by field, and `FRSQ v40, v32`. -/
theorem test_decode_special : bits [(5, 6), (1, 0), (10, 14), (10, 10), (4, 0), (1, 0), (1, 0)] = 0x300E0280 ∧
    decodeWord .f 0x300E0280 = .ok (.fsig false 14 (.v 10) 0 false) ∧ decodeWord .f 0x10280800 = .ok (.frsq false 40 (.v 32) 0 false) := by
  decide +kernel

/-- R31: accesses; `LD.ws s5, [s9, 3]` field by field. -/
theorem test_decode_access : bits [(6, 1), (1, 0), (4, 0), (1, 1), (3, 0), (4, 0), (4, 0), (6, 5), (6, 9), (1, 0), (2, 2), (1, 1), (11, 0), (14, 3)] =
      0x041000292A000003 ∧
    decodeWord .m 0x041000292A000003 = .ok (.ld false mh 5 (.s 9) false 2 true 0 3) ∧
    decodeWord .m 0x101020B840000000 = .ok (.vst false mh 1 (.v 23) (.s 2) false 0 0) ∧
    decodeWord .m 0x3010008080014000 = .ok (.vspill mh 16 (.s 4) false 5 0) ∧
    decodeWord .m 0x1814002288000000 = .ok (.lda ⟨none, 2⟩ 4 (.s 20) false 2 false 0) ∧
    decodeWord .m 0x3806000060000000 = .ok (.fenceC 3 3) ∧ decodeWord .m 0x3C0608070A000000 = .ok (.fenceR 3 (.ti 3) [.range 20]) ∧
    decodeWord .m 0x6810003068020A20 = .ok (.scatAdd mh (.v 6) (.s 3) false 2 (some (.v 2)) (.s 5) true) ∧
    decodeWord .m 0x6010002068020A00 = .ok (.gath mh 4 (.s 3) false 2 (some (.v 2)) (.s 5)) := by decide +kernel

/-- R277-R280, R305, R358-R365: barriers, queues, tiles, heaps, invalidation. -/
theorem test_decode_memory : decodeWord .m 0x8014004120000000 = .ok (.bari ⟨none, 2⟩ (.s 8) (.s 9) 0) ∧
    decodeWord .m 0x8814000120000000 = .ok (.barw ⟨none, 2⟩ (.s 0) (.s 9) 0) ∧ decodeWord .m 0x6C00002000000001 = .ok (.qpush false (.v 4) 1) ∧
    decodeWord .m 0x7000005000000001 = .ok (.qpop false 0 10 1) ∧ decodeWord .m 0xA010005120000000 = .ok (.commit none (.s 10) (.s 9)) ∧
    decodeWord .m 0xA410005130000000 = .ok (.decommit none (.s 10) (.s 9) true) ∧
    decodeWord .m 0xA816000120180000 = .ok (.alloc ⟨none, 3⟩ (.s 9) 6) ∧ decodeWord .m 0xAC16003120000000 = .ok (.free ⟨none, 3⟩ (.s 6) (.s 9)) ∧
    decodeWord .m 0xB006002928000000 = .ok (.tlbinv 3 (.s 5) (.s 9) 1) := by decide +kernel

/-- R31, R237-R239: the engine layout; `TSA k7, ti5, 0, s4, v60, k6` has KN 1 and KA 6. -/
theorem test_decode_tree : decodeWord .m 0x4A74C0000040F050 = .ok (.tsa ⟨7, [6]⟩ 0 0 (.s 4) (.v 60) 5) ∧
    decodeWord .m 0x42600000_8C00D050 = .ok (.tla ⟨6, []⟩ 1 3 (.s 0) 52 5) ∧ decodeWord .m 0x52500000_10000450 = .ok (.tdsc ⟨5, []⟩ 0 4 (.s 0) 1 5 false) := by
  decide +kernel

/-- R32: X words; `MMA k2, m0, e0, ti1, [s10], k1` has T 1, KOUT 2, KN 1 and KA 1. -/
theorem test_decode_engine : bits [(6, 1), (1, 1), (5, 2), (2, 1), (5, 1), (5, 0), (5, 0), (35, 0x01014000)] = 0x0624200001014000 ∧
    decodeWord .x 0x0624200001014000 = .ok (.mmaScratchpad ⟨2, [1]⟩ 0 0 1 (.s 10) 0) ∧
    decodeWord .x 0x0630000144880400 = .ok (.mmaVector ⟨3, []⟩ 1 1 4 64 32) ∧ decodeWord .x 0x0E50000438786000 = .ok (.lde ⟨5, []⟩ 2 7 15 (.s 3)) ∧
    decodeWord .x 0x1000000100000000 = .ok (.mzero [] 1) ∧ decodeWord .x 0x1640000118002000 = .ok (.msave ⟨4, []⟩ 1 false (.s 12) 2) ∧
    decodeWord .x 0x1A20000396000000 = .ok (.mload ⟨2, []⟩ 3 true (.s 11) 0) ∧ decodeWord .x 0x22300001A0000000 = .ok (.copy ⟨3, []⟩ (.s 13) (.s 0) (.s 0)) ∧
    decodeWord .x 0x2A4000000801C000 = .ok (.stage ⟨4, []⟩ 2 (.s 0) (.s 7)) := by decide +kernel

/-- R32, R300-R319, R384-R387, R411-R415: merge, access program, task and fabric words. -/
theorem test_decode_units : decodeWord .x 0x4210000145800000 = .ok (.mgset ⟨1, []⟩ (.s 10) (.s 11)) ∧
    decodeWord .x 0x4620000185061600 = .ok (.mgpush ⟨2, []⟩ 3 40 (.s 12) (.s 11)) ∧
    decodeWord .x 0x4A34400125800000 = .ok (.mgfin ⟨3, [2]⟩ 9 (.s 11) (.s 0) false) ∧ decodeWord .x 0x4E400001C0000000 = .ok (.contract ⟨4, []⟩ (.s 14)) ∧
    decodeWord .x 0x527000028A800000 = .ok (.astart ⟨7, []⟩ (.s 20) (.s 21)) ∧ decodeWord .x 0x52800000004C0400 = .ok (.astartPost ⟨8, []⟩ 3 1) ∧
    decodeWord .x 0x8210000120000000 = .ok (.launch ⟨1, []⟩ (.s 9)) ∧ decodeWord .x 0x8620000145800000 = .ok (.taskset ⟨2, []⟩ (.s 10) (.s 11)) ∧
    decodeWord .x 0x62100000E4940E00 = .ok (.send ⟨1, []⟩ 3 true (.s 9) (.s 10) 7) ∧
    decodeWord .x 0x66200000E5940E00 = .ok (.recv ⟨2, []⟩ 3 true (.s 11) (.s 10) 7) ∧
    decodeWord .x 0x6A300000491C0300 = .ok (.ramo ⟨3, []⟩ 0 true (.s 9) (.s 7) (.s 0) 6) := by decide +kernel

/-- R33, R34, R288-R294: Y and K words. -/
theorem test_decode_wait_kill : decodeWord .y 0x1101 = .ok (.fwait 1 1) ∧ decodeWord .y 0x2001 = .ok (.fpost 0 false 0 1) ∧
    decodeWord .y 0x300D = .ok (.fpostr 0 (.s 13)) ∧ decodeWord .y 0x4002 = .ok (.kwait false 2) ∧
    bits [(4, 2), (2, 1), (6, 0), (20, 0), (32, 0xFFFF)] = 0x240000000000FFFF ∧ decodeWord .k 0x240000000000FFFF = .ok (.killImmLo 2 0xFFFF) := by
  decide +kernel

/-- R45, R68, R82, R170: encodings that the manual refuses: with subcode 0x01 an opcode that is not assigned, with 0x02 a reserved value. -/
theorem test_decode_refused : decodeWord .s 0xFC000000 = .error .unassigned ∧ decodeWord .v 0x5806002800000000 = .error (.reserved 0x2C) ∧
    decodeWord .v 0x2000000302009300 = .error (.reserved 0x10) ∧ decodeWord .m 0x3C0608070F800000 = .error (.reserved 0x0F) ∧
    decodeWord .y 0x14002 = .error (.reserved 4) := by decide +kernel

/-! Single issues. -/

/-- Registers with small values: s1 = 5, s2 = 7, s3 all ones, s4 = 0x200000, s5 = 0x100000; lanes of v1 and v2; p1 of 8 lanes of F32. -/
def regs : Regs :=
  { s := [(1, 5), (2, 7), (3, 0xFFFFFFFFFFFFFFFF), (4, 0x200000), (5, 0x100000)], v := [(1, 0x00000003_00000001), (2, 0x00000004_00000002)]
    p := [(0, BitVec.allOnes 256), (1, 0xFFFFFFFF)] }

/-- A context with a full window, all tiles, latches and queues. -/
def live : Ctx :=
  { mode := .active, dir := 1, regs := regs, task := { tid := 1, launch := 1 }
    allot := { window := 768, tiles := 255, latches := 15, queues := 15, stages := 1, launch := some 1 } }

/-- Banks 0 and 1 of the cluster are resident for its launch (R261); context 0 of core 0 issues a word in a slot of a bundle at 0x1000. -/
def at' (slot : Nat) : State :=
  { ctxs := [(0, live)], cores := [(0, { active := some 0 })], clusters := [(0, { banks := [(0, 5), (1, 5)] })]
    issue := { slot := slot, here := 0x1000, length := 12, next := 0x100C } }

/-- The state with another context 0. -/
def with' (s : State) (f : Ctx → Ctx) : State := s.modCtx 0 f

/-- What an outcome's next state satisfies. -/
def next (o : Host.Outcome State Fault Refusal) (p : State → Bool) : Bool :=
  match o with
  | .next t => p t
  | .fault _ => false
  | .refused _ => false

/-- The newest in-flight result: latency, destination, value. -/
def newest (t : State) : Option (Nat × Dest × Vec) := t.me.flow.records.getLast?.map fun r => (r.count, r.dest, r.val)

/-- The result of a scalar word. -/
def gives (i : Instr) (lat d : Nat) (v : W64) : Bool :=
  next (exec i (at' 0)) fun t => newest t == some (lat, .scalar d, v.setWidth 2048)

/-- R70: wraps, the signed immediate, the high product of two negative numbers. -/
theorem test_add_wraps : gives (.addReg false 6 (.s 3) (.s 1)) 1 6 4 = true ∧ gives (.addImm false 6 (.s 1) 0x1FFF) 1 6 4 = true := by decide +kernel
theorem test_sub_order : gives (.subReg false 6 (.s 1) (.s 2)) 1 6 0xFFFFFFFFFFFFFFFE = true := by decide +kernel
theorem test_mulh : gives (.mulhReg false 6 (.s 3) (.s 3) false) 4 6 0 = true ∧ gives (.mulhReg false 6 (.s 3) (.s 3) true) 4 6 0xFFFFFFFFFFFFFFFE = true := by
  decide +kernel
/-- R71: a zero divisor gives all ones, and the dividend as remainder; toward zero otherwise. -/
theorem test_div : gives (.divReg false 6 (.s 1) (.s 0) false) 20 6 0xFFFFFFFFFFFFFFFF = true ∧ gives (.remReg false 6 (.s 1) (.s 0) false) 20 6 5 = true ∧
    gives (.divImm false 6 (.s 2) 0x1FFE) 20 6 0xFFFFFFFFFFFFFFFD = true ∧ gives (.remImm false 6 (.s 2) 0x1FFE) 20 6 1 = true := by decide +kernel
/-- R70, R72: signed and unsigned comparison differ for all ones. -/
theorem test_compare : gives (.cmpReg false 6 (.s 3) (.s 1) 2) 1 6 1 = true ∧ gives (.cmpReg false 6 (.s 3) (.s 1) 4) 1 6 0 = true ∧
    gives (.minReg false 6 (.s 3) (.s 1) true) 1 6 5 = true ∧ gives (.maxReg false 6 (.s 3) (.s 1) false) 1 6 5 = true := by decide +kernel
/-- R70: shift amounts are taken modulo 64. -/
theorem test_shift : gives (.shlReg false 6 (.s 1) (.s 3)) 1 6 0x8000000000000000 = true ∧ gives (.sraImm false 6 (.s 3) 63) 1 6 0xFFFFFFFFFFFFFFFF = true ∧
    gives (.shrImm false 6 (.s 3) 60) 1 6 15 = true := by decide +kernel
/-- R74, chapter 4: `BFX.sx s3, s2, 8, 12` of 0x00AB_C123 is -1,087. -/
theorem test_bfx : next (exec (.bfxImm false 3 (.s 6) true 8 11) (with' (at' 0) fun c => { c with regs := { c.regs with s := mset 0 c.regs.s 6 0xABC123 } }))
    (fun t => newest t == some (1, .scalar 3, (0xFFFFFFFFFFFFFBC1 : W64).setWidth 2048)) = true := by decide +kernel
/-- R75, R76: counts, and the sum with a shifted addend. -/
theorem test_counts : gives (.clz false 6 (.s 1)) 1 6 61 = true ∧ gives (.popc false 6 (.s 2)) 1 6 3 = true ∧ gives (.addsReg false 6 (.s 1) (.s 2) 3) 1 6 61 = true := by
  decide +kernel

/-- R83: 1.0 + 2.0 by F32 lanes is 3.0. -/
theorem test_vadd : next (exec (.vadd (vh 0) 9 (.v 3) (.v 4) .none)
    (with' (at' 2) fun c => { c with regs := { c.regs with v := [(3, 0x3F800000), (4, 0x40000000)] } }))
    (fun t => (newest t).map (fun r => (r.1, r.2.1, r.2.2.toNat % 2 ^ 32)) == some (4, .vector 9 true, 0x40400000)) = true := by decide +kernel
/-- R88: VSLIDE takes lanes of the second source past the end of the first. -/
theorem test_vslide : next (exec (.vslide (vh 12) 9 (.v 1) (.v 2) 63) (at' 2))
    (fun t => (newest t).map (fun r => r.2.2.toNat % 2 ^ 64) == some (0x00000002_00000000)) = true := by decide +kernel
/-- R94: PNOT under a full predicate. -/
theorem test_pnot : next (exec (.pnot (vh 0) 2 1) (at' 2))
    (fun t => (newest t).map (fun r => (r.1, r.2.1, r.2.2.toNat % 2 ^ 64)) == some (1, .pred 2, 0xFFFFFFFF00000000)) = true := by decide +kernel

/-- R181, R183: a taken branch goes 4 times its offset past the bundle's own address; one not taken leaves the successor. -/
theorem test_branch : next (exec (.brScalar 1 (.s 1) 4) (at' 0)) (fun t => t.issue.next == 0x1010 && t.issue.taken) = true ∧
    next (exec (.brScalar 0 (.s 1) 4) (at' 0)) (fun t => t.issue.next == 0x100C && !t.issue.taken) = true := by decide +kernel
/-- R184, R182: CALL links the address after its bundle; a computed target that is not a multiple of 4 raises 0x0D. -/
theorem test_call : next (exec (.call 5 (-4)) (at' 0)) (fun t => t.issue.next == 0xFF0 && newest t == some (1, .scalar 5, 0x100C)) = true ∧
    next (exec (.jmpr (.s 1) 0) (at' 0)) (fun t => decide (t.me.ctl.cause = 0x0D) && t.me.ctl.faddr == 5) = true := by decide +kernel
/-- R185: LOOPN with a count of 0 skips the loop. -/
theorem test_loop : next (exec (.loopn 2 (.s 0) 8) (at' 0)) (fun t => t.issue.next == 0x1020) = true ∧
    next (exec (.loopn 2 (.s 1) 8) (at' 0)) (fun t => mget noLoop t.me.flow.loops 2 == ⟨true, 5, 0x100C⟩) = true := by decide +kernel
/-- R396, R392: TRAP saves the address of the next bundle, and its immediate; a privileged word outside privileged state raises 0x04. -/
theorem test_trap : next (exec (.trap 0x1234) (at' 0)) (fun t => t.me.ctl.priv && t.me.ctl.epc == 0x100C && t.me.ctl.fimm == 0x1234 &&
      t.me.ctl.cause == 0x30) = true ∧ next (exec .eret (at' 0)) (fun t => t.me.ctl.cause == 0x04 && t.me.ctl.epc == 0x1000) = true := by decide +kernel
/-- R390: FENCESTAT shows the free range counters. -/
theorem test_csr : gives (.ctlrd 6 0x0F) 1 6 16 = true ∧ gives (.ctlrd 6 0x00) 1 6 0 = true := by decide +kernel
/-- R289, R290: FWAIT takes its count, or blocks. -/
theorem test_fwait : next (exec (.fwait 2 3) (with' (at' 9) fun c => { c with flags := [(2, 5)] })) (fun t => mget 0 t.me.flags 2 == 2) = true ∧
    next (exec (.fwait 2 6) (with' (at' 9) fun c => { c with flags := [(2, 5)] })) (fun t => t.me.mode == .blocked (.flag 2 6)) = true := by decide +kernel
/-- R60: KILL marks the registers that its mask names in its block. -/
theorem test_kill : next (exec (.killImmLo 2 0x3) (at' 10)) (fun t => mget 0 t.me.regs.killed 128 == 1 && mget 0 t.me.regs.killed 129 == 1 &&
    mget 0 t.me.regs.killed 130 == 0) = true := by decide +kernel
/-- R206, R282: an engine word queues its command, and its token is pending. -/
theorem test_queue : next (exec (.copy (tk 3) (.s 4) (.s 0) (.s 0)) (at' 8)) (fun t => (t.core 0).cmds.map (fun m => (m.agent, m.caps)) ==
    [(0, [0x200000, 0, 0])] && (mget ({} : Token) t.me.toks 3).pend == 1) = true := by decide +kernel
/-- R149, R2: LD of the scratchpad window reads little-endian bytes; LD of a misaligned address raises 0x0D. -/
theorem test_load : next (exec (.ld false mh 6 (.s 6) false 2 true 0 0) { with' (at' 6) (fun c => { c with regs := { c.regs with s := [(6, 0x00FFFFFFFFC00000)] } }) with
      mem := [(2 ^ 64, 0xFE), (2 ^ 64 + 1, 0xFF), (2 ^ 64 + 2, 0xFF), (2 ^ 64 + 3, 0xFF)] })
    (fun t => newest t == some (10, .scalar 6, (0xFFFFFFFFFFFFFFFE : W64).setWidth 2048)) = true ∧
    next (exec (.ld false mh 6 (.s 1) false 2 true 0 0) (at' 6)) (fun t => t.me.ctl.cause == 0x0D && t.me.ctl.faddr == 5) = true := by decide +kernel

/-- A step runs the word that stands at the program counter of a placed machine (log 2): `ADD s3, s1, s2`. -/
theorem test_step_runs : next (step (State.reset.withFetchWord 32 0x04304100))
    (fun t => (t.ctx 0).pc == 0x100008 && (t.ctx 0).flow.records.map (fun r => (r.count, r.dest)) == [(1, .scalar 3)]) = true := by decide +kernel

/-! States and operands that meet the hypotheses of the statements, clause by clause. -/

/-- An answer that a property holds of. -/
def okAnd {ε α : Type} (e : Except ε α) (p : α → Bool) : Bool := match e with | .ok a => p a | .error _ => false
/-- A failure that a property holds of. -/
def errAnd {ε α : Type} (e : Except ε α) (p : ε → Bool) : Bool := match e with | .ok _ => false | .error x => p x

theorem okAnd_iff {ε α : Type} (e : Except ε α) (p : α → Bool) : okAnd e p = true ↔ ∃ a, e = .ok a ∧ p a = true := by
  cases e <;> simp [okAnd]
theorem errAnd_iff {ε α : Type} (e : Except ε α) (p : ε → Bool) : errAnd e p = true ↔ ∃ x, e = .error x ∧ p x = true := by
  cases e <;> simp [errAnd]

/-- Inside a lift of extent 2 at level 1, whose tag s1, v8, p2 and m1 carry; the first of the two instances of a bundle issues. -/
def lifted (slot : Nat) : State :=
  let s := with' (at' slot) fun c => { c with flow := { c.flow with lift :=
    { levels := [⟨2, 8, 0x2000, [0]⟩], mask := [0, 1], tagS := [(1, 1)], tagV := [(8, 1)], tagP := [(2, 1)], tagM := [(1, 1)] } } }
  s.modIssue fun i => { i with tag := 1, last := false }

/-- The same, at the last instance. -/
def liftedLast (slot : Nat) : State := (lifted slot).modIssue fun i => { i with flat := 1, first := false, last := true }

/-- With these outcomes of earlier issues noted. -/
def voted (s : State) (l : List (Bool × W64)) : State := with' s fun c => { c with flow := { c.flow with votes := l } }

/-- In privileged state. -/
def priv (s : State) : State := with' s fun c => { c with ctl := { c.ctl with priv := true } }

/-- A bounded statement as a check (so that `decide` walks the list and not the type). -/
theorem all_iff {α : Type} [DecidableEq α] (l : List α) (v : α) : (∀ x ∈ l, x = v) ↔ l.all (fun x => decide (x = v)) = true := by simp

theorem wit_ScalarResults : Ready (.addReg true 31 (.s 1) (.s 2)) (at' 0) ∧ Ready (.addImm false 0 (.s 31) 0x1000) (at' 1) ∧
    Ready (.selReg false 3 (.s 1) (.s 2) (.s 3)) (at' 0) ∧ Ready (.bfi false 3 (.s 1) 63 63) (at' 0) := by
  simp only [Ready]; decide +kernel

theorem wit_ChainResults : InV (at' 2) ∧ InV (at' 4) ∧ Ready (.vadd (vh 0) 767 (.v 1) (.v 2) (.two .rsub (.v 31) .max (.v 0))) (at' 2) ∧
    Ready (.vfma (vz 14) 3 (.v 1) (.v 2) (.v 31) .none) (at' 4) := by simp only [Ready, InV]; decide +kernel

theorem wit_LaneResults : InV (at' 3) ∧ Ready (.vslide (vh 0) 3 (.v 1) (.v 2) 63) (at' 3) ∧ Ready (.vscan (vh 15) 3 (.v 1) 2 true) (at' 3) ∧
    Ready (.vbcastScalar (vh 0) 3 (.s 1)) (at' 3) := by simp only [Ready, InV]; decide +kernel

theorem wit_PredicateAndGatherResults : InV (at' 2) ∧ Ready (.vred (vh 0) 3 (.v 1) 0) (at' 2) ∧ Ready (.vcompress (vz 0) 3 (.v 1)) (at' 2) ∧
    tileBusy 7 (at' 2) = false ∧ Ready (.vtr (vh 0) 3 255 7 (.s 1)) (at' 2) ∧ Ready (.vcmp (vh 0) 15 (.v 1) (.v 2) 6) (at' 2) ∧
    Ready (.pnot (vz 0) 0 1) (at' 2) ∧ Ready (.pfirst (vh 13) 31 1) (at' 2) ∧ preTrap .nopS (at' 0) = none ∧ preTrap .nopV (at' 2) = none ∧
    preTrap .nopF (at' 5) = none ∧ preTrap .nopM (at' 6) = none ∧ preTrap .nopX (at' 8) = none ∧ preTrap .nopY (at' 9) = none := by
  simp only [Ready, InV]; decide +kernel

theorem wit_ConversionResults : InV (at' 2) ∧ Ready (.vcvt (vh 0) 3 (.v 1) 0 0 2 true false) (at' 2) ∧
    Ready (.vbpackPack (vh 0) 3 (.v 1) 3 (.s 1) false false) (at' 2) ∧ Ready (.vpackb (vh 0) 3 (.v 1) 0 2 false) (at' 2) ∧
    Ready (.vcvt (vh 0) 3 (.v 1) 0 0 2 true true) (at' 2) ∧ Ready (.vbpackPack (vh 0) 3 (.v 1) 4 (.s 1) true true) (at' 2) ∧
    Ready (.vpackb (vh 0) 3 (.v 1) 0 2 true) (at' 2) := by simp only [Ready, InV]; decide +kernel

/-- Tile m1 of the core is busy. -/
def busy (s : State) : State := (s.modCore 0 fun k => { k with busy := 2 }).modIssue fun i => { i with busy := 2 }

theorem wit_TileRowsAndReduction : InV (at' 2) ∧ Ready (.vtw (vh 0) 255 1 (.s 1) (.v 1)) (at' 2) ∧ tileBusy 1 (at' 2) = false ∧
    slotTag (.vtw (vh 0) 255 1 (.s 1) (.v 1)) (at' 2) = 0 ∧ preTrap (.vtw (vh 0) 0 1 (.s 1) (.v 1)) (busy (at' 2)) = none ∧
    preTrap (.vtr (vh 0) 3 0 1 (.s 1)) (busy (at' 2)) = none ∧ tileBusy 1 (busy (at' 2)) = true ∧
    (decide ((1 : BitVec 2).toNat ≤ (lifted 2).me.flow.lift.levels.length) && (tagOfV (lifted 2).me.flow.lift 8).getLsbD 0) = true ∧
    (lifted 2).me.flow.lift.levels[(1 : BitVec 2).toNat - 1]? = some ⟨2, 8, 0x2000, [0]⟩ ∧ Ready (.lreduce (vh 0) 3 (.v 8) 0 1) (lifted 2) ∧
    (decide ((1 : BitVec 2).toNat ≤ (at' 2).me.flow.lift.levels.length) && (tagOfV (at' 2).me.flow.lift 8).getLsbD 0) = false ∧
    preTrap (.lreduce (vh 0) 3 (.v 8) 0 1) (at' 2) = none ∧
    preTrap (.lreduce (vh 0) 3 (.qv 0) 0 1) (with' (at' 2) fun c => { c with flow := { c.flow with qv := [0] } }) = none ∧
    preTrap (.lreduce (vh 0) 3 .held 0 1) (with' (at' 2) fun c => { c with flow := { c.flow with
      holds := (List.range 16).map fun n => (n, some ⟨0, false⟩) } }) = none := by simp only [Ready, InV]; decide +kernel

/-- A core whose special-function unit has a queue. -/
def sfu (s : State) (n : Nat) : State := s.modCore 0 fun k => { k with sfuq := (List.range n).map fun j => (0, j), sfuLast := some 0 }

theorem wit_SpecialFunctions : Ready (.frcp false 3 (.v 1) 0 true) (at' 5) ∧ ((at' 5).core 0).sfuq.length < 4 ∧
    Ready (.fcos true 3 (.v 1) 1 false) (sfu (at' 5) 3) ∧ ((sfu (at' 5) 3).core 0).sfuq.length < 4 ∧
    preTrap (.flog2 false 3 (.v 1) 0 false) (sfu (at' 5) 4) = none ∧ 4 ≤ ((sfu (at' 5) 4).core 0).sfuq.length := by
  simp only [Ready]; decide +kernel

theorem wit_ControlTransfers_branches : Ready (.brScalar 3 (.s 1) 0x8000) (at' 0) ∧ (at' 0).issue.last = true ∧
    Ready (.brPred 2 1 1) (at' 1) ∧ Ready (.bra 0x1000000) (at' 0) ∧ Ready (.brScalar 0 (.s 1) 4) (lifted 0) ∧ (lifted 0).issue.last = false ∧
    (let s := voted (liftedLast 0) [(true, 0x1010)]
     let l := votesWith (.brScalar 0 (.s 1) 4) s (false, 0x1010)
     Ready (.brScalar 0 (.s 1) 4) s ∧ s.issue.last = true ∧ (true, 0x1010) ∈ l ∧ (false, 0x1010) ∈ l) ∧
    (let s := voted (liftedLast 0) [(true, 0x1010)]
     let l := votesWith (.brScalar 0 (.s 1) 4) s (true, 0x1010)
     l.head? = some (true, 0x1010) ∧ ∀ y ∈ l, y = (true, 0x1010)) := by
  simp only [Ready, all_iff]; decide +kernel

theorem wit_ControlTransfers_jumps : Ready (.call 5 0x80000) (at' 0) ∧ Turn (.call 5 0x80000) (at' 0) (true, 0) ∧
    preTrap (.ret (.s 1)) (at' 0) = none ∧ (((at' 0).sc (.s 1)).toNat % 4 ≠ 0) ∧ preTrap (.ret (.s 4)) (at' 0) = none ∧
    ((at' 0).sc (.s 4)).toNat % 4 = 0 ∧ canonical ((at' 0).sc (.s 4)).toNat = true ∧
    (let s := with' (at' 0) fun c => { c with regs := { c.regs with s := [(9, 0x0100000000000000)] } }
     preTrap (.jmpr (.s 9) 0) s = none ∧ (s.sc (.s 9)).toNat % 4 = 0 ∧ canonical (s.sc (.s 9)).toNat = false) ∧
    preTrap (.loopn 5 (.s 1) 0xFFFF) (at' 0) = none ∧ preTrap (.loopn 0 (.s 0) 0) (at' 0) = none ∧ preTrap (.lend 5) (at' 0) = none ∧
    (let s := with' (at' 0) fun c => { c with flow := { c.flow with loops := [(0, ⟨true, 1, 0⟩), (1, ⟨true, 2, 0⟩)] } }
     preTrap (.lend 0) s = none ∧ (mget noLoop s.me.flow.loops 0).live = true ∧ ¬1 < (mget noLoop s.me.flow.loops 0).count.toNat ∧
     preTrap (.lend 1) s = none ∧ 1 < (mget noLoop s.me.flow.loops 1).count.toNat) ∧
    (let s := voted (liftedLast 0) [(true, 0)]
     Turn (.ret (.s 1)) s (true, 0)) := by
  simp only [Ready, Turn, all_iff]; decide +kernel

/-- A lift word (R344): extent, stride, vectors, scalars, predicates from their bases, tiles. -/
def liftWord (s : State) (w : W64) : State := with' s fun c => { c with regs := { c.regs with s := [(1, w)] }, ctl := { c.ctl with lssize := 0xFFF } }

/-- A mask-stack entry of a level. -/
def split (s : State) (e : MaskEntry) (n : Nat) : State := with' s fun c => { c with flow := { c.flow with lift := { c.flow.lift with
  stack := List.replicate n e } } }

theorem wit_LiftEntryAndReturn :
    (let s := liftWord (at' 0) 0x0000000000000000
     preTrap (.lift (.s 1) 4) s = none ∧ s.me.flow.retag = [] ∧ Turn (.lift (.s 1) 4) s (true, s.sc (.s 1)) ∧ liftReason (s.sc (.s 1)) s = some 6) ∧
    (let s := liftWord (at' 0) 0x10001
     preTrap (.lift (.s 1) 4) s = none ∧ s.me.flow.retag = [] ∧ Turn (.lift (.s 1) 4) s (true, s.sc (.s 1)) ∧ liftReason (s.sc (.s 1)) s = none) ∧
    preTrap .lret (at' 0) = none ∧ (at' 0).me.flow.retag = [] ∧ (at' 0).me.flow.lift.levels = [] ∧ Turn .lret (at' 0) (true, 0) ∧
    (let s := (lifted 0).modIssue fun i => { i with tag := 0, last := true }
     preTrap .lret s = none ∧ s.me.flow.lift.levels = [] ++ [⟨2, 8, 0x2000, [0]⟩] ∧ Turn .lret s (true, 0x2000) ∧
       s.me.flow.lift.stack.getLast?.any (fun e => e.level == 1) = false) ∧
    (let s := split ((lifted 0).modIssue fun i => { i with tag := 0, last := true }) ⟨1, [0, 1], [1], 0x3000, false⟩ 1
     preTrap .lret s = none ∧ Turn .lret s (true, 0x2000) ∧ s.me.flow.lift.stack.getLast?.any (fun e => e.level == 1) = true) := by
  simp only [Turn, all_iff]
  repeat' apply And.intro
  all_goals decide +kernel

theorem wit_LiftBranches :
    preTrap (.brbScalar 0 (.s 1) 4) (lifted 0) = none ∧ (lifted 0).issue.last = false ∧
    (let s := voted (liftedLast 0) [(true, 0x1010)]
     let l := s.me.flow.lift
     preTrap (.brbScalar 0 (.s 1) 4) s = none ∧ s.issue.last = true ∧ s.me.flow.retag = [] ∧
       takenMask l s.issue.tag (votesWith (.brbScalar 0 (.s 1) 4) s (false, 0x1010)) = [0] ∧ [0] ≠ l.mask ∧ l.stack.length < 8 ∧
       takenMask l s.issue.tag (votesWith (.brbScalar 1 (.s 1) 4) s (true, 0x1010)) = l.mask) ∧
    (let s := split (voted (liftedLast 0) [(false, 0x1010)]) ⟨1, [0, 1], [1], 0, false⟩ 8
     preTrap (.brbScalar 0 (.s 1) 4) s = none ∧ 8 ≤ s.me.flow.lift.stack.length ∧
       takenMask s.me.flow.lift s.issue.tag (votesWith (.brbScalar 0 (.s 1) 4) s (true, 0x1010)) = [1] ∧
       takenMask s.me.flow.lift s.issue.tag (votesWith (.brbScalar 0 (.s 1) 4) s (false, 0x1010)) = []) ∧
    preTrap (.brbPred 1 1 0) (at' 0) = none ∧ slotTag (.brbPred 1 1 0) (at' 0) = 0 ∧
    preTrap .ljoin (at' 0) = none ∧ (at' 0).me.flow.lift.stack.getLast? = none ∧ Turn .ljoin (at' 0) (joinVote (at' 0)) ∧
    (∀ e ∈ [(⟨2, [0], [1], 0, false⟩ : MaskEntry), ⟨1, [0, 1], [1], 0x3000, false⟩, ⟨1, [0, 1], [1], 0x3000, true⟩],
      let s := split ((lifted 0).modIssue fun i => { i with tag := 0, last := true }) e 1
      preTrap .ljoin s = none ∧ s.me.flow.retag = [] ∧ Turn .ljoin s (joinVote s) ∧ s.me.flow.lift.stack.getLast? = some e) := by
  simp only [Turn, all_iff]; decide +kernel

theorem wit_ControlRegisters : Ready (.ctlrd 31 0x00) (at' 0) ∧ Ready (.ctlrd 1 0x49) (priv (at' 0)) ∧
    preTrap (.ctlwr (.s 1) 0x00) ((lifted 0)) = none ∧ tagOfS (lifted 0).me.flow.lift (.s 1) ≠ 0 ∧ preTrap (.ctlwr (.s 2) 0x0B) (lifted 0) = none ∧
    (lifted 0).me.flow.lift.levels ≠ [] ∧ preTrap (.ctlwr (.s 1) 0x32) (priv (at' 0)) = none ∧ tagOfS (priv (at' 0)).me.flow.lift (.s 1) = 0 ∧
    preTrap (.ctlwr (.s 1) 0x0B) (at' 0) = none ∧ (at' 0).me.flow.lift.levels = [] := by simp only [Ready]; decide +kernel

theorem wit_TrapEntry : Instr.kind .eret = some .s ∧ preTrap .eret (at' 0) = some ((at' 0).cause 0x04) ∧
    (at' 0).me.ctl.priv = false ∧ isAccess (at' 0).issue.agent = false ∧ routeOf (at' 0) (at' 0).me ((at' 0).cause 0x0D) = .handler ∧
    (∀ m ∈ [(1 : BitVec 4), 2], let s := (at' 0).modDev fun d => { d with svcmode := m }
      let x := { s.cause (if m = 1 then 0x09 else 0x0C) (if m = 1 then 0 else 1) with pool := 3 }
      s.me.ctl.priv = false ∧ isAccess s.issue.agent = false ∧ routeOf s s.me x = .service ∧ x.tok = none) ∧
    (priv (at' 0)).me.ctl.priv = true ∧ ((at' 0).cause 0x0D).tok = none ∧ live.ridx < 64 ∧ live.iflat < 65536 := by decide +kernel

theorem wit_TrapsAndReturns : (at' 0).me.ctl.priv = false ∧ illegal (.ctlrd 1 0x30) (at' 0) = none ∧ 0x30 ≤ (0x30 : BitVec 10).toNat ∧
    (∀ c ∈ [(1 : BitVec 10), 8, 0x1A, 0x30], illegal (.ctlwr (.s 1) c) (at' 0) = none ∧
      (1 ≤ c.toNat ∧ c.toNat ≤ 8 ∨ c.toNat = 0x1A ∨ 0x30 ≤ c.toNat ∧ c.toNat ≠ 0x47 ∧ c.toNat ≠ 0x4B)) ∧
    illegal .eret (at' 0) = none ∧ illegal (.tlbinv 4 (.s 1) (.s 2) 3) (at' 6) = none ∧
    (∀ e ∈ [(0x1000 : W64), 0x1001, 0x0100000000000000], preTrap .eret (with' (priv (at' 0)) fun c => { c with ctl := { c.ctl with epc := e } }) = none) ∧
    (priv (at' 0)).issue.last = true ∧ preTrap .eret (priv (lifted 0)) = none ∧ (lifted 0).issue.last = false ∧
    preTrap (.trap 0xFFFF) (at' 0) = none ∧ (at' 0).me.flow.retag = [] ∧ preTrap (.trap 0) (lifted 0) = none ∧
    preTrap .taskend (at' 0) = none ∧ (at' 0).me.flow.records = [] ∧
    (let s := with' (at' 0) fun c => { c with flow := { c.flow with records := [⟨0, 1, .scalar 1, 0, 0, 0, true⟩] } }
     preTrap .taskend s = none ∧ s.me.flow.records ≠ []) := by
  simp only [List.forall_mem_cons, List.not_mem_nil, false_implies, implies_true, and_true]; repeat' apply And.intro
  all_goals decide +kernel

/-! Memory and accesses. -/

/-- A call that succeeds. -/
def ok {ε α : Type} (e : Except ε α) : Bool := okAnd e fun _ => true
/-- A call that fails. -/
def err {ε α : Type} (e : Except ε α) : Bool := errAnd e fun _ => true

/-- Page tables of five levels for ASID 0 from 0x10000 on, that end in the given entries of levels 2, 1 and 0; virtual page 0. -/
def tables (slot e2 e1 e0 : Nat) : State :=
  [(0x10000, 0x20001), (0x20000, 0x30001), (0x30000, 0x40001), (0x40000, e2), (0x50000, e1), (0x60000, e0)].foldl
    (fun s x => s.writeLE x.1 8 x.2) ((at' slot).modDev fun d => { d with ptbase := 0x10 })

/-- One page of 64 KiB at address 0, its leaf of level 0 as given. -/
def page (slot leaf : Nat) : State := tables slot 0x50001 0x60001 leaf

/-- The agent in issue has these accesses pending. -/
def pending (s : State) (l : List Pend) : State := with' s fun c => { c with order := { pend := l } }

/-- s6 and s7 hold addresses in the scratchpad window: aligned, and not. -/
def pad (slot : Nat) : State := with' (at' slot) fun c => { c with regs := { c.regs with s := c.regs.s ++ [(6, 0x00FFFFFFFFC00000), (7, 0x00FFFFFFFFC00001)] } }

theorem wit_WalkFindsLeaf :
    let points := fun (s : State) (e t : Nat) => t % 256 = 0 ∧ t < 2 ^ 46 ∧ s.entryAt e = t + 1
    let start := fun (s : State) => points s (s.dev.ptbase.toNat * 2 ^ 12 + 8 * (0 : BitVec 16).toNat) 0x20000 ∧
      points s 0x20000 0x30000 ∧ points s 0x30000 0x40000
    let f := fun (w : Nat) => (leafV w, leafL w, leafSparse w)
    start (tables 6 0x4000001F 0 0) ∧ leafOk 0x4000001F 30 = true ∧ leafOk 0x4010001F 30 = false ∧ f 0x4000001F = (true, true, false) ∧
    f 0x4010001F = (true, true, false) ∧ f 0 = (false, false, false) ∧
    (let s := page 6 0x22; points s 0x40000 0x50000 ∧ points s 0x50000 0x60000 ∧ f 0x22 = (false, true, true) ∧ leafOk 0x22 16 = true) := by
  decide +kernel

theorem wit_Translation :
    canonical (2 ^ 56) = false ∧ inWindow (spw + 2 ^ 22 - 1) = true ∧ canonical 0 = true ∧ inWindow 0 = false ∧
    (at' 6).lookup 0 0 0 = .unmapped false ∧
    (∀ w ∈ [0x7000F, 0x7009F, 0x7001B, 0x70017, 0x22, 0x26, 0x2A, 0x6A, 0x7001F], (page 6 w).lookup 0 0 65535 = .leaf w 16 0x60000) ∧
    paOk (leafPA 0x7001F + 65535) = true ∧ (at' 6).closedAt (leafPA 0x7001F + 65535) = false ∧
    ok (keysOf .read 0xFFF8 (List.range 8) (page 6 0x7001F)) = true ∧ ok (keysOf .write 0xFFF8 (List.range 8) (page 6 0x7001F)) = true ∧
    (page 6 0x7001F).l2.dirty.length < 16 := by
  decide +kernel

/-- The last four bytes of a line, registered in the L1, and the first of a line of zeros. -/
theorem wit_Translation_served :
    (let l : L1Line := ⟨0, 0, 5, true, false, .ofNat 128 (15 * 2 ^ 124), 0, 1, 0⟩
     let z : L1Line := { l with vline := 1, key := zeroLine, mask := 15 }
     let s := (at' 6).modCluster 0 fun k => { k with l1 := [l, z] }
     let line := fun (o : Nat) => findL1 (s.cluster (clusterOf s.issue.agent)) s.me.ctl.asid (vaAt 124 o / 128)
     ∀ o ∈ List.range 8, ((line o).any fun x => x.r && (x.key == zeroLine || !s.shut (x.key * 128 + vaAt 124 o % 128)) &&
       (List.range 8).all fun o' => vaAt 124 o' / 128 != vaAt 124 o / 128 || x.mask.getLsbD (vaAt 124 o' % 128)) = true) := by decide +kernel

theorem wit_LoadResults :
    (let i := Instr.ld false mh 6 (.s 7) false 2 true 0 0
     preTrap i (pad 6) = none ∧ (accAddr (accBase (.s 7) (pad 6)) (0 : BitVec 14) (0 : BitVec 11) 4 0).toNat % 4 ≠ 0) ∧
    (let i := Instr.lda mh 6 (.s 5) false 3 true 0
     preTrap i (pad 6) = none ∧ err (keysOf .read 0x100000 (List.range 8) (afterReads i (pad 6))) = true) ∧
    (let i := Instr.ld true mh 31 (.s 6) false 0 true 0x7FF 0x1FFF
     Ready i (pad 6) ∧ ok (keysOf .read (accAddr (accBase (.s 6) (pad 6)) (0x1FFF : BitVec 14) (0x7FF : BitVec 11) 1 0) [0] (afterReads i (pad 6))) = true) ∧
    (let i := Instr.vld false mh 1 767 (.s 6) false 0 1
     Ready i (pad 6) ∧ ok (keysOf .read (0x00FFFFFFFFC00100 : W64) (govern ((pad 6).pr 1)) (afterReads i (pad 6))) = true) ∧
    (let i := Instr.ld false mh 6 (.s 6) false 3 true 0 0
     let waits := fun (s : State) => okAnd (keysOf .read (0x00FFFFFFFFC00000 : W64) (List.range 8) (afterReads i s)) fun r =>
       let b := plainLater (accCls mh s) (cellsOf r.1)
       let q := inOrder b (noteTag 0 6 (slotTag i s) r.2)
       q.env.late.headD false || decide (heldBy b q ≠ [])
     let away := pending (pad 6) [.access 5 (some 0) 1 false 0 [(0x00FFFFFFFFC00000, 2 ^ 64, 0)] .away]
     Ready i away ∧ waits away = true ∧ waits { pad 6 with env := { (pad 6).env with late := [true] } } = true ∧ waits (pad 6) = false) := by
  simp only [Ready]; decide +kernel

theorem wit_StoreInstructions :
    (let i := Instr.st false mh (.s 1) (.s 4) false 3 0 0
     preTrap i (lifted 6) = none ∧ axisConflict (tagOfS (lifted 6).me.flow.lift (.s 1)) (tagOfS (lifted 6).me.flow.lift (.s 4)) = true) ∧
    (let i := Instr.st false mh (.s 1) (.s 4) true 3 0 0
     preTrap i (lifted 6) = none ∧ ¬LastInstance i (lifted 6) ∧ preTrap i (liftedLast 6) = none ∧ LastInstance i (liftedLast 6)) ∧
    (let i := Instr.strel mh (.s 1) (.s 7) false 3 0
     preTrap i (pad 6) = none ∧ axisConflict (tagOfS (pad 6).me.flow.lift (.s 1)) (tagOfS (pad 6).me.flow.lift (.s 7)) = false ∧
     ((pad 6).sc (.s 7)).toNat % 8 ≠ 0) ∧
    (let i := Instr.vst false mh 0 (.v 1) (.s 6) false 0 0
     let s := { pad 6 with bars := [(2 ^ 64 + 64) / 16] }
     preTrap i s = none ∧
     okAnd (keysOf .write (0x00FFFFFFFFC00000 : W64) (govern (s.pr 0)) (afterReads i s)) (fun r => (liveHit r.1 r.2).isSome) = true ∧
     okAnd (keysOf .write (0x00FFFFFFFFC00000 : W64) (govern (s.pr 0)) (afterReads i (pad 6))) (fun r => (liveHit r.1 r.2).isNone) = true ∧
     err (keysOf .write (0x100000 : W64) (List.range 8) (pad 6)) = true) ∧
    (let p := Pend.store 3 0 0 false 0 [(0, 2 ^ 64, 7)]
     let s := pending (at' 6) [p, .fenceC 0 1]
     (s.ctx 0).order.pend = p :: [.fenceC 0 1] ∧ ∀ q ∈ [Pend.fenceC 0 1], q.sid ≠ some 3) := by
  simp only [LastInstance, List.forall_mem_cons, List.not_mem_nil, false_implies, implies_true, and_true]; decide +kernel

theorem wit_AtomicOperation :
    (let i := Instr.amo mh 0 (.s 1) (.s 7) (.s 2) 6 3 0
     preTrap i (pad 6) = none ∧ ((pad 6).sc (.s 7)).toNat % 8 ≠ 0) ∧
    (let i := Instr.amo mh 9 (.s 1) (.s 5) (.s 2) 6 3 0
     preTrap i (pad 6) = none ∧ err (keysOf .both 0x100000 (List.range 8) (afterReads i (pad 6))) = true) ∧
    (let i := Instr.amo mh 9 (.s 1) (.s 0) (.s 2) 6 3 0
     Ready i (page 6 0x7000F) ∧ okAnd (keysOf .both 0 (List.range 8) (afterReads i (page 6 0x7000F))) (fun r => allHere r.1) = true ∧
     preTrap i (page 6 0x7010F) = none ∧
     okAnd (keysOf .both 0 (List.range 8) (afterReads i (page 6 0x7010F))) (fun r => !allHere r.1) = true) := by simp only [Ready]; decide +kernel

theorem wit_CalendarLoad :
    (let i := Instr.vldc false mh 0 5 (.s 7) 0 0
     preTrap i (pad 6) = none ∧ ((pad 6).sc (.s 7)).toNat % 256 ≠ 0) ∧
    (let i := Instr.vldc false mh 0 5 (.s 6) 0 0
     preTrap i (pad 6) = none ∧ inWindow ((pad 6).sc (.s 6)).toNat = true) ∧
    (let i := Instr.vldc false mh 0 5 (.s 0) 0 0
     preTrap i (pad 6) = none ∧ err (resolve 0 .read (afterReads i (pad 6))) = true ∧
     Ready i (page 6 0x26) ∧ okAnd (resolve 0 .read (afterReads i (page 6 0x26))) (fun r => r.1.isNone) = true ∧
     preTrap i (page 6 0x70107) = none ∧ okAnd (resolve 0 .read (afterReads i (page 6 0x70107))) (fun r => r.1.any fun k => !isLocal k) = true ∧
     Ready i (page 6 0x70007) ∧ okAnd (resolve 0 .read (afterReads i (page 6 0x70007))) (fun r => r.1.any isLocal) = true) := by
  simp only [Ready]; decide +kernel

theorem wit_CacheOperations :
    (let i := Instr.cflush false mh (.s 6) 0 0
     preTrap i (pad 6) = none ∧ inWindow ((pad 6).sc (.s 6)).toNat = true) ∧
    (let i := Instr.cinv false ⟨none, 4⟩ (.s 0) 0 0
     preTrap i (pad 6) = none ∧ inWindow 0 = false ∧ err (resolve 0 .read (afterReads i (pad 6))) = true ∧
     preTrap i (page 6 0x70107) = none ∧ okAnd (resolve 0 .read (afterReads i (page 6 0x70107))) (fun r => r.1.any fun k => !isLocal k) = true ∧
     preTrap i (page 6 0x70007) = none ∧ okAnd (resolve 0 .read (afterReads i (page 6 0x70007))) (fun r => r.1.any isLocal) = true) ∧
    (let i := Instr.cpref false ⟨none, 1⟩ (.s 0) 0 0
     preTrap i (page 6 0x70007) = none ∧ okAnd (resolve 0 .read (afterReads i (page 6 0x70007))) (fun r => r.1.any isLocal) = true) := by decide +kernel

/-- Two moves that succeed are moves. -/
theorem moves_two (move : Nat → State → Res) (g : Nat) (s : State) (h : (match move g s with
      | .ok r => (match move (g + 1) (setProgress (g + 1) r) with | .ok _ => true | _ => false) | _ => false) = true) :
    ∃ t, Moves move 2 g s t := by
  generalize h1 : move g s = x at h
  cases x <;> simp at h
  rename_i r
  generalize h2 : move (g + 1) (setProgress (g + 1) r) = y at h
  cases y <;> simp at h
  rename_i q
  exact ⟨setProgress (g + 1 + 1) q, r, h1, q, h2, rfl⟩

theorem wit_SpillAndFill :
    (let i := Instr.vspill mh 8 (.s 4) false 1 0
     preTrap i (lifted 6) = none ∧
       axisConflict (orTags ((List.range 2).map fun j => tagOfV (lifted 6).me.flow.lift (8 + j))) (tagOfS (lifted 6).me.flow.lift (.s 4)) = true) ∧
    (let i := Instr.vspill mh 8 (.s 7) false 1 0
     preTrap i (pad 6) = none ∧ ((pad 6).sc (.s 7)).toNat % 64 ≠ 0 ∧ preTrap (.vfill mh 8 (.s 7) false 1 0) (pad 6) = none) ∧
    (let i := Instr.vspill mh 8 (.s 6) false 1 0
     preTrap i (pad 6) = none ∧ axisConflict 0 0 = false ∧ progress (pad 6) = 0 ∧ Nat.min 2 ((1 : BitVec 10).toNat + 1 - 0) = 2) ∧
    preTrap (.vfill mh 8 (.s 6) false 1 0) (pad 6) = none ∧ (pad 6).env.late.head? ≠ some true ∧
    okAnd (keysOf .write (0x00FFFFFFFFC00000 : W64) (List.range 256) (pad 6)) (fun r => (liveHit r.1 r.2).isNone) = true ∧
    ok (keysOf .read (0x00FFFFFFFFC00000 : W64) (List.range 256) (pad 6)) = true := by decide +kernel

theorem wit_SpillAndFill_moves :
    let spill := Instr.vspill mh 8 (.s 6) false 1 0
    let fill := Instr.vfill mh 8 (.s 6) false 1 0
    let s := pad 6
    let place := fun (j : Nat) => (moveBase (.s 6) 0 s).1 + BitVec.ofNat 64 (256 * j)
    (moveBase (.s 6) 0 s).1 = 0x00FFFFFFFFC00000 ∧ mget none s.me.moveAt s.issue.slot = none ∧
    mget none (with' s fun c => { c with moveAt := [(6, some 64)] }).me.moveAt 6 = some 64 ∧
    (∃ t, Moves (fun j s' => spillMove mh (place j) (s.physV (tagOfV s.me.flow.lift ((8 : BitVec 10).toNat + j)) ((8 : BitVec 10).toNat + j)) s')
      2 0 (moveBase (.s 6) 0 (afterReads spill s)).2 t) ∧
    (∃ t, Moves (fun j s' => fillMove mh false (place j) (slotTag fill s) ((8 : BitVec 10).toNat + j) s') 2 0
      (moveBase (.s 6) 0 (afterReads fill s)).2 t) :=
  ⟨by decide +kernel, by decide +kernel, by decide +kernel, moves_two _ _ _ (by decide +kernel), moves_two _ _ _ (by decide +kernel)⟩

theorem wit_SpillAndFill_held :
    (let i := Instr.vspill mh 8 (.s 4) true 1 0
     preTrap i (lifted 6) = none ∧ ¬LastInstance i (lifted 6)) ∧
    (let s := { pad 6 with env := { (pad 6).env with late := [true] } }
     s.env.late.head? = some true) ∧
    (let s := pending (pad 6) [.access 5 (some 0) 1 false 0 [(0x00FFFFFFFFC00000, 2 ^ 64, 0)] .away]
     let a : W64 := 0x00FFFFFFFFC00000
     okAnd (keysOf .read a (List.range 256) s) (fun r =>
       let b := plainLater (accCls mh s) (cellsOf r.1)
       decide (heldBy b (inOrder b (takeLate r.2).2) ≠ [])) = true ∧
     okAnd (keysOf .read a (List.range 256) (pad 6)) (fun r =>
       let b := plainLater (accCls mh (pad 6)) (cellsOf r.1)
       decide (heldBy b (inOrder b (takeLate r.2).2) = [])) = true) := by simp only [LastInstance]; decide +kernel

/-- The access program of core 0, which context 0 has started, issues. -/
def prog (s : State) : State :=
  ({ s with ctxs := s.ctxs ++ [(2048, { mode := .active, regs := s.me.regs })], issue := { s.issue with agent := 2048 } } : State).modCore 0 fun k =>
    { k with access := some (0, 1) }

/-- A pending access of class 0 to some cells, which another unit performs. -/
def away (s : State) (cs : List (Nat × Nat × Byte)) : State := pending s [.access 5 (some 0) 1 true 0 cs .away]
/-- An access of class 0 to some cells waits for it. -/
def waitsAt (i : Instr) (cs : List (Nat × Nat × Byte)) (s : State) : Bool :=
  let b := plainLater 0 cs
  decide (heldBy b (inOrder b (afterReads i s)) ≠ [])

theorem wit_GatherScatter :
    let p := prog (pad 6)
    preTrap (.gath mh 5 (.s 7) false 2 none (.s 0)) p = none ∧ preTrap (.scat mh (.v 1) (.s 7) false 2 none (.s 0)) p = none ∧
    preTrap (.scatAdd mh (.v 1) (.s 7) false 2 none (.s 0) true) p = none ∧ (p.sc (.s 7)).toNat % 4 ≠ 0 ∧
    (let s := p
     let b := s.sc (.s 6)
     let gath := Instr.gath mh 5 (.s 6) false 3 (some (.v 1)) (.s 1)
     let scat := Instr.scat mh (.v 1) (.s 6) false 3 none (.s 1)
     let add := Instr.scatAdd mh (.v 1) (.s 6) false 2 none (.s 1) true
     let place := fun (i : Option Vec) (n : Nat) => gatherAddr b n i
     Ready gath s ∧ gatherCount 8 (.s 1) s = 5 ∧ b.toNat % 8 = 0 ∧
     ok (laneKeys (fun _ => .read) 8 (place (some (s.vc 0 (.v 1))) 8) (List.range 5) (afterReads gath s)) = true ∧
     preTrap scat s = none ∧
     okAnd (laneKeys (fun _ => .write) 8 (place none 8) (List.range 5) (afterReads scat s)) (fun r => (liveHit r.1.flatten r.2).isNone) = true ∧
     preTrap add s = none ∧ ((List.range 5).all fun l => inWindow (place none 4 l).toNat) = true ∧
     okAnd (laneKeys (fun _ => .write) 4 (place none 4) (List.range 5) (afterReads add s)) (fun r => (liveHit r.1.flatten r.2).isNone && allHere r.1.flatten) = true ∧
     (let l := { p with bars := [(2 ^ 64 + 16) / 16] }
      okAnd (laneKeys (fun _ => .write) 8 (place none 8) (List.range 5) (afterReads scat l)) (fun r => (liveHit r.1.flatten r.2).isSome) = true ∧
      okAnd (laneKeys (fun _ => .write) 4 (place none 4) (List.range 5) (afterReads add l)) (fun r => (liveHit r.1.flatten r.2).isSome) = true) ∧
     preTrap (.scatAdd mh (.v 1) (.s 0) false 2 none (.s 1) true) (prog (page 6 0x7000F)) = none ∧
     okAnd (laneKeys (fun _ => .both) 4 (gatherAddr 0 4 none) (List.range 5) (prog (page 6 0x7000F))) (fun r => (liveHit r.1.flatten r.2).isNone && allHere r.1.flatten) = true ∧
     okAnd (laneKeys (fun _ => .both) 4 (gatherAddr 0 4 none) (List.range 5) (prog (page 6 0x7010F))) (fun r => (liveHit r.1.flatten r.2).isNone && !allHere r.1.flatten) = true) ∧
    (let ks : List (Nat × Option Nat) := [(0x100, some 0x70100), (0x101, some 0x70101)]
     let s := pending (at' 6) [.access 7 (some 0) 0 false 0 (cellsOf ks) (.add false 2 3 ks), .fenceC 0 1]
     (s.ctx 0).order.pend = .access 7 (some 0) 0 false 0 (cellsOf ks) (.add false 2 3 ks) :: [.fenceC 0 1] ∧
       ∀ q ∈ [Pend.fenceC 0 1], q.sid ≠ some 7) := by
  simp only [Ready, List.forall_mem_cons, List.not_mem_nil, false_implies, implies_true, and_true]; decide +kernel

/-- Queue 1 of the core holds n values. -/
def queued (s : State) (n : Nat) : State := s.modCore 0 fun k => { k with aq := if n = 0 then [] else [(1, List.replicate n 7)] }

theorem wit_AccessQueues :
    preTrap (.qpush true (.v 1) 1) (queued (prog (at' 6)) 64) = none ∧ 64 ≤ (mget [] ((queued (prog (at' 6)) 64).core 0).aq 1).length ∧
    preTrap (.qpush false (.v 1) 1) (queued (prog (at' 6)) 63) = none ∧ (mget [] ((queued (prog (at' 6)) 63).core 0).aq 1).length < 64 ∧
    preTrap (.qpop false 0 5 1) (queued (at' 7) 0) = none ∧ mget [] ((queued (at' 7) 0).core 0).aq 1 = [] ∧
    Ready (.qpop true 1 5 1) (queued (at' 7) 2) ∧ mget [] ((queued (at' 7) 2).core 0).aq 1 = 7 :: [7] ∧
    (let i := Instr.qpush true (.v 1) 1
     let s := (queued (prog (at' 6)) 63).modCtx 2048 fun c => { c with order := { pend := [.access 5 (some 0) 1 true 0 [] .away] } }
     let r : Later := ⟨none, none, some 1, []⟩
     preTrap i s = none ∧ heldBy r (inOrder r (afterReads i s)) ≠ [] ∧ heldBy r (inOrder r (afterReads i (queued (prog (at' 6)) 63))) = []) := by
  simp only [Ready]; decide +kernel

/-- The granule at 16 of the scratchpad is live, with the count given. -/
def barred (s : State) (gen : Nat) : State := { s.writeLE (2 ^ 64 + 16 + 8) 4 gen with bars := [(2 ^ 64 + 16) / 16] }

theorem wit_Barriers :
    (let i := Instr.bari ⟨none, 2⟩ (.s 1) (.s 1) 0
     preTrap i (at' 6) = none ∧ err (barrierAt (.s 1) 0 (at' 6)).2 = true) ∧
    (let i := Instr.bari ⟨none, 2⟩ (.s 1) (.s 0) 1
     preTrap i (at' 6) = none ∧ preTrap i (barred (at' 6) 0) = none ∧
     okAnd (barrierAt (.s 0) 1 (at' 6)).2 (fun k => !(at' 6).live k && (barred (at' 6) 0).live k && bankOk (at' 6) 0 0) = true) ∧
    (let i := Instr.bari ⟨none, 2⟩ (.s 1) (.s 5) 0
     preTrap i (at' 6) = none ∧ okAnd (barrierAt (.s 5) 0 (at' 6)).2 (fun k => !(at' 6).live k && !bankOk (at' 6) 0 4) = true) ∧
    preTrap (.barx ⟨none, 2⟩ (.s 0) 5 1) (at' 6) = none ∧ err (liveBarrier (.s 0) 1 (at' 6)) = true ∧
    Ready (.barx ⟨none, 2⟩ (.s 0) 5 1) (barred (at' 6) 0) ∧ ok (liveBarrier (.s 0) 1 (barred (at' 6) 0)) = true ∧
    (let i := Instr.bara ⟨none, 2⟩ (.s 1) (.s 0) 5 1
     preTrap (.bara ⟨none, 2⟩ (.s 1) (.s 1) 5 0) (at' 6) = none ∧
     (let s := (at' 6).modCore 0 fun k => { k with inReset := true }
      preTrap i s = none ∧ ok (barrierAt (.s 0) 1 s).2 = true ∧ inReset s 0 = true) ∧
     preTrap i (at' 6) = none ∧ inReset (at' 6) 0 = false ∧ Ready i (barred (at' 6) 0) ∧ inReset (barred (at' 6) 0) 0 = false) ∧
    (let i := Instr.barw ⟨none, 2⟩ (.s 1) (.s 0) 1
     preTrap i (at' 6) = none ∧ preTrap i (barred (at' 6) 5) = none ∧ ok (liveBarrier (.s 0) 1 (barred (at' 6) 5)) = true ∧
     barGen (barred (at' 6) 5) (2 ^ 64 + 16) = ((at' 6).sc (.s 1)).toNat ∧ barGen (barred (at' 6) 4) (2 ^ 64 + 16) ≠ 5 ∧
     preTrap i (barred (at' 6) 4) = none ∧ ok (liveBarrier (.s 0) 1 (barred (at' 6) 4)) = true) := by simp only [Ready]; decide +kernel

/-- What an earlier access to the granule holds back. -/
theorem wit_Barriers_held :
    let k := 2 ^ 64 + 16
    let bari := Instr.bari ⟨none, 2⟩ (.s 1) (.s 0) 1
    let barx := Instr.barx ⟨none, 2⟩ (.s 0) 5 1
    let barw := Instr.barw ⟨none, 2⟩ (.s 1) (.s 0) 1
    let s := away (at' 6) (granuleCells k)
    barCls ⟨none, 2⟩ s = 0 ∧ preTrap bari s = none ∧ (barrierAt (.s 0) 1 s).2 = .ok k ∧ s.live k = false ∧
    bankOk s s.issue.agent ((barrierAt (.s 0) 1 s).1.toNat / 2 ^ 18) = true ∧ waitsAt bari (granuleCells k) s = true ∧
    waitsAt bari (granuleCells k) (at' 6) = false ∧
    preTrap barx (barred s 5) = none ∧ liveBarrier (.s 0) 1 (barred s 5) = .ok k ∧ waitsAt barx (granuleCells k) (barred s 5) = true ∧
    waitsAt barx (granuleCells k) (barred (at' 6) 5) = false ∧ preTrap barw (barred s 5) = none ∧
    waitsAt barw (granuleCells k) (barred s 5) = true ∧ waitsAt barw (granuleCells k) (barred (at' 6) 5) = false ∧
    mget none (with' (barred (at' 6) 4) fun c => { c with barw := [(6, some (k, 5))] }).me.barw 6 = some (k, 5) := by decide +kernel

/-- Pool 0 stands at 0 and has room for 2 tiles, of which n are there: the pages at 0x80000 and 0x90000. -/
def pool (s : State) (n : Nat) : State :=
  [(0, 8, 0xA0000), (8, 4, 2), (12, 4, n), (0xA0000, 8, 0x80000), (0xA0008, 8, 0x90000)].foldl (fun s x => s.writeLE x.1 x.2.1 x.2.2) s

theorem wit_TileCommits :
    (∀ x ∈ [(2, 0x2A), (0, 0x2A), (0, 0x7002F), (2, 0x7002F)],
      okAnd (tileLeaf 0xFFFF (pool (page 9 x.2) x.1)) (fun r => r == (0x60000, x.2)) = true) ∧
    leafV 0x2A = false ∧ leafV 0x7002F = true ∧ (pool (page 9 0x2A) 0).readLE 12 4 = 0 ∧ (pool (page 9 0x2A) 2).readLE 12 4 ≠ 0 ∧
    (pool (page 9 0x2A) 2).readLE 8 4 ≤ (pool (page 9 0x2A) 2).readLE 12 4 ∧ (pool (page 9 0x2A) 0).readLE 12 4 < (pool (page 9 0x2A) 0).readLE 8 4 ∧
    preTrap (.commit none (.s 0) (.s 1)) (at' 6) = none ∧ ((at' 6).sc (.s 1)).toNat % 65536 ≠ 0 ∧
    preTrap (.decommit none (.s 3) (.s 0) true) (at' 6) = none ∧ 65536 < ((at' 6).sc (.s 3)).toNat ∧
    preTrap (.commit none (.s 0) (.s 0)) (pool (page 6 0x2A) 2) = none ∧ ok (commitOne 0 (pool (page 6 0x2A) 2)) = true ∧
    preTrap (.decommit none (.s 0) (.s 0) true) (pool (page 6 0x7002F) 0) = none ∧ ok (decommitOne true 0 (pool (page 6 0x7002F) 0)) = true ∧
    err (commitOne 0 (pool (page 6 0x2A) 0)) = true ∧
    (let i := Instr.commit none (.s 0) (.s 0)
     let s := away (pool (page 6 0x2A) 2) [(0x10, 0x70010, 0)]
     waitsAt i (rangeCells 0 65536 s.me.order.pend) s = true ∧ waitsAt i (rangeCells 0 65536 []) (pool (page 6 0x2A) 2) = false) := by
  simp only [List.forall_mem_cons, List.not_mem_nil, false_implies, implies_true, and_true]; decide +kernel

/-- A heap pool of 8 blocks of 64 bytes from 0x800 on stands at 0x400 of a page; its list starts at the address given. -/
def heap (leaf head : Nat) : State :=
  let s := [(0x70400, 0x800), (0x70408, 0x8_00000006), (0x70410, head), (0x70418, 8), (0x70800, 0x840)].foldl (fun s x => s.writeLE x.1 8 x.2) (page 6 leaf)
  with' s fun c => { c with regs := { c.regs with s := [(1, 0x400), (2, 0x800), (3, 0x801), (4, 0xA00)] } }

theorem wit_HeapOperations :
    (let i := Instr.alloc mh (.s 1) 5
     let s := heap 0x7000F 0
     let u := heap 0x7000F 0x800
     preTrap i s = none ∧ preTrap (.alloc mh (.s 2) 5) s = none ∧ err (heapRead 0 0x800 (afterReads i s)) = true ∧
     Ready i s ∧ okAnd (heapRead 0 0x400 (afterReads i s)) (fun r => numAt r.1.2 16 8 == 0) = true ∧ Ready i u ∧
     okAnd (heapRead 0 0x400 (afterReads i u)) (fun r => numAt r.1.2 16 8 == 0x800 && ok (keysOf .read 0x800 (List.range 8) r.2)) = true) ∧
    (let s := heap 0x7000F 0
     preTrap (.free mh (.s 2) (.s 2)) s = none ∧ err (heapRead 0 0x800 s) = true ∧ preTrap (.free mh (.s 3) (.s 1)) s = none ∧
     preTrap (.free mh (.s 4) (.s 1)) s = none ∧ preTrap (.free mh (.s 2) (.s 1)) s = none ∧
     okAnd (heapRead 0 0x400 s) (fun r => numAt r.1.2 0 8 == 0x800 && numAt r.1.2 12 4 == 8 && (r.1.2.getD 8 0).toNat == 6 &&
       ok (keysOf .write 0x800 (List.range 8) r.2)) = true) ∧
    (let i := Instr.alloc mh (.s 1) 5
     let waits := fun (s : State) => okAnd (heapRead 0 0x400 (afterReads i s)) fun r =>
       okAnd (keysOf .read 0x800 (List.range 8) r.2) fun k =>
         let x := plainLater 0 (cellsOf k.1)
         decide (heldBy x (inOrder x k.2) ≠ [])
     waits (pending (heap 0x7000F 0x800) [.access 5 (some 2) 1 true 0 [(0x800, 0x70800, 0)] .away]) = true ∧ waits (heap 0x7000F 0x800) = false) := by simp only [Ready]; decide +kernel

theorem wit_Invalidation :
    preTrap (.tlbinv 3 (.s 1) (.s 4) 3) (priv (at' 6)) = none ∧ preTrap (.tlbinv 0 (.s 0) (.s 0) 3) (priv (at' 6)) = none ∧
    (let held := fun (s : State) =>
       let ids := s.ctxs.flatMap fun c =>
         if coreInScope 3 s.issue.agent (coreOf c.1) then inRegion (fun a => a == 0) (invRegion 3 0).1 (invRegion 3 0).2 c.2.order.pend else []
       ids.filter fun i => (s.forceIds ids).anyPending [i]
     held (away (priv (at' 6)) [(0x10, 0x70010, 0)]) ≠ [] ∧ held (priv (at' 6)) = []) ∧
    (let s := (priv (at' 6)).modDev fun d => { d with routes := [(0, 1), (5, 1)] }
     preTrap (.tlbinv 4 (.s 1) (.s 4) 0) s = none ∧ (s.dev.routes.map Prod.fst).filter (· != s.dev.devno.toNat) = [5]) := by decide +kernel

/-- Tensor entry 1 is the one given; entry 0 is empty. -/
def entry (s : State) (e : BitVec 1024) : State := with' s fun c => { c with tis := [(1, e)] }

/-- A store of class 2 to a byte at 0x200001 is pending. -/
def stored (s : State) : State := with' s fun c => { c with order := { pend := [.store 1 2 1 false 0 [(0x200001, 0x200001, 7)]] } }

theorem wit_FenceResults :
    let s := stored (at' 6)
    let l := s.me.order.pend
    preTrap (.fenceC 1 4) s = none ∧ coversAny (.fenceC 1 4) l = true ∧ preTrap (.fenceC 1 1) s = none ∧ coversAny (.fenceC 1 1) l = false ∧
    preTrap (.fenceR 1 (.ti 0) []) (at' 6) = none ∧ fenceEntryOk (tiOf (at' 6) 0 0) = false ∧
    (let i := Instr.fenceR 4 (.range 4) []
     let f := Pend.fenceR 4 ([FOpd.range 4].flatMap (opdRanges s)) true
     preTrap i s = none ∧ (∀ n ∈ (info i).tis, fenceEntryOk (tiOf s 0 n.toNat) = true) ∧ coversAny f l = true ∧ (s.core 0).counters < 16 ∧
     (let u := s.modCore 0 fun k => { k with counters := 16 }
      preTrap i u = none ∧ 16 ≤ (u.core 0).counters)) ∧
    preTrap (.fenceR 4 (.range 1) []) s = none ∧ coversAny (.fenceR 4 ([FOpd.range 1].flatMap (opdRanges s)) true) l = false ∧
    preTrap (.fenceC 0 4) s = none ∧ coversAny (.fenceC 0 4) l = false := by decide +kernel

/-! Flags, tokens, commands. -/

/-- Token 1 is pending, token 2 holds an error. -/
def tokens (s : State) : State := with' s fun c => { c with toks := [(1, { pend := 1 }), (2, { err := true, cause := 0x0A })] }

theorem wit_FlagsTokensKills :
    (let s := with' (at' 9) fun c => { c with flags := [(2, 5)] }
     preTrap (.fwait 2 6) s = none ∧ preTrap (.fwait 2 5) s = none ∧ mget (0 : W32) s.me.flags 2 = 5) ∧
    preTrap (.fpost 1 false 3 5) (at' 9) = none ∧ takesPosts (at' 9) 3 = false ∧ preTrap (.fpost 1 true 0 31) (at' 9) = none ∧
    takesPosts (at' 9) 0 = true ∧ preTrap (.fpost 1 false 0 31) (at' 9) = none ∧
    (let s := with' (at' 9) fun c => { c with regs := { c.regs with s := [(1, 0), (2, 0x4000000010000 + 5 * 2 ^ 32), (3, 0x10001)] } }
     preTrap (.fpostr 1 (.s 1)) s = none ∧ postValueBad 0 = true ∧
     preTrap (.fpostr 1 (.s 2)) s = none ∧ postValueBad (s.sc (.s 2)) = false ∧ (s.sc (.s 2)).getLsbD 50 = true ∧
     (s.sc (.s 2)).toNat / 2 ^ 32 % 2 ^ 18 ≠ s.dev.devno.toNat ∧ preTrap (.fpostr 1 (.s 3)) s = none ∧ postValueBad (s.sc (.s 3)) = false ∧
     (s.sc (.s 3)).getLsbD 50 = false) ∧
    preTrap (.kwait false 1) (tokens (at' 9)) = none ∧ preTrap (.kwait false 2) (tokens (at' 9)) = none ∧
    preTrap (.kwait true 2) (tokens (at' 9)) = none ∧ preTrap (.kwait false 0) (tokens (at' 9)) = none ∧
    (let t := (tokens (at' 9)).me.toks; (mget ({} : Token) t 1).pend ≠ 0 ∧ (mget ({} : Token) t 2).pend = 0 ∧
      (mget ({} : Token) t 2).err = true ∧ (mget ({} : Token) t 0).err = false) ∧
    preTrap (.killScalar 11 (.s 3)) (at' 10) = none ∧ preTrap (.killImmLo 2 0xFFFF) (at' 10) = none ∧
    preTrap (.killImmHi 15 0xFFFF) (at' 10) = none := by decide +kernel

/-- n commands of the instruction given wait in the core. -/
def waitingFor (s : State) (i : Instr) (n : Nat) : State := s.modCore 0 fun k => { k with cmds := (List.range n).map fun j => { id := j, agent := 0, op := i } }

/-- A dense F32 entry of two axes in scratchpad; the same of a bitmap; the same without SPAD. -/
def dense : BitVec 1024 := 0xA10
def bitmap : BitVec 1024 := 0xA60
def flat : BitVec 1024 := 0x210

theorem wit_ArrayCommands :
    (let i := Instr.mmaScratchpad (tk 3) 0 0 1 (.s 1) 0
     preTrap i (entry (at' 8) flat) = none ∧ (mmaTrap [1, 2] (some 5) 1 0 (entry (at' 8) flat)).isSome = true ∧
     preTrap i (busy (entry (at' 8) dense)) = none ∧ mmaTrap [1, 2] (some 5) 1 0 (entry (at' 8) dense) = none ∧
     tileBusy 1 (busy (entry (at' 8) dense)) = true ∧ tileBusy 0 (entry (at' 8) dense) = false ∧
     preTrap i (entry (at' 8) dense) = none ∧ (waitingIn ((at' 8).core 0) (unitOf i)).length < unitCap (unitOf i) ∧
     (let s := waitingFor (entry (at' 8) dense) i (unitCap (unitOf i))
      preTrap i s = none ∧ unitCap (unitOf i) ≤ (waitingIn (s.core 0) (unitOf i)).length)) ∧
    preTrap (.mmaVector (tk 3) 0 0 1 0 32) (entry (at' 8) flat) = none ∧ mmaTrap [1] none 1 32 (entry (at' 8) flat) = none ∧
    preTrap (.mmas (tk 3) 0 0 1 (.s 1) 0) (entry (at' 8) bitmap) = none ∧ mmaTrap [6] (some 5) 1 0 (entry (at' 8) bitmap) = none ∧
    (let s := entry (at' 8) dense
     preTrap (.lde (tk 3) 0 1 0 (.s 1)) s = none ∧ preTrap (.lde (tk 3) 0 1 2 (.s 1)) s = none ∧ tiOk (tiOf s 0 1) [1, 2] true = true ∧
     latchHeld s 1 0 0 = true ∧ latchHeld s 1 1 0 = false ∧ preTrap (.lde (tk 3) 0 0 0 (.s 1)) s = none ∧
     preTrap (.lde (tk 3) 0 1 0 (.s 1)) (lifted 8) = none ∧ (tagOfS (lifted 8).me.flow.lift (.s 1) != 0) = true) ∧
    preTrap (.mzero [1, 2, 3] 7) (at' 8) = none ∧
    preTrap (.msave (tk 3) 0 true (.s 1) 0) (at' 8) = none ∧ ((rowsAddr true (.s 1) 0 (at' 8)).2).isSome = true ∧
    (rowsAddr true (.s 4) 0x1FFF (at' 8)).2 = none ∧ axisConflict (tagOfM (at' 8).me.flow.lift 0) (tagOfS (at' 8).me.flow.lift (.s 4)) = false ∧
    preTrap (.mload (tk 3) 0 true (.s 4) 0x1FFF) (at' 8) = none ∧ ((at' 8).core 0).cmds = [] ∧
    (∀ m ∈ [(0 : BitVec 3), 7], tileBusy m (at' 8) = false) := by decide +kernel

/-- A tree entry: one axis, one level, one root block; nodes of level 1 are numbered 0. -/
def tree : BitVec 1024 := .ofNat 1024 (0x130 + 2 ^ 256 + 2 ^ 896)
/-- A CSR entry. -/
def csr : BitVec 1024 := 0x240

theorem wit_TreeAndOtherCommands :
    (let s := entry (at' 6) tree
     (∀ i ∈ [Instr.tla (tk 3) 0 1 (.s 0) 5 1, .tld (tk 3) 0 1 (.s 0) 5 1 0, .tsa (tk 3) 0 0 (.s 1) (.v 1) 1, .tsd (tk 3) 0 1 (.s 0) (.v 1) 1 0,
        .tdsc (tk 3) 0 1 (.s 0) 1 1 false, .tcellCommit (tk 3) 1 (.s 0) 1, .tcellRelease (tk 3) 1 (.s 0) 1,
        .tla (tk 3) 0 2 (.s 0) 5 1], preTrap i s = none) ∧
     treeTrap 1 1 true 0 s = none ∧ treeAxis (.v 1) (.s 0) s = none ∧ (treeTrap 1 0 true 0 s).isSome = true ∧ (treeTrap 1 2 false 0 s).isSome = true) ∧
    (let s := entry (at' 8) csr
     (∀ i ∈ [Instr.copy (tk 3) (.s 4) (.s 1) (.s 2), .copy (tk 3) (.s 1) (.s 1) (.s 2), .rlay (tk 3) 1 0 (.s 0) (.s 0) (.s 0) 0 false,
        .mgset (tk 3) (.s 4) (.s 1), .mgpush (tk 3) 0 5 (.s 0) (.s 1), .mgfin (tk 3) 1 (.s 1) (.s 2) true, .mgfin (tk 3) 0 (.s 1) (.s 2) true,
        .astart (tk 3) (.s 4) (.s 1), .astartPost (tk 3) 1 255, .launch (tk 3) (.s 4), .taskset (tk 3) (.s 4) (.s 1), .taskdec (tk 3) (.s 1)],
        preTrap i s = none) ∧
     releaseList (s.core 0) 0 = [] ∧ (s.sc (.s 4)).toNat % 64 = 0 ∧ (s.sc (.s 1)).toNat % 64 ≠ 0 ∧ csrOk (tiOf s 0 1) [4, 5] = true ∧
     (let i := Instr.stage (tk 3) 1 (.s 0) (.s 0)
      let u := s.modCore 0 fun k => { k with cmds := [{ id := 1, agent := 0, op := i, aux := 1 }] }
      releaseList (u.core 0) 0 ≠ [] ∧ preTrap (.copy (tk 3) (.s 4) (.s 1) (.s 2)) u = none)) := by
  simp only [List.forall_mem_cons, List.not_mem_nil, false_implies, implies_true, and_true]; decide +kernel

/-- Link 1 has the credits given, and one message of tag 7. -/
def linked (s : State) (n : Nat) : State := s.modDev fun d => { d with links := [(1, { credits := n, rx := [(7, false, List.replicate 64 1)] })] }

theorem wit_FabricCommands :
    (let s := with' (linked (at' 8) 1) fun c => { c with regs := { c.regs with s := [(1, 0x40), (2, 0x80), (3, 1)] } }
     let send := Instr.send (tk 3) 1 true (.s 1) (.s 1) 7
     let recv := Instr.recv (tk 3) 1 true (.s 1) (.s 1) 7
     preTrap (.send (tk 3) 1 true (.s 1) (.s 3) 7) s = none ∧ preTrap (.recv (tk 3) 1 true (.s 1) (.s 3) 7) s = none ∧
     (linkTrap 1 true 0x40 1 s).isSome = true ∧ linkTrap 1 true 0x40 0x40 s = none ∧ linkTrap 1 true 0x40 0x80 s = none ∧
     preTrap (.send (tk 3) 1 true (.s 1) (.s 2) 7) s = none ∧ (linkOf s 1).credits < 2 ∧ preTrap send s = none ∧ 1 ≤ (linkOf s 1).credits ∧
     preTrap recv s = none ∧ ((linkOf s 1).rx.find? fun m => m.1 == 7).isSome = true ∧ preTrap (.recv (tk 3) 1 true (.s 1) (.s 1) 8) s = none ∧
     ((linkOf s 1).rx.find? fun m => m.1 == 8).isNone = true ∧ preTrap (.ramo (tk 3) 9 true (.s 1) (.s 2) (.s 3) 31) s = none) := by decide +kernel

theorem wit_StageRelease :
    (let i := fun (k : BitVec 5) => Instr.stage ⟨3, [k]⟩ 0x1FF (.s 1) (.s 2)
     let s := with' (tokens (at' 8)) fun c => { c with sched := { base := 0x400000, slen := 3, scnt := 1 } }
     (∀ k ∈ [(0 : BitVec 5), 1, 2], preTrap (i k) s = none ∧ slotTag (i k) s = 0) ∧ (waitingIn (s.core 0) 6).length < 2 ^ 32 ∧
     Nat.min (s.me.sched.scnt + 511) s.me.sched.slen = 3 ∧ s.me.sched.scnt < 3) := by
  simp only [List.forall_mem_cons, List.not_mem_nil, false_implies, implies_true, and_true]; decide +kernel

/-- An action that completes. -/
def goes (r : Res) : Bool := match r with | .ok _ => true | .trap _ => false | .block _ => false | .stall => false
theorem goes_iff (r : Res) (h : goes r = true) : ∃ t, r = .ok t := by
  cases r <;> simp [goes] at h
  exact ⟨_, rfl⟩

/-- A control block of CONTRACT at 0x100 of the scratchpad: one letter of extent 1; C, A and B are entry 1; s1 holds its address. -/
def contracting (tok : FMap Token) : State :=
  let s := [(0x100, 4, 0x10001), (0x108, 4, 1), (0x120, 4, 0x01000001), (0x130, 4, 0x01000001), (0x140, 4, 0x01000001), (0x153, 1, 128), (0x154, 4, 15)].foldl
    (fun s x => s.writeLE (2 ^ 64 + x.1) x.2.1 x.2.2) (((at' 8).modDev fun d => { d with microcode := true }))
  with' s fun c => { c with
    toks := tok, tis := [(1, .ofNat 1024 (0x910 + 2 ^ 256 + 4 * 2 ^ 512))]
    regs := { c.regs with s := [(1, 0x00FFFFFFFFC00100), (2, 0x00FFFFFFFFC00200), (3, 1)] } }

/-- The same with a sparse C in entry 2, MERGE and a misaligned BAD. -/
def merging : State :=
  let s := [(0x103, 1, 2), (0x120, 4, 0x02000202), (0x158, 8, 1)].foldl (fun s x => s.writeLE (2 ^ 64 + x.1) x.2.1 x.2.2) (contracting [])
  with' s fun c => { c with tis := c.tis ++ [(2, .ofNat 1024 (0x240 + 2 ^ 256 + 2 ^ 288))] }

/-- The bytes and the state that a CONTRACT of a block at an address checks. -/
def checked (a : W64) (s : State) (f : State → List Byte → Bool) : Bool :=
  okAnd (keysOf .read a (List.range 256) (afterReads (.contract ⟨3, [1]⟩ (.s 1)) s)) fun r =>
    let q := r.2.force 0 (fencedAccesses r.2.me.order.pend)
    f (someStores 0 q) (bytesAt r.1 (someStores 0 q))

theorem wit_ContractResults :
    let i := fun (n : Fin 32) => Instr.contract ⟨3, [1]⟩ (.s n)
    let s := contracting []
    let a : W64 := 0x00FFFFFFFFC00100
    let u := with' s fun c => { c with tis := [(1, .ofNat 1024 (0x4910 + 2 ^ 256 + 4 * 2 ^ 512))] }
    let h := pending s [.access 5 (some 0) 1 true 0 [] .away, .fenceC 1 1]
    preTrap (.contract (tk 3) (.s 1)) (lifted 8) = none ∧ tagOfS (lifted 8).me.flow.lift (.s 1) ≠ 0 ∧
    preTrap (i 3) s = none ∧ tagOfS s.me.flow.lift (.s 3) = 0 ∧ (s.sc (.s 3)).toNat % 256 ≠ 0 ∧
    preTrap (.contract (tk 3) (.s 0)) (at' 8) = none ∧ (at' 8).dev.microcode = false ∧ preTrap (i 2) s = none ∧
    s.dev.microcode = true ∧ preTrap (i 0) s = none ∧ err (keysOf .read 0 (List.range 256) (afterReads (i 0) s)) = true ∧
    checked 0x00FFFFFFFFC00200 s (fun t bs => (blockFault t bs).isSome) = true ∧
    preTrap (i 1) u = none ∧ checked a u (fun t bs => (blockFault t bs).isNone && !entriesOk bs t) = true ∧
    preTrap (i 1) merging = none ∧
    checked a merging (fun t bs => (blockFault t bs).isNone && entriesOk bs t && ctMerge bs && numAt bs 0x58 8 % 64 == 1) = true ∧
    preTrap (i 1) s = none ∧ checked a s (fun t bs => (blockFault t bs).isNone && entriesOk bs t && !ctMerge bs &&
      decide ((waitingIn (t.core 0) 6).length < 2 ^ 32)) = true ∧
    preTrap (i 1) h = none ∧ okAnd (keysOf .read a (List.range 256) (afterReads (i 1) h)) (fun r =>
      (fencedAccesses r.2.me.order.pend).any fun id => (r.2.force 0 (fencedAccesses r.2.me.order.pend)).anyPending [id]) = true := by decide +kernel

theorem wit_ContractResults_run :
    let blk := fun (merge aq : Nat) => leBytes 256 (merge * 2 ^ 24 + aq * 2 ^ (8 * 0x53))
    let m := fun (b : List Byte) (mg : Option Nat) => ({ id := 1, blk := b, left := 0, mg := mg, here := 0, next := 8, ridx := 0, iflat := 0 } : Micro)
    let x : Cmd := { id := 1, agent := 0, op := .contract (tk 3) (.s 1), out := some (3, 7) }
    let s := with' (at' 8) fun c => { c with toks := [(3, { pend := 1, inst := 7 }), (4, { pend := 1 })] }
    let r := setImage 0 (some { core := 0, prog := some (1, 4096) }) s
    mayStart s { x with deps := [.wait 9] } = false ∧ mayStart s { x with deps := [.err 5 0] } = true ∧ ({ x with deps := [.err 5 0] } : Cmd).depErr.isSome = true ∧
    mayStart s x = true ∧ x.depErr = none ∧ ctMerge (m (blk 2 128) none).blk = true ∧ ctMerge (m (blk 0 0) none).blk = false ∧
    8 ≤ (waitingIn ((s.modCore 0 fun k => { k with cmds := (List.range 8).map fun j => { x with id := j, op := .mgset (tk 3) (.s 1) (.s 1) } }).core 0) 4).length ∧
    (mget ({} : Token) (s.ctx 0).toks 4).pend ≠ 0 ∧ (mget ({} : Token) (s.ctx 0).toks 5).pend = 0 ∧
    numAt (blk 0 0) 0x53 1 < 128 ∧ (programOf r 0).isSome = true ∧ ¬numAt (blk 2 128) 0x53 1 < 128 ∧ programOf s 0 = none ∧
    x.agent = 0 ∧ x.out = some (3, (mget ({} : Token) (s.ctx 0).toks 3).inst) ∧ (mget ({} : Token) (s.ctx 0).toks 3).pend = 1 := by decide +kernel

/-! Events. -/

/-- A command of context 0. -/
def cmd (i : Instr) (caps : List W64) : Cmd := { id := 1, agent := 0, op := i, caps := caps }
/-- It runs. -/
def run (m : Cmd) : Cmd := { m with started := true }
/-- It consumed a token with an error. -/
def spoiled (m : Cmd) : Cmd := { m with deps := [.err 5 0] }
/-- Core 0 holds commands. -/
def has (s : State) (l : List Cmd) : State := s.modCore 0 fun k => { k with cmds := l }

theorem wit_ResultLandings :
    (let s := with' (at' 0) fun c => { c with flow := { c.flow with records := [⟨0, 1, .scalar 0, 0, 0, 0, false⟩] } }
     ∃ x ∈ (s.ctx 0).flow.records, x.count ≤ 1 ∧ x.ready = false) ∧
    (let s := with' (at' 0) fun c => { c with flow := { c.flow with records := [⟨0, 1, .tile 7 255, 0, 0, 0, true⟩, ⟨1, 2, .pred 0, 0, 0, 0, false⟩] } }
     ∀ x ∈ (s.ctx 0).flow.records, x.count ≤ 1 → x.ready = true) := by
  refine ⟨⟨⟨0, 1, .scalar 0, 0, 0, 0, false⟩, by decide +kernel, by decide +kernel⟩, ?_⟩
  intro s x hx
  have h : (s.ctx 0).flow.records.all (fun x => decide (x.count ≤ 1 → x.ready = true)) = true := by decide +kernel
  exact of_decide_eq_true (List.all_eq_true.mp h x hx)

/-- Context 0 is in the mode given. -/
def moded (m : Mode) : State := with' (at' 0) fun c => { c with mode := m }

theorem wit_BetweenBundles :
    (moded (.blocked (.flag 15 5))).me.mode = .blocked (.flag 15 5) ∧ (moded (.blocked (.token 31))).me.mode = .blocked (.token 31) ∧
    (moded (.blocked (.aq 3 true))).me.mode = .blocked (.aq 3 true) ∧ (moded (.blocked (.aq 0 false))).me.mode = .blocked (.aq 0 false) ∧
    (moded (.blocked (.queue 6))).me.mode = .blocked (.queue 6) ∧ (moded (.blocked (.bar 6 (2 ^ 64 + 16) 5))).me.mode = .blocked (.bar 6 (2 ^ 64 + 16) 5) ∧
    (moded (.blocked .sfu)).me.mode = .blocked .sfu ∧ (moded (.blocked .late)).me.mode = .blocked .late ∧
    (moded (.blocked .walk)).me.mode = .blocked .walk ∧ (moded (.blocked (.queue 7))).me.mode = .blocked (.queue 7) ∧
    (moded (.blocked (.credits 1 2))).me.mode = .blocked (.credits 1 2) ∧ (moded (.blocked (.recv 263))).me.mode = .blocked (.recv (256 * 1 + 7)) ∧
    (moded (.blocked (.order [5]))).me.mode = .blocked (.order [5]) ∧ (away (at' 0) []).holder 5 ≠ none ∧ (at' 0).holder 5 = none ∧
    (moded (.blocked (.trans 6 256 .read))).me.mode = .blocked (.trans 6 256 .read) ∧
    (let p := Pend.access 5 (some 0) 1 true 0 [] (.load 9 false true (.scalar false 8) none [] [])
     (pending (at' 0) [p]).me.order.pend = [p]) ∧
    (let s := with' (at' 0) fun c => { c with quantum := 65536 }
     let t := s.setCtx 3 { live with mode := .ready }
     65536 ≤ s.me.quantum ∧ (s.core 0).active = some (0 % 4) ∧ isRunnable (t.ctx 3) = true ∧ isRunnable (t.ctx 1) = false ∧ isRunnable (t.ctx 2) = false) ∧
    ((sfu (at' 0) 4).core 0).sfuq = (0, 0) :: [(0, 1), (0, 2), (0, 3)] ∧
    (let s := (sfu (at' 0) 4).modCore 0 fun k => { k with cycle := 4 }
     (s.core 0).sfuLast = some 0 ∧ 0 + 4 ≤ (s.core 0).cycle) := by
  decide +kernel

/-- Every line that may be read ahead of address 0 lies in the page (which one is free). -/
theorem wit_BetweenBundles_fetch : ∃ x, (page 0 0x70017).place 0 0 (fun _ => false) ((0 + Config.choice 7 % 64) * 64) .exec = .at x := by
  have h : (List.range 64).all (fun n => decide ((page 0 0x70017).place 0 0 (fun _ => false) ((0 + n) * 64) .exec = .at (0x70000 + n * 64))) = true := by
    decide +kernel
  exact ⟨_, of_decide_eq_true (List.all_eq_true.mp h _ (List.mem_range.mpr (Nat.mod_lt _ (by decide))))⟩

/-- Channel 0 is the one given; requests are of the agent in time 0 for record 5. -/
def channel (c : Channel) : State := (at' 0).modDev fun d => { d with channels := [(0, c)], phase := 0 }

theorem wit_CalendarEvents :
    ((channel { shaking := true }).channel 0).shaking = true ∧ ((channel {}).channel 0).shaking = false ∧
    (let s := (channel { reqs := [(0, 8, 4, 0x2000), (0, 0, 5, 0x4000)] }).modDev fun d => { d with rot := 1 }
     let o := s.channel 0
     let fits := fun (r : Nat × Nat × Nat × Nat) => slotOwner o 0 s.dev.phase = some (coreOf r.2.1) ∧ 40 ≤ (s.time + 2 ^ 41 - r.1) % 2 ^ 41 ∧
       reserved o s.dev.phase (bankOf r.2.2.2) = false
     o.reqs = [(0, 8, 4, 0x2000)] ++ (0, 0, 5, 0x4000) :: [] ∧ ¬fits (0, 8, 4, 0x2000) ∧ fits (0, 0, 5, 0x4000)) ∧
    (let r : Open := { act := 1, born := 0, pa := 0x4000, lur := true, line := some 0x80 }
     let o := fun (c : Channel) => (channel c).channel 0
     oldestOpen (o { opens := [r] }) (at' 0).time 0 = some r ∧ oldestOpen (o {}) (at' 0).time 0 = none ∧
     oldestOpen (o { opens := [r], budgets := [(1, 0)] }) (at' 0).time 0 = none) ∧
    (∀ c ∈ [({ dormant := true } : Channel), { lent := true }, { shaking := true }, {}],
      let p := askWriteBack 0 (deliverDue 0 (channel c))
      ((p.channel 0).dormant, (p.channel 0).lent, (p.channel 0).shaking) = (c.dormant, c.lent, c.shaking)) ∧
    (let t := fun (c : Channel) (f : State → Bool) => next (exec .calendarRotation ((channel c).modDev fun d => { d with reduced := false })) f
     t {} (fun t => t.dev.rot % 32 == 1 && lends t 0 == false) = true ∧ 1 ∈ ({ rows := [1] } : Channel).rows ∧ 1 ∉ ({} : Channel).rows ∧
     mget 0 ({ rows := [1] } : Channel).counts 1 ≠ 8 ∧ mget 0 ({ rows := [1], counts := [(1, 8)] } : Channel).counts 1 = 8 ∧
     t { dormant := true, lend := true } (fun t => lends t 0) = true) ∧
    (let s := fun (r : Bool) => (at' 0).modDev fun d => { d with calbusy := true, reduced := r }
     (∀ r ∈ [true, false], (s r).dev.calbusy = true ∧ (s r).dev.calread = false ∧ (s r).dev.reduced = r ∧
       paOk ((s r).dev.caltbase.toNat * 128) = true ∧ paOk ((s r).dev.caltbase.toNat * 128 + 256 * 1088 - 1) = true)) ∧
    (let u := fun (n : Nat) => ({ by' := [(2, 8), (1, 3)], major := 3, run := n } : Use)
     (2, 8) ∈ (u 1).by' ∧ ((u 1).by'.map Prod.snd).sum < 2 * 8 ∧ (u 1).major = 2 + 1 ∧ (u 1).run + 1 < 4 ∧ 4 ≤ (u 3).run + 1) := by
  simp only [List.forall_mem_cons, List.not_mem_nil, false_implies, implies_true, and_true]; decide +kernel

/-- A product command on tile 0, and one that writes tile 0 back. -/
def mma (e : BitVec 1024) : Cmd := { cmd (.mmaScratchpad (tk 3) 0 0 1 (.s 1) 1) [0] with ti := e }
def save (a : W64) : Cmd := cmd (.msave (tk 3) 0 false (.s 1) 0) [a]
def load (a : W64) : Cmd := cmd (.mload (tk 3) 0 false (.s 1) 0) [a]
def lde (e : BitVec 1024) : Cmd := { cmd (.lde (tk 3) 0 1 0 (.s 1)) [0] with ti := e }

theorem wit_CommandEndsAndAccesses :
    coreOf (mma dense).agent = 0 ∧
    (let t := (tokens (at' 0)).me.toks
     (mget ({} : Token) t 1).inst = 0 ∧ (mget ({} : Token) t 1).pend = 1 ∧ (mget ({} : Token) t 2).pend = 0) ∧
    ok (engKeys (mma dense) true .read 0 64 (at' 0)) = true ∧ okAnd (engKeys (mma dense) true .write 0 64 (at' 0)) (fun r => (liveHit r.1 r.2).isNone) = true ∧
    okAnd (engKeys (mma dense) true .write 0 64 (barred (at' 0) 0)) (fun r => (liveHit r.1 r.2).isSome) = true := by decide +kernel

/-- Of the 128 rows of a tile one is evaluated here. -/
theorem wit_ArrayEvents :
    let tile : Tile := []
    (∀ m ∈ [mma dense, spoiled (mma dense), { mma dense with latch := some {} }, cmd (.mzero [] 0) [], save 0, load 0],
      runningIn ((has (at' 0) [m]).core 0) 0 = [] ∧ nextIn (has (at' 0) [m]) 0 0 = some m) ∧
    (spoiled (mma dense)).depErr.isSome = true ∧ (mma dense).depErr = none ∧ isProduct (mma dense) = true ∧ isProduct (cmd (.mzero [] 0) []) = false ∧
    (let pair := fun (f : Nat) => pairGroup (at' 0).dev.reduced (tiFmt dense) (tiIsRec dense) f false
     (at' 0).dev.reduced = true ∧ (pair 0).isSome = true ∧ pair 3 = none) ∧
    (let z := productSize (mma dense) {}
     ok (productRows (mma dense) z.2 z.1 (at' 0)) = true ∧ err (productRows (mma (.ofNat 1024 (0x210 + 2 ^ 256 + 2 ^ 288))) z.2 z.1 (at' 0)) = true) ∧
    (∀ m ∈ [cmd (.mzero [] 0) [], cmd (.mmaVector (tk 3) 0 0 1 0 1) [], mma dense, cmd (.mmas (tk 3) 0 0 1 (.s 1) 0) [], save 0x00FFFFFFFFC00000, load 0x00FFFFFFFFC00000],
      (runningIn ((has (at' 0) [run m]).core 0) 0).head? = some (run m)) ∧
    ok (saveRows (save 0x00FFFFFFFFC00000) false tile [127] (at' 0)) = true ∧ err (saveRows (save 0) false tile (List.range 128) (at' 0)) = true ∧
    ok (loadRows (load 0x00FFFFFFFFC00000) false [127] tile (at' 0)) = true ∧ err (loadRows (load 0) false (List.range 128) tile (at' 0)) = true ∧
    (let s := has (at' 0) [lde dense]
     runningIn (s.core 0) 1 = [] ∧ nextIn s 0 1 = some (lde dense) ∧ (lde dense).depErr = none ∧
     nextIn (has (at' 0) [spoiled (lde dense)]) 0 1 = some (spoiled (lde dense))) ∧
    (runningIn ((has (at' 0) [run (lde dense)]).core 0) 1).head? = some (run (lde dense)) ∧
    ok (readLatch (lde dense) dense 0 (List.range (Nat.min (tiExt dense 0) (latchRows (tiFmt dense)))) {} (at' 0)) = true ∧
    (let e : BitVec 1024 := .ofNat 1024 (0x210 + 2 ^ 256 + 2 ^ 288); err (readLatch (lde e) e 0 [0] {} (at' 0)) = true) := by
  simp only [List.forall_mem_cons, List.not_mem_nil, false_implies, implies_true, and_true]; decide +kernel

/-- A TDSC of the tree, and one whose predicate selects no node. -/
def tdsc (p : Pred) : Cmd := { cmd (.tdsc (tk 3) 1 1 (.s 0) 1 1 false) [0] with ti := tree, pred := p }

theorem wit_TreeEvents :
    (let late := { tdsc 1 with id := 0, deps := [.wait 9] }
     let s := has (at' 0) [late, { tdsc 1 with ti := 0 }]
     waitingIn (s.core 0) 2 = [late] ++ { tdsc 1 with ti := 0 } :: [] ∧ mayStart s late = false ∧ mayStart s { tdsc 1 with ti := 0 } = true) ∧
    waitingIn ((has (at' 0) [tdsc 1]).core 0) 2 = [tdsc 1] ∧ (tdsc 1).depErr = none ∧ firstOfForest [tdsc 1] (tdsc 1) = true ∧
    waitingIn ((has (at' 0) [spoiled (tdsc 1)]).core 0) 2 = [spoiled (tdsc 1)] ∧ mayStart (has (at' 0) [spoiled (tdsc 1)]) (spoiled (tdsc 1)) = true ∧
    firstOfForest [spoiled (tdsc 1)] (spoiled (tdsc 1)) = true ∧
    (∀ m ∈ [run (tdsc 0), { run (tdsc 1) with arrived := some 1 }, { run (tdsc 0) with performed := true }], let s := has (at' 0) [m]
      let all := (s.core 0).cmds.filter fun x => unitOf x.op == 2
      pickOne (all.filter (treeReady s all)) s = some m) ∧
    ok (treeAccess (run (tdsc 0)) (has (at' 0) [run (tdsc 0)]).tick) = true ∧ err (treeAccess (run (tdsc 1)) (has (at' 0) [run (tdsc 1)]).tick) = true := by
  simp only [List.forall_mem_cons, List.not_mem_nil, false_implies, implies_true, and_true]; decide +kernel

/-- A copy descriptor: one element of 64 bytes, from scratchpad 0x100 to scratchpad 0x200, with completion c of argument a. -/
def descriptor (c a : Nat) : Nat :=
  0x316 + c * 2 ^ 11 + (if c = 2 ∨ c = 3 then 2 ^ 48 else 0) + 0x100 * 2 ^ 64 + 0x200 * 2 ^ 128 + a * 2 ^ 192 + 2 ^ (8 * 0x20)
/-- A running copy of it. -/
def copying (c a : Nat) : Cmd := run { cmd (.copy (tk 3) (.s 4) (.s 0) (.s 0)) [0x00FFFFFFFFC00400, 0, 0] with vecs := [.ofNat 2048 (descriptor c a)] }
/-- The descriptor stands at scratchpad 0x400. -/
def described (l : List Cmd) : State := (has (at' 0) l).writeLE (2 ^ 64 + 0x400) 128 (descriptor 0 0)
/-- A copy that waits, with its descriptor at the address given. -/
def wcopy (a : W64) : Cmd := cmd (.copy (tk 3) (.s 4) (.s 0) (.s 0)) [a, 0, 0]

/-- A one-element copy that reads and writes is a copy. -/
theorem copied_one (m : Cmd) (d : List Byte) (src dst : W64) (s : State) (h : okAnd (engRead m (cdSsp d) (src + .ofInt 64 (loopOffset (cdExt d) (cdSstr d) (cdDim d) 0 0)) (cdSize d) s)
      (fun x => (writeAll m (cdDsp d) x.1 (castTo d (dst + .ofInt 64 (loopOffset (cdExt d) (cdDstr d) (cdDim d) 0 0))) x.2).2.isNone) = true) :
    ∃ r, Copied m d src dst 1 0 s r := by
  obtain ⟨⟨bs, r⟩, h1, h2⟩ := (okAnd_iff _ _).mp h
  refine ⟨_, bs, r, (writeAll m (cdDsp d) bs (castTo d (dst + .ofInt 64 (loopOffset (cdExt d) (cdDstr d) (cdDim d) 0 0))) r).1, h1, ?_, rfl⟩
  simp only [Option.isNone_iff_eq_none] at h2
  rw [← h2]

/-- A running RLAY between two dense entries of one element of 4 bytes, the source entry as given. -/
def laying (e : BitVec 1024) : Cmd :=
  run { cmd (.rlay (tk 3) 1 0 (.s 0) (.s 0) (.s 0) 0 false) [0, 0, 0] with ti := e, vecs := [.ofNat 2048 (0xA10 + 2 ^ 256 + 2 ^ 288)] }

theorem wit_CopyEvents :
    (let lay := cmd (.rlay (tk 3) 1 0 (.s 0) (.s 0) (.s 0) 0 false) [0, 0, 0]
     (∀ m ∈ [wcopy 0, wcopy 0x00FFFFFFFFC00400, wcopy 0x00FFFFFFFFC00800, spoiled (wcopy 0), lay, { lay with caps := [1, 0, 0], ti := dense }],
      (runningCopies ((described [m]).core 0)).length < 8 ∧ nextIn (described [m]) 0 3 = some m)) ∧ nextIn (described []) 0 3 = none ∧
    tiKind dense = 1 ∧ nibble (tiFmt dense) = false ∧ tiKind 0 ≠ 1 ∧ tiPad 0 = false ∧
    err (engRead (wcopy 0) false 0 128 (described [])) = true ∧
    okAnd (engRead (wcopy 0) false 0x00FFFFFFFFC00400 128 (described [])) (fun r => (cdTrap false 0x00FFFFFFFFC00400 0 0 r.1).isNone) = true ∧
    okAnd (engRead (wcopy 0) false 0x00FFFFFFFFC00800 128 (described [])) (fun r => (cdTrap false 0x00FFFFFFFFC00800 0 0 r.1).isSome) = true ∧
    (let e := { cmd (.stage (tk 3) 1 (.s 0) (.s 0)) [0x00FFFFFFFFC00400, 0, 0, 1] with aux := 1 }
     let w := cmd (.stage (tk 3) 1 (.s 0) (.s 0)) [0, 0]
     let waits := fun (s : State) => (s.core 0).cmds.find? fun x => (match x.op with | .stage .. => x.aux == 0 | _ => false) && mayStart s x
     waits (described [e]) = none ∧ nextEntry 0 (described [e]) = some e ∧ waits (described [w]) = some w ∧ w.depErr = none ∧
     waits (described [spoiled w]) = some (spoiled w) ∧ waits (described []) = none ∧ nextEntry 0 (described []) = none) ∧
    (let e : BitVec 1024 := .ofNat 1024 (0xA10 + 2 ^ 256 + 2 ^ 288)
     let f : BitVec 1024 := .ofNat 1024 (0x210 + 2 ^ 256 + 2 ^ 288)
     (∀ m ∈ [laying e, laying f], ((runningCopies ((has (at' 0) [m]).core 0)).find? fun y => y.id == m.id) = some m) ∧
     (layLoop (laying e) e e 0 0 false 1 1 0 (at' 0)).2 = none ∧ (layLoop (laying f) f e 0 0 false 1 1 0 (at' 0)).2.isSome = true) ∧
    (let m := copying 0 0
     let d := leBytes 128 (m.vecs.getD 0 0).toNat
     (copyLoop m d 0x100 0x200 1 0 { at' 0 with bars := [(2 ^ 64 + 0x200) / 16] }).2.isSome = true ∧ runningCopies ((at' 0).core 0) = []) ∧
    (∀ x ∈ [(0, 0), (1, 16), (2, 0), (3, 4), (4, 9)], let m := copying x.1 x.2
      let d := leBytes 128 (m.vecs.getD 0 0).toNat
      ((runningCopies ((has (at' 0) [m]).core 0)).find? fun y => y.id == m.id) = some m ∧ cdCmpl d = x.1 ∧ cdCount d = 1) ∧
    inReset (barred (at' 0) 0) 0 = false ∧ bankOk (barred (at' 0) 0) 0 0 = true ∧ (barred (at' 0) 0).live (padKey 0 16) = true ∧
    inReset ((at' 0).modCore 0 fun k => { k with inReset := true }) 0 = true ∧
    (at' 0).live (padKey 0 16) = false ∧ ok (postFlag 0 0 1 (at' 0)) = true ∧ err (postFlag 4 0 1 (at' 0)) = true := by
  simp only [List.forall_mem_cons, List.not_mem_nil, false_implies, implies_true, and_true]; decide +kernel

theorem wit_CopyEvents_moves : let d := leBytes 128 (descriptor 0 0)
    ∃ r, Copied (copying 0 0) d (.ofNat 64 (numAt d 8 8)) (.ofNat 64 (numAt d 0x10 8)) 1 0 (at' 0) r := copied_one _ _ _ _ _ (by decide +kernel)

/-- The session of cluster 0, with a descriptor of CAP entries and spill area in the scratchpad window. -/
def session (cap : Nat) : Session :=
  { opened := true, owner := 0, tag := 7, desc := leBytes 64 (cap + 0x00FFFFFFFFC00000 * 2 ^ 64 + 0x1000 * 2 ^ 128 + 0x00FFFFFFFFC02000 * 2 ^ 192) }
/-- It is open. -/
def opened (x : Session) (l : List Cmd) : State := setSession 0 x (has (at' 0) l)
def mgset (a : W64) : Cmd := cmd (.mgset (tk 3) (.s 1) (.s 2)) [a, 7]
def mgpush (tag : W64) : Cmd := cmd (.mgpush (tk 3) 2 0 (.s 1) (.s 2)) [1, tag]
def mgfin (tag : W64) (dec : Bool) : Cmd := { cmd (.mgfin (tk 3) 1 (.s 1) (.s 2) dec) [tag, 9] with ti := .ofNat 1024 (0xA40 + 2 ^ 256 + 2 ^ 288 + 2 ^ 320 + 16 * 2 ^ 896 + 32 * 2 ^ 960) }

theorem wit_MergeEvents :
    (∀ a ∈ [(0 : W64), 0x00FFFFFFFFC00000, 0x00FFFFFFFFC00400], let s := has (at' 0) [run (mgset a)]
      (sessionOf s 0).opened = false ∧ (waitingSets 0 s).head? = some (0, run (mgset a))) ∧
    err (engRead (mgset 0) false 0 64 (at' 0)) = true ∧
    okAnd (engRead (mgset 0) false 0x00FFFFFFFFC00000 64 (at' 0)) (fun r => mergeBad r.1) = true ∧
    okAnd (engRead (mgset 0) false 0x00FFFFFFFFC00400 64 ((at' 0).writeLE (2 ^ 64 + 0x400) 4 65536)) (fun r => !mergeBad r.1) = true ∧
    (∀ m ∈ [mgset 0, spoiled (mgset 0)], ∀ o ∈ [{}, session 4, { session 4 with owner := 1 }], let s := opened o [m]
      waitingSets 0 s = [] ∧ pickOne (clusterCmds 0 fun c => (startable c s).filter isMgset) s = some (0, m)) ∧
    (let y := { session 1 with buffer := [(5, 6, 2, 0)] }
     y.buffer.length = numAt y.desc 0 4 ∧ (∃ h ∈ y.buffer, h.1 = 5 ∧ h.2.1 = 6 ∧ h.2.2.1 = 2) ∧ (∀ h ∈ y.buffer, ¬(h.1 = 5 ∧ h.2.1 = 7 ∧ h.2.2.1 = 2)) ∧
     y.failed = none ∧ y.ends + (runBytes y.runs.length (y.buffer.mergeSort entryLe)).length ≤ spillSize y ∧
     spillSize { y with desc := leBytes 64 1 } < (runBytes 0 (y.buffer.mergeSort entryLe)).length ∧
     (session 4).buffer.length ≠ numAt (session 4).desc 0 4 ∧
     ok (engWrite (asOwner y (mgset 0)) false (spillBase y + .ofNat 64 y.ends) (runBytes y.runs.length (y.buffer.mergeSort entryLe)) (at' 0)) = true) ∧
    (∀ m ∈ [mgpush 7, mgpush 8, spoiled (mgpush 7)], ∀ o ∈ [session 4, { session 4 with failed := some 0x14 }], let s := opened o [m]
      pickOne (clusterCmds 0 fun c => (startable c s).filter isMgpush) s = some (0, m)) ∧
    tagMatches (session 4) 7 = true ∧ tagMatches (session 4) 8 = false ∧ (arriveAll (mgpush 7) (pushEntries (mgpush 7) 2) (session 4) (at' 0)).1.failed = none ∧
    (∀ m ∈ [mgfin 7 true, mgfin 7 false, mgfin 8 true, spoiled (mgfin 7 false)], let s := opened (session 4) [m]
      pickOne (clusterCmds 0 fun c => (startable c s).filter isMgfin) s = some (0, m)) ∧
    (session 4).runs.length < 64 ∧ ok (readRuns (mgfin 7 true) (session 4) [] (at' 0)) = true ∧
    (writeLists (mgfin 7 true) (tiPad (mgfin 7 true).ti) (outputLists (mgfin 7 true).ti [(0, 0, 0, 0)]) (at' 0)).2 = none ∧
    (writeResult (mgfin 7 true) (session 4) 1 0 0 (at' 0)).2 = none := by
  simp only [List.forall_mem_cons, List.not_mem_nil, false_implies, implies_true, and_true]
  repeat' apply And.intro
  all_goals decide +kernel

/-- ASTART and its posting form, and a saved access program of context 0. -/
def astart : Cmd := cmd (.astart (tk 3) (.s 4) (.s 1)) [0x2000, 9]
def apost : Cmd := cmd (.astartPost (tk 3) 1 255) []

theorem wit_AccessProgramEvents :
    (let s := (setImage 0 (some { core := 0, prog := some (1, 4096) }) (at' 0)).setCtx 4096 { live with mode := .ready }
     (s.core 0).access = none ∧ suspended 0 s = [(0, 1, 4096)] ∧ 2048 + 0 ≠ 4096) ∧
    (let s := has (at' 0) [run astart]
     (s.core 0).access = none ∧ suspended 0 s = [] ∧ waitingStarts 0 s = [run astart]) ∧
    (let m := run { apost with id := 2 }
     let s := (has (at' 0) [run astart, m]).modCore 0 fun k => { k with access := some (0, 1) }
     let u := has (at' 0) [m]
     (s.core 0).access ≠ none ∧ readyPosts 0 s = [m] ∧ programOf s 0 = some (1, 2048) ∧
     suspended 0 u = [] ∧ waitingStarts 0 u = [] ∧ readyPosts 0 u = [m] ∧ programOf u 0 = none) ∧
    (∀ m ∈ [astart, spoiled astart, apost], let s := has (at' 0) [m]
      suspended 0 s = [] ∧ waitingStarts 0 s = [] ∧ readyPosts 0 s = [] ∧ ((startable 0 s).find? fun x => isAstart x.op) = some m) ∧
    ((startable 0 (at' 0)).find? fun x => isAstart x.op) = none ∧ readyPosts 0 (at' 0) = [] ∧ waitingStarts 0 (at' 0) = [] := by
  simp only [List.forall_mem_cons, List.not_mem_nil, false_implies, implies_true, and_true]; decide +kernel

/-- One signal is on its way. -/
def signalled (g : Signal) : State := (tokens (at' 0)).modDev fun d => { d with signals := [g] }
/-- Slot 9 of the device, armed with the count given, and slot 10, ready. -/
def slotted9 (s : State) (n : Nat) : State :=
  s.modDev fun d => { d with slots := [(9, { armed := true, counter := .ofNat 32 n, entry := [0, 0], launch := 1 }), (10, { ready := true, entry := [0, 0], launch := 1, order := 3 })] }

theorem wit_SignalEvents :
    (∀ g ∈ [Signal.flag [] (some 0) true 0 15 65535, .flag [] none false 8191 0 1, .flag [5] (some 0) true 4 0 1, .barrier [] (some 3) (2 ^ 64 + 16) 1 0,
      .slot [] 0 1 9 1, .remote [] (some 3) 5 0 0 none, .remote [] none 5 0 0 (some (0, 1)), .inval (some 3) 5], (signalled g).dev.signals[0]? = some g) ∧
    (let r := signalled (.flag [] (some 0) true 0 15 1)
     inReset r 0 = false ∧ takesPosts r 0 = true ∧ takesPosts r 4 = false ∧ (r.forceIds []).anyPending [] = false ∧ (r.forceIds [5]).anyPending [5] = false ∧
     (let u := pending r [.access 5 (some 0) 1 true 0 [] .away]; (u.forceIds [5]).anyPending [5] = true ∧ (u.forceIds [5]).holder 5 = some 0)) ∧
    (2 ^ 64 + 16) / 16 ∉ (at' 0).bars ∧ (2 ^ 64 + 16) / 16 ∈ (barred (at' 0) 5).bars ∧ inReset (barred (at' 0) 5) ((2 ^ 64 + 16 - 2 ^ 64) / 2 ^ 19) = false ∧
    (let m := cmd (.taskdec (tk 3) (.s 1)) [9]
     cmdOf (has (at' 0) [m]) 0 1 = some m ∧ (mget ({} : TSlot) (at' 0).dev.slots 9).armed = false ∧ (mget ({} : TSlot) (slotted9 (at' 0) 1).dev.slots 9).armed = true) ∧
    (let s := (at' 0).modDev fun d => { d with routes := [(5, 1)] }
     s.reachable 5 = true ∧ (at' 0).reachable 5 = false) ∧
    (let u := pending (signalled (.remote [] (some 5) 5 0 0 none)) [.access 5 (some 0) 1 true 0 [] .away]
     u.reachable 5 = false ∧ u.holder 5 = some 0) ∧
    (∀ p ∈ [Packet.post 0x10000 3, .post 0x10004 3, .dec 0x10009, .inval 0 0 3, .reset 5 true, .reset 5 false],
      let s := { at' 0 with env := { packets := [p] } }; s.dev.signals.length ≤ 0 ∧ s.env.packets = [p]) ∧
    (at' 0).env.packets = [] ∧ ok (postFlag 0 3 1 (at' 0)) = true ∧ err (postFlag 4 3 1 (at' 0)) = true ∧
    (let ids := fun (s : State) => s.ctxs.flatMap fun c => inRegion (fun a => a == 0) (invRegion 3 0).1 (invRegion 3 0).2 c.2.order.pend
     let s := away (at' 0) [(0x10, 0x70010, 0)]
     (∃ i ∈ ids s, (s.forceIds (ids s)).anyPending [i] = true) ∧ ids (at' 0) = []) ∧
    (let f : FreeReq := ⟨[5], 3, 0, 0, 0x400, (List.range 64).map (0x70400 + ·), 0x800, (List.range 8).map (0x70800 + ·)⟩
     let s := (heap 0x7000F 0).modDev fun d => { d with frees := [f] }
     let u := pending s [.access 5 (some 0) 1 true 0 [] .away]
     (s.dev.frees.find? fun x => x.agent == 0) = some f ∧ 32 ≤ f.desc.length ∧ f.block.length = 8 ∧ (f.desc ++ f.block).Nodup ∧
     (s.forceIds f.waits).anyPending f.waits = false ∧ (u.forceIds f.waits).anyPending f.waits = true) := by
  simp only [List.forall_mem_cons, List.not_mem_nil, false_implies, implies_true, and_true]; decide +kernel

/-- Commands of the fabric. -/
def csend : Cmd := cmd (.send (tk 3) 1 true (.s 1) (.s 1) 7) [0x40, 0x40]
def crecv (n : W64) : Cmd := cmd (.recv (tk 3) 1 true (.s 1) (.s 1) 7) [0x40, 0x40, n]
def cramo (a : W64) : Cmd := { cmd (.ramo (tk 3) 9 true (.s 1) (.s 2) (.s 3) 31) [a, 1, 2] with dst := 31 }

theorem wit_FabricEvents :
    (∀ m ∈ [csend, spoiled csend], let s := has (at' 0) [m]; pickOne (sendable 0 s) s = some m) ∧ csend.depErr = none ∧ (spoiled csend).depErr.isSome = true ∧
    (linkOf (at' 0) 1).up = true ∧ (linkOf ((at' 0).modDev fun d => { d with links := [(1, { up := false })] }) 1).up = false ∧
    (readFlits csend true 1 0x40 (at' 0)).2.2 = none ∧ (readFlits csend false 1 0x40 (at' 0)).2.2.isSome = true ∧
    (let flit : List Byte := List.replicate 64 1
     let full := fun (up : Bool) => { at' 0 with
       dev := { (at' 0).dev with links := [(1, { up := up, rx := List.replicate 2048 (7, false, flit) })] }
       env := { msgs := [(1, 7, false, flit), (2, 7, false, flit)] } }
     let fits := fun (s : State) (n : Nat) => !(linkOf s n).up || decide (rxFlits n s + 1 ≤ 2048)
     sendable 0 (full true) = [] ∧ fits (full true) 1 = false ∧ fits (full true) 2 = true ∧ fits (full false) 1 = true) ∧
    (at' 0).dev.boot = 0 ∧ State.reset.dev.boot ≠ 0 ∧
    (let s := (with' (at' 0) fun c => { c with mode := .saved, dir := 3 }).writeLE (dirKey (at' 0) 0) 8 (3 * 2 ^ 22)
     isFrozen s 0 = true ∧ isFrozen (at' 0) 0 = false ∧ imageArea s 0 = 3 * 2 ^ 22 ∧
     (∀ j ∈ List.range 8, s.shut (3 * 2 ^ 22 + 4096 + 8 * 30 + j) = false)) ∧
    sendable 0 (at' 0) = [] ∧ receivable 0 (at' 0) = [] ∧ (at' 0).env.msgs = [] ∧
    (∀ m ∈ [crecv 0x40, crecv 0x80, { crecv 0x40 with aux := 1 }, spoiled (crecv 0x40)], let s := has (at' 0) [m]; pickOne (receivable 0 s) s = some m) ∧
    (writeFlits (crecv 0x40) true 1 0x40 (List.replicate 64 1) (at' 0)).2 = none ∧ (writeFlits (crecv 0x40) false 1 0x40 (List.replicate 64 1) (at' 0)).2.isSome = true ∧
    (∀ m ∈ [cramo 0, cramo 4, spoiled (cramo 0)], let s := has (at' 0) [m]; pickOne (ramoReady 0 s) s = some m) ∧
    err (engKeys (cramo 0) false .both 0 8 (at' 0)) = true ∧
    okAnd (engKeys (cramo 0) false .both 0 8 (page 0 0x7000F)) (fun r => r.1.all fun y => y.2.all fun k => decide (k < 2 ^ 65)) = true ∧
    okAnd (engKeys (cramo 0) false .both 0 8 (page 0 0x7010F)) (fun r => r.1.any fun y => y.2.any fun k => decide (2 ^ 65 ≤ k) && decide (k < 2 ^ 66)) = true ∧
    (∀ i ∈ [Instr.hostAccess 64 true [1, 2], .inboundFabricAccess 64 true [1, 2]], i ∈ [Instr.hostAccess 64 true [1, 2], .inboundFabricAccess 64 true [1, 2]]) := by
  simp only [List.forall_mem_cons, List.not_mem_nil, false_implies, implies_true, and_true]
  repeat' apply And.intro
  all_goals decide +kernel

/-- A launch of one stage, with capacity 2, high mark 1 and the queue given. -/
def stageDesc : List Byte := leBytes 128 (0x2000 + 255 * 2 ^ (8 * 0x27) + 2 * 2 ^ (8 * 0x30) + 2 * 2 ^ (8 * 0x34) + 4 * 2 ^ (8 * 0x3C))
def launched (q : List QEntry) : Launch := { id := 1, admitted := true, stages := [{ desc := stageDesc, queue := q }] }
/-- It runs. -/
def running (s : State) (l : Launch) : State := s.modDev fun d => { d with launches := [l] }
/-- An entry. -/
def ent : QEntry := { words := [0, 0] }

/-- A sound record is not evaluated here: its check reads 8,960 bytes. -/
theorem wit_LaunchEvents :
    (let v : W64 := 0; v.extractLsb' 12 34 = (at' 0).dev.lqbase ∧ v.extractLsb' 0 3 = (at' 0).dev.lqlog2) ∧
    (let v : W64 := 0x5003; v.extractLsb' 12 34 ≠ (at' 0).dev.lqbase) ∧ ringCount (at' 0).dev = 0 ∧
    (let s := (at' 0).modDev fun d => { d with lqlog2 := 3, lqtail := 1 }; ringCount s.dev ≠ 0 ∧ s.shut (s.dev.lqbase.toNat * 2 ^ 12 + 32 * s.dev.lqhead.toNat) = false) ∧
    ((at' 0).dev.launches.find? fun x => !x.admitted) = none ∧ (at' 0).dev.boot = 0 ∧ State.reset.dev.boot ≠ 0 ∧
    (at' 0).dev.switching = false ∧ ((at' 0).modDev fun d => { d with switching := true }).dev.switching = true ∧
    (let l : Launch := { id := 1, bad := true, done := 0x80 }
     let m := cmd (.launch (tk 3) (.s 4)) [0]
     (∀ x ∈ [l, { l with done := 0 }, { l with cmd := some (0, 1) }],
       ((running (at' 0) x).dev.launches.find? fun y => !y.admitted) = some x ∧ err (readRecord x (running (at' 0) x)) = true) ∧
     cmdOf (has (running (at' 0) { l with cmd := some (0, 1) }) [m]) 0 1 = some m ∧
     ok (engWrite (schedCmd 0) false 0x80 (leBytes 8 0x10F) (page 0 0x7000F)) = true) ∧
    (let s := running (at' 0) (launched []); findLaunch s 1 = some (launched []) ∧ launchDone (launched []) s = false) ∧
    (let s := running ((at' 0).modCtx 0 fun c => { c with mode := .empty }) (launched [])
     findLaunch s 1 = some (launched []) ∧ launchDone (launched []) s = true ∧ (launched []).cmd = none ∧ (launched []).done = 0) := by
  simp only [List.forall_mem_cons, List.not_mem_nil, false_implies, implies_true, and_true]; decide +kernel

def claunch : Cmd := cmd (.launch (tk 3) (.s 4)) [0]
def cset (a v : W64) : Cmd := cmd (.taskset (tk 3) (.s 4) (.s 1)) [a, v]
def cdec (v : W64) : Cmd := cmd (.taskdec (tk 3) (.s 1)) [v]

theorem wit_TaskCommandEvents :
    waitingSet (at' 0) 0 = none ∧ nextIn (at' 0) 0 5 = none ∧
    (∀ m ∈ [claunch, spoiled claunch, cset 0 0, cset 0x00FFFFFFFFC00000 0x10009, cset 0x00FFFFFFFFC00000 0x8000, cdec 0, cdec 0x4000500010009, cdec 0x10009],
      waitingSet (has (at' 0) [m]) 0 = none ∧ nextIn (has (at' 0) [m]) 0 5 = some m) ∧
    claunch.depErr = none ∧ (spoiled claunch).depErr.isSome = true ∧ tasksetOk 0 = false ∧ tasksetOk 0x10009 = true ∧ tasksetOk 0x8000 = true ∧
    (let s := running (at' 0) (launched [])
     err (engRead (cset 0 0) false 0 64 s) = true ∧ okAnd (engRead (cset 0 0) false 0x00FFFFFFFFC00000 64 s) (fun r => entryOk 1 (entryWords r.1)) = true ∧
     okAnd (engRead (cset 0 0) false 0x00FFFFFFFFC00000 64 (s.writeLE (2 ^ 64 + 8) 8 9)) (fun r => !entryOk 1 (entryWords r.1)) = true ∧
     findLaunch s (s.ctx 0).task.launch = some (launched []) ∧ hasRoom (launched []) 0 = true ∧ hasRoom (launched [ent, ent]) 0 = false ∧
     (mget ({} : TSlot) s.dev.slots 9).armed = false ∧ (mget ({} : TSlot) s.dev.slots 9).ready = false ∧ (mget ({} : TSlot) (slotted9 s 1).dev.slots 9).armed = true) ∧
    (let m := run (cmd (.taskset (tk 3) (.s 4) (.s 1)) [0, 0x8000, 0, 0])
     waitingSet (has (running (at' 0) (launched [])) [m]) 0 = some (m, launched []) ∧ hasRoom (launched []) (entryStage (m.caps.drop 2)) = true) ∧
    taskdecBad 0 = true ∧ taskdecBad 0x4000500010009 = false ∧ (0x4000500010009 : W64).getLsbD 50 = true ∧
    (0x4000500010009 : W64).toNat / 2 ^ 32 % 2 ^ 18 ≠ (at' 0).dev.devno.toNat ∧ taskdecBad 0x10009 = false ∧ (0x10009 : W64).getLsbD 50 = false ∧
    (let s := slotted9 (running (at' 0) (launched [])) 1
     findLaunch s (mget ({} : TSlot) s.dev.slots 10).launch = some (launched []) ∧ (mget ({} : TSlot) s.dev.slots 10).ready = true ∧
     (mget ({} : TSlot) s.dev.slots 9).ready = false ∧ s.dev.launches = [launched []] ∧ entryStage [0, 0] < (launched []).stages.length) := by
  simp only [List.forall_mem_cons, List.not_mem_nil, false_implies, implies_true, and_true]; decide +kernel

/-- Context 0 is empty, and its launch has the entries given. -/
def free (l : Launch) (s : State) : State := running (s.modCtx 0 fun c => { allot := c.allot }) l
/-- A stage with a scratchpad image of 256 bytes in the scratchpad window of the scheduler's reach, and its launch. -/
def filling : Launch := { launched [ent] with stages := [{ desc := leBytes 128 (leNat stageDesc + 0x100 * 2 ^ (8 * 0x20)), queue := [ent] }] }
/-- Core 0 has staged the entry. -/
def staged (e : QEntry) (b : Option Nat) (s : State) : State := s.modCore 0 fun k => { k with staged := some ⟨1, 0, e, b, none⟩ }
/-- Context 0 fills. -/
def starting (n : Nat) (bad : Option Trap) : State :=
  running (with' (page 0 0x70007) fun c => { c with mode := .starting, task := { c.task with fills := n }, answer := bad, allot := { c.allot with window := 64 } }) (launched [])

theorem wit_TaskStartEvents :
    mayTake (at' 0) 0 = false ∧
    (let s := free (launched [ent]) (at' 0)
     mayTake s 0 = true ∧ stagedFor s 0 = none ∧ (s.ctx 0).allot.launch.bind (findLaunch s) = some (launched [ent]) ∧
     chooseFor s (launched [ent]) 0 = some (0, 0) ∧ (readyQueue (stageOf (launched [ent]) 0))[0]? = some ent ∧ ent.image = none ∧
     (s.ctx 0).noArea = false ∧ s.dev.launches = [launched [ent]]) ∧
    (let s := staged ent none (free (launched []) (at' 0))
     mayTake s 0 = true ∧ stagedFor s 0 = some (launched [], ⟨1, 0, ent, none, none⟩)) ∧
    (let e := { ent with image := some 4096 }
     let s := (setImage 4096 (some {}) (free (launched [e]) (at' 0))).setCtx 4096 { live with mode := .saved }
     mayTake s 0 = true ∧ chooseFor s (launched [e]) 0 = some (0, 0) ∧ (readyQueue (stageOf (launched [e]) 0))[0]? = some e) ∧
    (∀ n ∈ [0, 1, 2, 3, 4, 7], ((starting n none).ctx 0).mode = .starting ∧ ((starting n none).ctx 0).task.fills = n) ∧
    (let m : Cmd := { id := 0, agent := 0, op := .nopX }
     let s := starting 7 none
     err (readImage m 64 (sdRimg (descOf s (s.ctx 0).task)) (at' 0)) = true ∧ sdTitab (descOf s (s.ctx 0).task) = 0 ∧
     err (readItems m 128 (List.range 64) 0x2000 [] (at' 0)) = true ∧ ((starting 1 (some { cause := 9 })).ctx 0).answer = some { cause := 9 } ∧
     ((starting 1 none).ctx 0).answer = none ∧ ok (engRead m false (sdSpimg (descOf s (s.ctx 0).task)) (sdSplen (descOf s (s.ctx 0).task)) s) = true ∧
     err (engRead m false 0x200000 256 s) = true) ∧
    (let s := free (launched [ent]) (at' 0)
     (s.core 0).staged = none ∧ (s.core 0).inReset = false ∧ (s.core 0).gated = false ∧ stageChoice s 0 = some (launched [ent], 0, 0, 0) ∧
     sdSplen (stageOf (launched [ent]) 0).desc = 0 ∧ stageChoice (free (launched []) (at' 0)) 0 = none) ∧
    (let s := (free filling (at' 0)).modCluster 0 fun k => { k with banks := [(0, 6)] }
     stageChoice s 0 = some (filling, 0, 0, 0) ∧ sdSplen (stageOf filling 0).desc ≠ 0 ∧
     (let t := (bindGroup 1 (keyOfEntry filling ent) 0 (takeEntry 1 0 0 s)).tick
      (idleBanks t 0 1).head? = some 0 ∧ (readyQueue (stageOf filling 0))[0]? = some ent)) := by
  simp only [List.forall_mem_cons, List.not_mem_nil, false_implies, implies_true, and_true]
  repeat' apply And.intro
  all_goals decide +kernel

/-- Context 0 waits for its task's end. -/
def ending (rerun : Bool) : State :=
  running (with' (at' 0) fun c => { c with mode := .blocked .taskend, task := { c.task with ending := !rerun, rerun := rerun } }) (launched [])

theorem wit_TaskEndEvents :
    (∀ r ∈ [true, false], ((ending r).ctx 0).mode = .blocked .taskend ∧ endsNow (ending r) 0 = true) ∧ ((ending false).ctx 0).task.ending = true ∧
    ((ending true).ctx 0).task.rerun = true ∧ ((ending true).core 0).staged = none ∧ (ending true).dev.launches = [launched []] ∧
    (launched []).id = ((ending true).ctx 0).task.launch ∧ ((ending true).ctx 0).task.stage < (launched []).stages.length ∧
    (let s := (has (at' 0) [run astart]).modCore 0 fun k => { k with access := some (0, 1) }
     let t := s.setCtx 2048 { mode := .blocked .taskend, task := { ending := true } }
     (t.ctx 2048).mode = .blocked .taskend ∧ endsNow t 2048 = true ∧ (t.ctx 2048).task.ending = true ∧ (t.core 0).access = some (0, 1) ∧
     cmdOf t 0 1 = some (run astart)) ∧
    (let s := running (with' (at' 0) fun c => { c with task := { c.task with used := 4 * 65536 + 1 } }) (launched [])
     (s.ctx 0).dir = 1 ∧ (s.ctx 0).mode ≠ .starting ∧ sdBudget (descOf s (s.ctx 0).task) = 4 ∧ 4 * 65536 < (s.ctx 0).task.used) := by
  simp only [List.forall_mem_cons, List.not_mem_nil, false_implies, implies_true, and_true]; decide +kernel

/-- Context 0 as given. -/
def ctx0 (f : Ctx → Ctx) : State := running (with' (at' 0) f) (launched [])

theorem wit_SaveEvents :
    (let s := ctx0 fun c => { c with saver := 0x32 }; (s.ctx 0).saver = 0x32 ∧ isLive (s.ctx 0) = true) ∧
    ((at' 0).ctx 0).mode ∉ [.empty, .saving, .saved] ∧
    (∀ x ∈ [(0x32, none), (0x3F, some 1), (0x31, none)], let s := ctx0 fun c => { c with mode := .saving, saver := x.1, answered := x.2 }
      (s.ctx 0).mode = .saving ∧ heldBack s 0 = false ∧ (s.ctx 0).saver = x.1 ∧ (s.ctx 0).answered = x.2 ∧ runningIn (s.core 0) 0 = []) ∧
    (let s := (ctx0 fun c => { c with mode := .saving, saver := 0x32 }).modCore 0 fun k => { k with cmds := [run (mma dense)] }
     (s.ctx 0).mode = .saving ∧ heldBack s 0 = false ∧
     (runningIn (s.core 0) 0).filter (fun m => m.agent == 0 && isProduct m) = [run (mma dense)]) ∧ ((at' 0).ctx 0).saver ∉ [0x31, 0x32] ∧
    (∀ m ∈ [Mode.saving, .saved, .empty], ((moded m).ctx 0).mode = m) ∧ imageArea (at' 0) 0 = 0 ∧
    (let s := (at' 0).writeLE (dirKey (at' 0) 0) 8 (3 * 2 ^ 22); imageArea s 0 ≠ 0 ∧ (s.ctx 0).allot.window ≤ 768 ∧ (liveVectors (s.ctx 0)).length = 768) ∧
    (ctx0 id).dev.launches = [launched []] ∧ (launched []).id = ((ctx0 id).ctx 0).task.launch ∧ ((ctx0 id).ctx 0).task.stage < (launched []).stages.length ∧
    (let s := ctx0 fun c => { c with mode := .saved, answered := some 0, order := { pend := [.fenceR 1 [(0, 8)] true] } }
     (s.ctx 0).mode = .saved ∧ (s.ctx 0).parked = false ∧ (s.ctx 0).answered = some 0 ∧ (s.ctx 0).ctl.poisoned = false ∧ mayResume s 0 = true ∧
     (s.ctx 0).saver ∉ [0x31, 0x32] ∧
     mayResume (s.modCore 0 fun k => { k with gated := true }) 0 = false) ∧
    (let s := ctx0 fun c => { c with mode := .saved, answered := some 0, ctl := { c.ctl with poisoned := true } }
     (s.ctx 0).mode = .saved ∧ (s.ctx 0).parked = false ∧ (s.ctx 0).answered = some 0 ∧ (s.ctx 0).ctl.poisoned = true) := by
  simp only [List.forall_mem_cons, List.not_mem_nil, false_implies, implies_true, and_true]; decide +kernel

/-- A service record of an index. -/
def service (n : Nat) (p w : Bool) : Service := ⟨n, 0, p, w, 0x30, 0, 0, 0, []⟩
/-- Records are posted. -/
def posted (l : List Service) (s : State) : State := s.modDev fun d => { d with services := l }

theorem wit_ServiceEvents :
    (∀ n ∈ [0, 2048, 2111, 2112, 2113], let x := service n false false
      let s := posted [x] (ctx0 id)
      (s.dev.services.find? fun y => y.index == n && !y.waits) = some x ∧ ∀ y ∈ s.dev.services.erase x, y.index ≠ n) ∧
    ((at' 0).dev.services.find? fun y => y.index == 0 && !y.waits) = none ∧ (service 0 false false).program = false ∧ ((at' 0).ctx 0).mode ≠ .saved ∧
    (let s := ctx0 fun c => { c with mode := .saved }
     (s.ctx 0).mode = .saved ∧ s.dev.launches = [launched []] ∧ (launched []).id = (s.ctx 0).task.launch ∧ (s.ctx 0).task.stage < 1 ∧ (s.core 0).staged = none) ∧
    (let x := service 0 true false
     let s := (posted [x] (ctx0 id)).modCore 0 fun k => { k with access := some (0, 1) }
     let u := setImage 0 (some { core := 0, prog := some (1, 4096) }) (posted [x] (ctx0 id))
     (s.dev.services.find? fun y => y.index == 0 && !y.waits) = some x ∧ x.program = true ∧ (∀ y ∈ s.dev.services.erase x, y.index ≠ 0) ∧
     programOf s 0 = some (1, 2048) ∧ ownsAccess s 0 = true ∧ (imageOf s 0).cmds = [] ∧
     (u.dev.services.find? fun y => y.index == 0 && !y.waits) = some x ∧ programOf u 0 = some (1, 4096) ∧ ownsAccess u 0 = false ∧
     (u.ctx 4096).order.pend = []) ∧
    (let x := service 0 false false
     let y := service 0 false true
     let z := { service 2113 false true with follows := [5] }
     let due := fun (s : State) => s.dev.services.map (recordDue s)
     let s := posted [x, y, z] (ctx0 id)
     let u := posted [z] (away (ctx0 id) [(0x10, 0x70010, 0)])
     due s = [false, false, true] ∧ due (posted [x, y] (ctx0 id)) = [false, false] ∧
     (s.tick.forceIds z.follows).anyPending z.follows = false ∧ due u = [true] ∧ (u.tick.forceIds z.follows).anyPending z.follows = true) ∧
    (sessionOf (at' 0) 0).fin = none ∧ (sessionOf (at' 0) 0).opened = false ∧ (session 4).opened = true ∧
    (let z := { session 4 with fin := some (0, 1) }
     let m := run (mgfin 7 false)
     let s := opened z [m]
     (sessionOf s 0).fin = some (0, 1) ∧ cmdOf s 0 1 = some m ∧ okAnd (scanRuns m z 1 0 s) (fun r => decide (r.1.length < 64)) = true ∧
     okAnd (scanRuns m z 64 0 s) (fun r => decide (64 ≤ r.1.length)) = true ∧
     err (scanRuns m { z with desc := leBytes 64 4 } 1 0 s) = true) := by
  simp only [List.forall_mem_cons, List.not_mem_nil, false_implies, implies_true, and_true]; decide +kernel

theorem wit_DebugEvents :
    ((at' 0).modDev fun d => { d with ctxbusy := true }).dev.ctxbusy = true ∧ (at' 0).dev.ctxbusy = false ∧
    (∀ n ∈ [(0 : BitVec 3), 1, 2, 3, 4], ((ctx0 fun c => { c with dir := n }).ctx 0).dir = n) ∧ ((at' 0).ctx 0).parked = false ∧
    ((ctx0 fun c => { c with parked := true }).ctx 0).parked = true ∧ ((at' 0).modDev fun d => { d with ctxstop := some 0 }).dev.ctxstop = some 0 ∧ (at' 0).dev.ctxstop = none ∧ ((at' 0).ctx 1).dir = 0 ∧
    ((at' 0).ctx 0).ctl.priv = false ∧ isRunnable ((at' 0).ctx 0) = true ∧
    (let s := ctx0 fun c => { c with ctl := { c.ctl with dbgctl := 0x2C, ccyc := 9, dbgstop := 9 } }
     (s.ctx 0).ctl.dbgctl.getLsbD 2 = true ∧ (s.ctx 0).ctl.ccyc = (s.ctx 0).ctl.dbgstop ∧ (s.ctx 0).stopAt ≠ some (s.ctx 0).ctl.ccyc ∧
     (s.ctx 0).ctl.dbgctl.getLsbD 3 = true ∧ (s.ctx 0).ctl.dbgctl.getLsbD 5 = true) ∧ Untraced (at' 0) ∧
    ((at' 0).cluster 0).trace.opened = false ∧ 32 ≤ 2 ^ ((at' 0).cluster 0).trace.log2.toNat ∧
    (((at' 0).modCluster 0 fun k => { k with trace := { k.trace with opened := true } }).cluster 0).trace.opened = true := by
  simp only [List.forall_mem_cons, List.not_mem_nil, false_implies, implies_true, and_true]
  repeat' apply And.intro
  all_goals first | decide +kernel | exact fun n => by cases n <;> rfl

/-- SHA3-512 of nothing, as FIPS 202's own example gives it (R423): the first byte of the digest lowest. -/
theorem test_sha3 : ((sha3 []).toNat == 0x26CD1D2886857501E3D3B6959D1900F558C53A2C40E9E3114CF9F5F13A12B215A6805C47C1DCD1E05958E24F1682C9976E755A18DC67B5C8C59A3AA2CC739FA6) = true := by decide +kernel

/-- R397, R400: where values of an image stand, v3 at the rank of a live vector after the killed v1; a host's write to s2 of a saved one. -/
theorem test_image :
    (let c := fun (c : Ctx) => { c with mode := .saved, dir := 3, allot := { c.allot with window := 4 }, regs := { c.regs with killed := [(1, 1)] } }
     let s := (with' (at' 0) c).writeLE (dirKey (at' 0) 0) 8 (3 * 2 ^ 22)
     ([(0, .pc), (4096 + 24, .s 4), (4344, .p 1), (4864 + 512, .v 3)].all fun x => (imageLayout s 0).contains x) &&
       next (exec (.hostAccess (3 * 2 ^ 22 + 4104) true [9, 1, 0, 0, 0, 0, 0, 0]) s) fun t => mget 0 t.me.regs.s 2 == 0x109) = true := by
  decide +kernel

/-- R416: a peer's FPOSTR adds to the flag it names; one of a context without a task is refused. -/
theorem test_peer_post :
    next (exec (.remoteSignalDelivery 0) { at' 0 with env := { packets := [.post 0x50000 3] } }) (fun t =>
      mget 0 (t.ctx 0).flags 3 == 5 && t.env.packets.isEmpty) = true ∧
    next (exec (.remoteSignalDelivery 0) { at' 0 with env := { packets := [.post 0x50004 3] } }) (fun t => (t.ctx 4).flags.isEmpty) = true := by
  decide +kernel

theorem wit_DeviceEvents :
    (at' 0).dev.reduced = true ∧ ((at' 0).modDev fun d => { d with reduced := false }).dev.reduced = false ∧ (∀ l ∈ (at' 0).dev.launches, l.admitted = false) ∧
    (∃ l ∈ (running (at' 0) (launched [])).dev.launches, l.admitted = true) ∧ coreIdle (at' 0) 0 = false ∧ coreIdle (at' 0) 1 = true ∧
    ((at' 0).core 1).gated = false ∧ (at' 0).dev.boot = 0 ∧ State.reset.dev.boot = 2 ∧ (State.reset.modDev fun d => { d with boot := 1 }).dev.boot = 1 ∧
    (at' 0).dev.mgmt = none ∧
    (∀ b, ((at' 0).modDev fun d => { d with mgmt := some (b, 2 ^ 40 - 1) }).dev.mgmt = some (b, 2 ^ 40 - 1)) ∧ 64 * (2 ^ 40 - 1) + 64 ≤ 2 ^ 46 ∧
    2 ^ 46 < 64 * 2 ^ 40 + 64 ∧ ((at' 0).ctx 0).mode ≠ .saved ∧ (moded .saved).ctxs.length = 1 ∧
    (let b := fun (pa len : Nat) => ((at' 0).writeLE (hostKey 64) 8 pa).writeLE (hostKey 72) 8 len
     (let x := (b (2 ^ 46) 1).bytes (hostKey 64) 64; 2 ^ 46 < numAt x 0 8 + numAt x 8 8 ∧ numAt x 8 8 < 4819) ∧
     (let x := (b 0x1000 4819).bytes (hostKey 64) 64; numAt x 0 8 = 0x1000 ∧ numAt x 8 8 = 4819)) := by
  decide +kernel

/-! The machine. -/

theorem wit_DecodeEncode : (Instr.addReg false 3 (.s 1) (.s 2)).wf = true ∧ (Instr.addReg false 3 (.s 1) (.s 2)).kind = some .s ∧
    decodeWord .s 0x04304100 = .ok (.addReg false 3 (.s 1) (.s 2)) := by decide +kernel

/-- A placed machine (log 2) at core 0's turn, with another first word, of the number of bits given, and other contents of its context. -/
def placed (nbits w : Nat) (f : Ctx → Ctx) : State := { State.reset.withFetchWord nbits w with bg := false }.modCtx 0 f
/-- The state in which the cycle has begun. -/
def begun (s : State) : State := match beginCycle 0 s with | .next u => u | .fault _ => s | .refused _ => s

/-- How the issue of a placed word ends, when every hypothesis of StepRunsDecoded holds there. -/
def endsAs (s : State) : Option Status :=
  let u := begun s
  match fetchBundle 0 u with
  | .bundle b v =>
    let c := v.ctx 0
    let len := bundleLength b.hdr
    let i := v.modIssue fun _ => { agent := 0, here := c.pc, length := len, clsdef := b.hdr.clsdef, next := c.pc + .ofNat 64 len }
    match opersOf c b with
    | [o] =>
      let x := instOf c (slotTag o.instr i)
      let w := i.modCtx 0 fun c => { c with iflat := x.this }
      let p := landed 0 x w
      let r := o.resume p x
      let good := s.agenda == [] && !s.dev.calbusy && !s.bg && !(s.core 0).inReset && !(s.core 0).gated && (u.core 0).active == some 0 &&
        !stopDue u 0 && !quantumDue u 0 && (u.ctx 0).hold == 0 && (u.ctx 0).flow.micro == none && !b.slots.isEmpty && !isMove o.instr &&
        !isTaskendBundle b && earlyTrap b x [o] w == none && !lateNow c && c.answer == none && actsHere p x o.instr
      (match exec r.instr (atOper x r p) with
       | .next t => if good then some t.issue.status else none
       | .fault _ => none
       | .refused _ => none)
    | _ => none
  | .trap _ => none

/-- ADD ends well; LIFT of 0 raises 0x10; TRAP raises 0x30; FWAIT blocks on a flag of 0; VTR stalls while its tile is busy. -/
theorem wit_StepRunsDecoded :
    endsAs (placed 32 0x04304100 id) = some .ok ∧ endsAs (placed 32 0xA0000000 id) = some (.trapped { cause := 0x10, slot := 0, sub := 6 }) ∧
    endsAs (placed 32 0xBC000000 id) = some (.trapped { cause := 0x30, slot := 0 }) ∧ endsAs (placed 16 0x1101 id) = some (.blocked (.flag 1 1)) ∧
    endsAs ((placed 64 (encode (.vtr (vh 0) 3 0 1 (.s 1))) id).modCore 0 fun k => { k with busy := 2 }) = some .stalled := by decide +kernel

theorem wit_FetchAndOperations :
    (let s := begun (placed 32 0x04304100 id)
     let c := s.ctx 0
     (∀ x ∈ c.lines, x.1 ≠ c.pc.toNat / 64) ∧ fetchKey s 0 (c.pc.toNat / 64) = .at (c.pc.toNat / 64 * 64) ∧ c.pc.toNat % 4 = 0 ∧
       c.pc.toNat % 64 + bundleLength (headerOf (s.readLE c.pc.toNat 4)) ≤ 64 ∧ (∃ e w, fetchKey s 0 (2 ^ 40) = .cause e w)) ∧
    (∃ w, fetchKey (tables 6 0x4010001F 0 0) 0 0 = .cause 0x09 w) ∧
    (let k : Sticky := ⟨.vldc true mh 0 5 (.s 6) 256 0, 0, 0, 2⟩
     let c : Ctx := { live with flow := { sticky := [(6, some k)] } }
     let b : Bundle := ⟨headerOf 0x8040, [(.m0, .ok (.ld false mh 6 (.s 6) false 2 true 0 0))]⟩
     bundleInstrs ⟨headerOf 0x40, [(.m0, .ok .nopM)]⟩ = [(6, .nopM)] ∧ mget none c.flow.sticky 6 = some k ∧ isTaskendBundle b = false ∧
     ({ live with whole := some b } : Ctx).whole = some b ∧ (headerOf 0).present.getLsbD 6 = false ∧ isTaskendBundle ⟨headerOf 0x1, [(.s0, .ok .taskend)]⟩ = true ∧ ∀ m, mget none ({} : Flow).sticky m = none) := by
  repeat' apply And.intro
  all_goals first | decide +kernel | exact fun _ => rfl | exact ⟨8, false, by decide +kernel⟩

theorem wit_StepKeepsMemory : MemoryInv State.reset ∧ next (step State.reset) (fun _ => true) = true := by
  simp only [MemoryInv]; decide +kernel

end Sys2Proof.Tests
end

section
/-! PROOF. Memory by bytes (R2): the little-endian bytes of a value, reading back what was written, and the bits of a lane. -/

namespace Sys2Proof.Machine

/-! The little-endian bytes of a value. -/

@[simp] theorem length_leBytes (n v : Nat) : (leBytes n v).length = n := by
  induction n generalizing v with
  | zero => rfl
  | succ n ih => simp [leBytes, ih]

/-- Byte i is the digit of weight 256 ^ i. -/
theorem toNat_getD_leBytes {i n : Nat} (v : Nat) (h : i < n) : ((leBytes n v).getD i 0).toNat = v / 256 ^ i % 256 := by
  induction n generalizing i v with
  | zero => omega
  | succ n ih =>
    cases i with
    | zero => simp [leBytes]
    | succ i =>
      calc ((leBytes (n + 1) v).getD (i + 1) 0).toNat = ((leBytes n (v / 256)).getD i 0).toNat := by simp [leBytes]
        _ = v / 256 / 256 ^ i % 256 := ih _ (by omega)
        _ = v / 256 ^ (i + 1) % 256 := by rw [Nat.div_div_eq_div_mul, Nat.pow_succ']

/-- The value that n bytes of v hold. -/
theorem leNat_leBytes (n v : Nat) : leNat (leBytes n v) = v % 256 ^ n := by
  induction n generalizing v with
  | zero => simp [leBytes, leNat, Nat.mod_one]
  | succ n ih =>
    calc leNat (leBytes (n + 1) v) = v % 256 + 256 * (v / 256 % 256 ^ n) := by simp [leBytes, leNat, ih]
      _ = v % 256 ^ (n + 1) := by rw [Nat.pow_succ', Nat.mod_mul]

/-! Reading what was written. -/

/-- The bytes from a key on are a list when each byte is the list's. -/
theorem bytes_eq_of_byte (s : State) (k : Nat) (l : List Byte) (h : ∀ i < l.length, s.byte (k + i) = l.getD i 0) :
    s.bytes k l.length = l := by
  induction l generalizing k with
  | nil => rfl
  | cons b r ih =>
    have hb : s.byte k = b := h 0 (by simp)
    have hr : s.bytes (k + 1) r.length = r := ih (k + 1) fun i hi => by
      simpa [Nat.add_assoc, Nat.add_comm 1 i] using h (i + 1) (by simpa using hi)
    rw [List.length_cons, State.bytes, hb, hr]

/-- The bytes written are read back. -/
theorem bytes_setBytes (s : State) (k : Nat) (l : List Byte) : (s.setBytes k l).bytes k l.length = l :=
  bytes_eq_of_byte _ k l fun i hi => by simp [byte_setBytes, hi]

/-- A byte of a value written. -/
theorem toNat_byte_writeLE (s : State) (k v : Nat) {i n : Nat} (h : i < n) :
    ((s.writeLE k n v).byte (k + i)).toNat = v / 256 ^ i % 256 := by
  have hb : (s.writeLE k n v).byte (k + i) = (leBytes n v).getD i 0 := by simp [State.writeLE, byte_setBytes, h]
  rw [hb, toNat_getD_leBytes v h]

/-- A byte outside the range of a write. -/
theorem byte_writeLE_of_outside (s : State) (k n v : Nat) {j : Nat} (h : j < k ∨ k + n ≤ j) :
    (s.writeLE k n v).byte j = s.byte j := by
  have hj : ¬(k ≤ j ∧ j < k + n) := by omega
  rw [State.writeLE, byte_setBytes, length_leBytes, if_neg hj]

/-- A value written is read back, as far as n bytes hold it. -/
theorem readLE_writeLE (s : State) (k n v : Nat) : (s.writeLE k n v).readLE k n = v % 256 ^ n := by
  have h : (s.writeLE k n v).bytes k n = leBytes n v := by simpa [State.writeLE] using bytes_setBytes s k (leBytes n v)
  rw [State.readLE, h, leNat_leBytes]

/-- Writing a value changes nothing but memory. -/
theorem writeLE_frame (s : State) (k n v : Nat) : { s.writeLE k n v with mem := s.mem } = s := setBytes_frame s k _

/-! The bits of a lane. -/

/-- Bit j of lane l stands at l * w + j, and a lane has w bits. -/
theorem testBit_laneN (w l j : Nat) (x : Vec) : (laneN w x l).testBit j = (decide (j < w) && x.getLsbD (l * w + j)) := by
  have hbit : (x.toNat / 2 ^ (w * l)).testBit j = x.getLsbD (l * w + j) := by
    rw [Nat.testBit_div_two_pow, BitVec.testBit_toNat, Nat.mul_comm, Nat.add_comm]
  rw [laneN, Nat.testBit_mod_two_pow, hbit]

end Sys2Proof.Machine

namespace Sys2Proof.Spec
open Sys2Proof.Machine

/-- Settles O14: by the digits of the value written, the bytes read back, and the bits of a lane. -/
theorem memoryBytes : Obligations.MemoryBytes :=
  ⟨fun s k n v => ⟨fun _ hi => toNat_byte_writeLE s k v hi, readLE_writeLE s k n v, fun _ hj => byte_writeLE_of_outside s k n v hj,
    writeLE_frame s k n v⟩, testBit_laneN⟩

end Sys2Proof.Spec
end

section
/-! PROOF. The scalar results (R70-R76): each value that the model computes on words is the one that the rules state in numbers, and each
scalar instruction gives its value. -/

namespace Sys2Proof.Spec
open Sys2Proof.Machine

/-! Products, quotients and remainders. -/

theorem imm_eq_ofInt {n : Nat} (i : BitVec n) : imm i = BitVec.ofInt 64 i.toInt := rfl

theorem imm_eq_imm13 (i : BitVec 13) : imm i = imm13 i := rfl

/-- The high word of a product of two words, whatever the sign. -/
theorem highWord_ofInt (p : Int) : (BitVec.ofInt 128 p).extractLsb' 64 64 = BitVec.ofInt 64 (p / 2 ^ 64) := by
  apply BitVec.eq_of_toNat_eq
  simp only [BitVec.extractLsb'_toNat, BitVec.toNat_ofInt, Nat.shiftRight_eq_div_pow]
  omega

theorem mulhVal_eq_highProduct (u : Bool) (a b : W64) : mulhVal u a b = highProduct u a b := by
  cases u with
  | false =>
    have product : a.signExtend 128 * b.signExtend 128 = BitVec.ofInt 128 (a.toInt * b.toInt) := (BitVec.ofInt_mul ..).symm
    simp only [mulhVal, highProduct, product, highWord_ofInt, Bool.false_eq_true, if_false]
  | true =>
    have product : a.zeroExtend 128 * b.zeroExtend 128 = BitVec.ofInt 128 (a.toNat * b.toNat : Nat) := by
      rw [BitVec.ofInt_natCast, BitVec.ofNat_mul, BitVec.ofNat_toNat, BitVec.ofNat_toNat]
    simp only [mulhVal, highProduct, product, highWord_ofInt, if_true]
    exact BitVec.ofInt_natCast 64 (a.toNat * b.toNat / 2 ^ 64)

/-- The quotient of -2^63 by -1 wraps, as 2^63 does (R71). -/
theorem sdiv_eq_ofInt (a b : W64) : a.sdiv b = BitVec.ofInt 64 (a.toInt.tdiv b.toInt) := by
  apply BitVec.eq_of_toInt_eq
  rw [BitVec.toInt_sdiv, BitVec.toInt_ofInt]

theorem srem_eq_ofInt (a b : W64) : a.srem b = BitVec.ofInt 64 (a.toInt.tmod b.toInt) := by
  rw [← BitVec.toInt_srem, BitVec.ofInt_toInt]

theorem udiv_eq_ofNat (a b : W64) : a / b = BitVec.ofNat 64 (a.toNat / b.toNat) := by
  rw [← BitVec.toNat_udiv, BitVec.ofNat_toNat, BitVec.setWidth_eq]

theorem umod_eq_ofNat (a b : W64) : a % b = BitVec.ofNat 64 (a.toNat % b.toNat) := by
  rw [← BitVec.toNat_umod, BitVec.ofNat_toNat, BitVec.setWidth_eq]

theorem divVal_eq_quotient (u : Bool) (a b : W64) : divVal u a b = quotient u a b := by
  simp only [divVal, quotient, sdiv_eq_ofInt, udiv_eq_ofNat]

theorem remVal_eq_remainder (u : Bool) (a b : W64) : remVal u a b = remainder u a b := by
  simp only [remVal, remainder, srem_eq_ofInt, umod_eq_ofNat]

/-! Comparisons. -/

theorem minVal_eq_lesser (u : Bool) (a b : W64) : minVal u a b = lesser u a b := by cases u <;> rfl

theorem maxVal_eq_greater (u : Bool) (a b : W64) : maxVal u a b = greater u a b := by cases u <;> rfl

/-- Each condition by its code; from 9 on the code stands for LEU. -/
theorem cmpHolds_eq_condition (c : Nat) (a b : W64) : cmpHolds c a b = condition c a b := by
  match c with
  | 0 | 2 | 3 | 4 | 5 | 6 | 7 | 8 => rfl
  | 1 => exact decide_not.symm
  | _ + 9 => rfl

theorem cmpVal_eq_truth (c : Nat) (a b : W64) : cmpVal c a b = truth (condition c a b) := by
  rw [cmpVal, cmpHolds_eq_condition, truth]

/-! Shifts and fields. -/

theorem shiftLeft_eq_ofNat (a : W64) (n : Nat) : a <<< n = BitVec.ofNat 64 (a.toNat * 2 ^ n) := by
  apply BitVec.eq_of_toNat_eq
  rw [BitVec.toNat_shiftLeft, BitVec.toNat_ofNat, Nat.shiftLeft_eq]

theorem ushiftRight_eq_ofNat (a : W64) (n : Nat) : a >>> n = BitVec.ofNat 64 (a.toNat / 2 ^ n) := by
  rw [← Nat.shiftRight_eq_div_pow, ← BitVec.toNat_ushiftRight, BitVec.ofNat_toNat, BitVec.setWidth_eq]

theorem sshiftRight_eq_ofInt (a : W64) (n : Nat) : a.sshiftRight n = BitVec.ofInt 64 (a.toInt / 2 ^ n) := by
  rw [BitVec.sshiftRight_eq, Int.shiftRight_eq_div_pow, Int.natCast_pow, Int.cast_ofNat_Int]

/-- A word moved up by 13 bits leaves room for the immediate of LIH. -/
theorem shiftLeft_or_eq_ofNat (a : W64) (i : BitVec 13) :
    a <<< 13 ||| i.zeroExtend 64 = BitVec.ofNat 64 (a.toNat * 2 ^ 13 + i.toNat) := by
  rw [← Nat.shiftLeft_eq, Nat.shiftLeft_add_eq_or_of_lt i.isLt, BitVec.ofNat_or, BitVec.ofNat_toNat, Nat.shiftLeft_eq, shiftLeft_eq_ofNat]

theorem bfxVal_eq_field (sx : Bool) (a : W64) (p w : Nat) : bfxVal sx a p w = field sx a p w := by
  cases sx with
  | false =>
    simp only [bfxVal, field, ← BitVec.ofNat_toNat, BitVec.extractLsb'_toNat, Nat.shiftRight_eq_div_pow, Bool.false_eq_true, if_false]
  | true =>
    simp only [bfxVal, field, BitVec.signExtend, BitVec.toInt_extractLsb', Nat.shiftRight_eq_div_pow, Int.natCast_emod, if_true]
    rw [Int.emod_bmod]

theorem imm_mul_eq_ofInt (i : BitVec 13) : imm i * 256 = BitVec.ofInt 64 (256 * i.toInt) := by
  rw [Int.mul_comm, BitVec.ofInt_mul, imm_eq_ofInt]
  rfl

/-! Counts. -/

/-- The leading one of a word that is not zero stands at 63 less its leading zeros. -/
theorem log2_eq_sub_clz {a : W64} (h : a ≠ 0) : a.toNat.log2 = 63 - a.clz.toNat := by
  have low : 2 ^ (63 - a.clz.toNat) ≤ a.toNat := BitVec.two_pow_sub_clz_le_toNat_of_ne_zero (by decide) h
  have high : a.toNat < 2 ^ (64 - a.clz.toNat) := BitVec.toNat_lt_two_pow_sub_clz
  have lt : a.clz.toNat < 64 := BitVec.clz_lt_iff_ne_zero.mpr h
  rw [Nat.log2_eq_iff (by bv_omega), show 63 - a.clz.toNat + 1 = 64 - a.clz.toNat by omega]
  exact ⟨low, high⟩

theorem clzVal_eq_clz (a : W64) : clzVal a = a.clz := by
  by_cases h : a = 0
  · rw [clzVal, if_pos h, BitVec.clz_eq_iff_eq_zero.mpr h]
    rfl
  · have lt : a.clz.toNat < 64 := BitVec.clz_lt_iff_ne_zero.mpr h
    rw [clzVal, if_neg h, log2_eq_sub_clz h, show 63 - (63 - a.clz.toNat) = a.clz.toNat by omega, BitVec.ofNat_toNat, BitVec.setWidth_eq]

/-- A fold that adds one for each element with a property counts them. -/
theorem foldl_eq_add_countP {α : Type} (p : α → Bool) (l : List α) (n : Nat) :
    l.foldl (fun k x => if p x then k + 1 else k) n = n + l.countP p := by
  induction l generalizing n with
  | nil => rfl
  | cons x r ih =>
    rw [List.foldl_cons, ih, List.countP_cons]
    split <;> omega

theorem popcount_eq_countP {n : Nat} (a : BitVec n) : popcount a = (List.range n).countP fun k => a.getLsbD k := by
  rw [popcount, foldl_eq_add_countP, Nat.zero_add]

/-! The work identifier. A slot's own reads leave it. -/

theorem task_ctx_afterReads (i : Instr) (s : State) (a : Nat) : ((afterReads i s).ctx a).task = (s.ctx a).task := by
  by_cases h : a = s.issue.agent
  · simpa only [State.me, issue_afterReads, ← h] using task_afterReads i s
  · rw [(outside_afterReads i s).2 a h]

@[simp] theorem widOwner_afterReads (i : Instr) (s : State) : widOwner (afterReads i s) = widOwner s := by
  simp only [widOwner, issue_afterReads, State.core, cores_afterReads]

@[simp] theorem widVal_afterReads (i : Instr) (s : State) (g : Bool) (k : Nat) : widVal (afterReads i s) g k = widVal s g k := by
  simp only [widVal, widFormat, widOwner_afterReads, task_ctx_afterReads, dev_afterReads]

/-! The instructions. -/

/-- Settles O1: no scalar instruction's reads change its operands, and its value is the one that the rules state. -/
theorem scalarResults : Obligations.ScalarResults := by
  refine ⟨fun s st u d a b i => ?_, fun s st g d a b c i i9 i7 p w cc f => ?_⟩
  · exact ⟨
      gives_scalar (exec_addReg s) (by simp only [sc_afterReads]),
      gives_scalar (exec_addImm s) (by simp only [sc_afterReads, imm_eq_imm13]),
      gives_scalar (exec_subReg s) (by simp only [sc_afterReads]),
      gives_scalar (exec_subImm s) (by simp only [sc_afterReads, imm_eq_imm13]),
      gives_scalar (exec_mulReg s) (by simp only [sc_afterReads]),
      gives_scalar (exec_mulImm s) (by simp only [sc_afterReads, imm_eq_imm13]),
      gives_scalar (exec_mulhReg s) (by simp only [sc_afterReads, mulhVal_eq_highProduct]),
      gives_scalar (exec_mulhImm s) (by simp only [sc_afterReads, mulhVal_eq_highProduct, imm_eq_imm13]),
      gives_scalar (exec_divReg s) (by simp only [sc_afterReads, divVal_eq_quotient]),
      gives_scalar (exec_divImm s) (by simp only [sc_afterReads, divVal_eq_quotient, imm_eq_imm13]),
      gives_scalar (exec_remReg s) (by simp only [sc_afterReads, remVal_eq_remainder]),
      gives_scalar (exec_remImm s) (by simp only [sc_afterReads, remVal_eq_remainder, imm_eq_imm13]),
      gives_scalar (exec_minReg s) (by simp only [sc_afterReads, minVal_eq_lesser]),
      gives_scalar (exec_minImm s) (by simp only [sc_afterReads, minVal_eq_lesser, imm_eq_imm13]),
      gives_scalar (exec_maxReg s) (by simp only [sc_afterReads, maxVal_eq_greater]),
      gives_scalar (exec_maxImm s) (by simp only [sc_afterReads, maxVal_eq_greater, imm_eq_imm13]),
      gives_scalar (exec_andReg s) (by simp only [sc_afterReads]),
      gives_scalar (exec_andImm s) (by simp only [sc_afterReads, imm_eq_imm13]),
      gives_scalar (exec_orReg s) (by simp only [sc_afterReads]),
      gives_scalar (exec_orImm s) (by simp only [sc_afterReads, imm_eq_imm13]),
      gives_scalar (exec_xorReg s) (by simp only [sc_afterReads]),
      gives_scalar (exec_xorImm s) (by simp only [sc_afterReads, imm_eq_imm13])⟩
  · exact ⟨
      gives_scalar (exec_shlReg s) (by simp only [sc_afterReads, shiftLeft_eq_ofNat]),
      gives_scalar (exec_shlImm s) (by simp only [sc_afterReads, shiftLeft_eq_ofNat]),
      gives_scalar (exec_shrReg s) (by simp only [sc_afterReads, ushiftRight_eq_ofNat]),
      gives_scalar (exec_shrImm s) (by simp only [sc_afterReads, ushiftRight_eq_ofNat]),
      gives_scalar (exec_sraReg s) (by simp only [sc_afterReads, sshiftRight_eq_ofInt]),
      gives_scalar (exec_sraImm s) (by simp only [sc_afterReads, sshiftRight_eq_ofInt]),
      gives_scalar (exec_lih s) (by simp only [sc_afterReads, shiftLeft_or_eq_ofNat]),
      gives_scalar (exec_cmpReg s) (by simp only [sc_afterReads, cmpVal_eq_truth]),
      gives_scalar (exec_cmpImm s) (by simp only [sc_afterReads, cmpVal_eq_truth, imm_eq_ofInt]),
      gives_scalar (exec_selReg s) (by simp only [sc_afterReads]),
      gives_scalar (exec_selImm s) (by simp only [sc_afterReads, imm_eq_ofInt]),
      gives_scalar (exec_bfxReg s) (by simp only [sc_afterReads, bfxVal_eq_field]),
      gives_scalar (exec_bfxImm s) (by simp only [sc_afterReads, bfxVal_eq_field]),
      gives_scalar (exec_bfi s) (by simp only [sc_afterReads]),
      gives_scalar (exec_clz s) (by simp only [sc_afterReads, clzVal_eq_clz]),
      gives_scalar (exec_popc s) (by simp only [sc_afterReads, popcount_eq_countP]),
      gives_scalar (exec_addsReg s) (by simp only [sc_afterReads, shiftLeft_eq_ofNat]),
      gives_scalar (exec_addsImm s) (by simp only [sc_afterReads, imm_mul_eq_ofInt]),
      gives_scalar (exec_wid s) (by simp only [widVal_afterReads])⟩

end Sys2Proof.Spec
end

section
/-! PROOF. The vector results (R80, R83, R86-R93, R119, R120): a V slot reads its sources as before its own reads, so that each lane has
the value that the rules state. -/

namespace Sys2Proof.Spec
open Sys2Proof.Machine

/-! Sources. -/

/-- Sources that stand in the fields A on have fields of their own, so that each is read as before the slot's own reads (R37). -/
theorem vc_afterReads_of_fields {i : Instr} {s : State} {xs : List VCode} (hv : InV s)
    (hvs : (info i).vs = xs.zipIdx.map fun x => (x.2, x.1)) {f : Nat} {c : VCode} (hc : xs[f]? = some c) :
    (afterReads i s).vc f c = s.vc f c := by
  refine vc_afterReads hv f c fun x hx hf => ?_
  rw [hvs, List.mem_map] at hx
  obtain ⟨y, hy, rfl⟩ := hx
  have hy : xs[f]? = some y.1 := hf ▸ List.mem_zipIdx_iff_getElem?.mp hy
  exact Option.some.inj (hy.symm.trans hc)

/-! Lists of lanes. -/

/-- A list is its elements by number. -/
theorem eq_map_range_getD {α : Type} (x : α) {l : List α} {n : Nat} (h : l.length = n) : l = (List.range n).map fun k => l.getD k x := by
  subst h
  exact List.ext_getElem (by simp) fun k hk _ => by simp [hk]

/-- A scan has a lane for each lane of its source (R90). -/
theorem length_scanFrom (m op : Nat) (ex : Bool) (acc : Option (Nat × BitVec 5)) (l : List (Option Nat)) :
    (scanFrom m op ex acc l).length = l.length := by
  induction l generalizing acc with
  | nil => rfl
  | cons x r ih =>
    cases x with
    | none => exact congrArg (· + 1) (ih acc)
    | some a => exact congrArg (· + 1) (ih _)

/-- A scan of n lanes, lane by lane. -/
theorem scanFrom_eq_map (m op : Nat) (ex : Bool) (n : Nat) (g : Nat → Option Nat) :
    scanFrom m op ex none ((List.range n).map g) =
      (List.range n).map fun l => (scanFrom m op ex none ((List.range n).map g)).getD l (0, 0) :=
  eq_map_range_getD (0, 0) (by rw [length_scanFrom, List.length_map, List.length_range])

/-! Values. -/

/-- The low bits of a number that is not negative. -/
theorem wrap_natCast (w n : Nat) : wrap w n = n % 2 ^ w := by
  rw [wrap, show (2 : Int) ^ w = ((2 ^ w : Nat) : Int) by norm_cast, ← Int.natCast_mod, Int.toNat_natCast]

/-- A shift to the left drops what leaves the element (R79). -/
theorem wrap_mul_two_pow (w x k : Nat) : wrap w ((x : Int) * 2 ^ k) = x * 2 ^ k % 2 ^ w := by
  rw [← wrap_natCast]
  norm_cast

/-- The bits from a record on, from the bits from its part on: records of n bits stand two in a part (R109). -/
theorem div_part_div_record (v n p k : Nat) : v / 2 ^ (2 * n * p) / 2 ^ (n * k) = v / 2 ^ (2 * n * p + n * k) := by
  rw [Nat.div_div_eq_div_mul, Nat.pow_add]

/-! The chainable instructions. -/

/-- VSHL by its first unit: the count is taken modulo the width, and the low bits are kept (R79). -/
theorem execVshl_eq_chained (h : VHead) (d : BitVec 10) (a b : VCode) (ch : Chain) (s : State) :
    execVshl h d a b ch s = chained (.vshl h d a b ch) h d [a, b] ch 2
      (fun x => (lane0 x * 2 ^ (lane1 x % widthOf h.mode.toNat) % 2 ^ widthOf h.mode.toNat, 0)) s := by
  simp only [execVshl, elCount, wrap_mul_two_pow]

/-- Settles O2: each chainable instruction names its sources in the fields A on and those of its cascade after them, and gives each lane
its first unit and its cascade. -/
theorem chainResults : Obligations.ChainResults :=
  fun s _ _ _ _ _ _ => ⟨
    gives_chain (exec_vadd s) rfl, gives_chain (exec_vsub s) rfl, gives_chain (exec_vmul s) rfl, gives_chain (exec_vfma s) rfl,
    gives_chain (exec_vmin s) rfl, gives_chain (exec_vmax s) rfl, gives_chain (exec_vabs s) rfl, gives_chain (exec_vneg s) rfl,
    gives_chain (exec_vand s) rfl, gives_chain (exec_vor s) rfl, gives_chain (exec_vxor s) rfl,
    gives_chain ((exec_vshl s).trans (execVshl_eq_chained ..)) rfl,
    gives_chain (exec_vshr s) rfl, gives_chain (exec_vsra s) rfl, gives_chain (exec_vmov s) rfl⟩

/-! The instructions without a cascade. -/

/-- To say which lanes a V slot gives, its sources may be taken as read before its own reads. -/
theorem gives_lanes_of_reads {i : Instr} {s : State} {lat : Nat} {d : BitVec 10} {w : Nat} {p : Pred} {z : Bool} {g : Nat → Nat × BitVec 5}
    (xs : List VCode) (hvs : (info i).vs = xs.zipIdx.map fun x => (x.2, x.1))
    (hg : (∀ f c, xs[f]? = some c → (afterReads i s).vc f c = s.vc f c) → GivesLanes i s lat d w p z g) : GivesLanes i s lat d w p z g :=
  fun hv => hg (fun _ _ => vc_afterReads_of_fields hv hvs) hv

/-- Settles O3: the reads of a V slot change none of its sources, so that each lane has the value that the rules state. -/
theorem laneResults : Obligations.LaneResults := by
  intro s h d a b c ps sh k x part rc bp6 ex op2
  exact ⟨
    gives_lanes_of_reads [a, b] rfl fun reads => gives_lanewise (exec_vsel s) fun _ l => by
      simp only [pr_afterReads, reads 0 a rfl, reads 1 b rfl, src],
    gives_lanes_of_reads [a, b, c] rfl fun reads => gives_lanewise (exec_vmac16 s) fun _ l => by
      simp only [reads 0 a rfl, reads 1 b rfl, reads 2 c rfl, src],
    gives_lanes_of_reads [a, b, c] rfl fun reads => gives_lanewise (exec_vdot4 s) fun _ l => by
      simp only [reads 0 a rfl, reads 1 b rfl, reads 2 c rfl, src],
    gives_lanes_of_reads [a, b] rfl fun reads => gives_lanewise (exec_vperm s) fun _ l => by
      simp only [reads 0 a rfl, reads 1 b rfl, src],
    gives_lanes_of_reads [a, b] rfl fun reads => gives_lanewise (exec_vslide s) fun _ l => by
      simp only [reads 0 a rfl, reads 1 b rfl, src],
    gives_lanewise (exec_vbcastScalar s) fun _ l => by simp only [sc_afterReads],
    gives_lanes_of_reads [a] rfl fun reads => gives_lanewise (exec_vbcastLane s) fun _ l => by simp only [reads 0 a rfl, src],
    gives_lanes_of_reads [a] rfl fun reads => gives_lanewise (exec_vpopc s) fun _ l => by simp only [reads 0 a rfl, src],
    gives_lanes_of_reads [a] rfl fun reads => gives_lanewise (exec_vexpand s) fun _ l => by
      simp only [pr_afterReads, reads 0 a rfl, src],
    gives_lanewise (exec_viota s) fun _ l => by simp only [pr_afterReads],
    gives_lanes_of_reads [a] rfl fun reads => gives_lanes (exec_vscan s) fun _ => by
      simp only [State.utag, slotTag_afterReads, pr_afterReads, reads 0 a rfl, src, ← scanFrom_eq_map],
    gives_lanes_of_reads [a] rfl fun reads => gives_lanes (exec_vunpackb s) fun _ => by
      simp only [State.utag, slotTag_afterReads, pr_afterReads, reads 0 a rfl, div_part_div_record, Nat.reduceDiv],
    gives_lanes_of_reads [a] rfl fun reads => gives_lanes (exec_vbpackUnpack s) fun _ => by
      simp only [State.utag, slotTag_afterReads, pr_afterReads, reads 0 a rfl, sc_afterReads, Nat.reduceDiv]⟩

end Sys2Proof.Spec
end

section
/-! PROOF. The branches of a lift (R343): BRB notes the outcome of each issue and splits the mask in the last one; LJOIN runs the two parts
and joins them. -/

namespace Sys2Proof.Spec
open Sys2Proof.Machine

/-! Conditions and targets. -/

/-- A relative target in numbers (R181). -/
theorem relTarget_eq_ofInt {n : Nat} (a : W64) (o : BitVec n) : relTarget a o = a + BitVec.ofInt 64 (4 * o.toInt) := by
  rw [relTarget, Int.mul_comm, BitVec.ofInt_mul]
  rfl

/-- The conditions on a scalar by their codes (R183). -/
theorem brHolds_eq (c : BitVec 2) (v : W64) : brHolds c v =
    match c.toNat with
    | 0 => decide (v = 0) | 1 => decide (v ≠ 0) | 2 => decide (v.toInt < 0) | _ => decide (0 ≤ v.toInt) := by
  have nonneg : (!v.slt 0) = decide (0 ≤ v.toInt) := by simp [BitVec.slt, ← decide_not]
  unfold brHolds
  match c.toNat with
  | 0 => rfl
  | 1 => exact decide_not.symm
  | 2 => rfl
  | _ + 3 => exact nonneg

/-- The conditions on a predicate by their codes (R183). -/
theorem brpHolds_eq (c : BitVec 2) (p : Pred) : brpHolds c p =
    match c.toNat with
    | 0 => decide (p ≠ 0) | 1 => decide (p = BitVec.allOnes 256) | _ => decide (p = 0) := by
  unfold brpHolds
  match c.toNat with
  | 0 => exact decide_not.symm
  | 1 => rfl
  | _ + 2 => rfl

/-! The outcome of an issue. -/

/-- The state in which a control slot has read and noted its outcome. -/
def noted (i : Instr) (vote : State → Bool × W64) (s : State) : State := voteHere (slotTag i s) vote (afterReads i s)

section noted
variable (i : Instr) (vote : State → Bool × W64) (s : State)

theorem voteHere_eq_noted : voteHere (slotTag i s) vote (afterReads i s) = noted i vote s := rfl

theorem becomes_noted : Becomes (noted i vote s) (withVotes s (votesWith i s (vote (afterReads i s)))) := becomes_voteHere i vote s

theorem outside_noted : Outside s (noted i vote s) := outside_voteHere _ vote (outside_afterReads i s)

@[simp] theorem issue_noted : (noted i vote s).issue = s.issue := (issue_voteHere ..).trans (issue_afterReads i s)

@[simp] theorem lift_noted : (noted i vote s).me.flow.lift = s.me.flow.lift := by
  obtain ⟨h, k, g, e⟩ := becomes_noted i vote s
  rw [e]
  rfl

@[simp] theorem retag_noted : (noted i vote s).me.flow.retag = s.me.flow.retag := by
  obtain ⟨h, k, g, e⟩ := becomes_noted i vote s
  rw [e]
  rfl

@[simp] theorem votes_noted : (noted i vote s).me.flow.votes = votesWith i s (vote (afterReads i s)) := by
  obtain ⟨h, k, g, e⟩ := becomes_noted i vote s
  rw [e]
  rfl

end noted

/-- A bundle whose results change no tag has none to settle. -/
theorem settle_of_retag_nil {s : State} (h : s.me.flow.retag = []) : settle s = s := by simp [settle, h]

/-- In its turn a control slot has one outcome, whatever the number of its issues (R342). -/
theorem votesWith_of_turn {i : Instr} {s : State} {v : Bool × W64} (h : Turn i s v) :
    ∃ vs, votesWith i s v = v :: vs ∧ ∀ x ∈ vs, x = v := by
  obtain ⟨-, hf | ⟨hu, hne, hall⟩⟩ := h
  · exact ⟨[], by simp [votesWith, hf], by simp⟩
  · by_cases hf : s.issue.first = true
    · exact ⟨[], by simp [votesWith, hf], by simp⟩
    · obtain ⟨w, r, hw⟩ := List.exists_cons_of_ne_nil hne
      rw [hw] at hall
      obtain ⟨rfl, hr⟩ := List.forall_mem_cons.mp hall
      have hacts : slotTag i s ≠ 0 ∨ s.issue.first = true := .inl hu
      exact ⟨r ++ [w], by rw [votesWith, if_pos hacts, if_neg hf, hw]; rfl, by simpa [or_imp, forall_and] using hr⟩

/-! What a control slot answers. -/

/-- A word that completes with a transfer, after a change of its agent alone. -/
theorem makesAndSends_of {i : Instr} {s u : State} {m : Ctx} {v : Bool × W64}
    (he : exec i s = .next (stickyAfter i 0 0 (transfer v u))) (hm : Becomes u m) (hi : u.issue = s.issue) (ho : Outside s u) :
    MakesAndSends i s { m with flow := { m.flow with votes := [] } } v := by
  have hs : (transfer v u).issue = sent s.issue v := by rw [issue_transfer, hi]
  have ha : (transfer v u).issue.agent = s.issue.agent := by
    rw [hs, sent]
    split <;> rfl
  exact ⟨_, he, becomes_stickyAfter (becomes_transfer v hm), (issue_stickyAfter ..).trans hs,
    outside_issue_sticky ha (outside_transfer v ho)⟩

/-- A control slot whose effect comes after its bundle's last issue, in its turn (R336, R342): it acts, and makes its transfer. -/
theorem control_late_of_turn {i : Instr} {vote : State → Bool × W64} {act : Bool × W64 → State → Res} {out : Bool × W64 → Bool × W64}
    {s t : State} {v : Bool × W64} (h : preTrap i s = none) (hr : s.me.flow.retag = []) (hv : vote (afterReads i s) = v) (ht : Turn i s v)
    (ha : act v (noted i vote s) = .ok t) : control i true vote act out s = .next (stickyAfter i 0 0 (transfer (out v) t)) := by
  obtain ⟨vs, hvs, hall⟩ := votesWith_of_turn ht
  have hsame : vs.any (· != v) = false := by simpa using hall
  have hset : settle (noted i vote s) = noted i vote s := settle_of_retag_nil ((retag_noted ..).trans hr)
  have hvotes : (noted i vote s).me.flow.votes = v :: vs := by rw [votes_noted, hv, hvs]
  unfold Machine.control runOp
  refine runSlot_ok h ?_
  simp [voteHere_eq_noted, Res.bind, ht.1, hvotes, hsame, hset, ha]

/-! The mask and its stack. -/

/-- The agent with another mask and stack of masks, and no outcome noted. -/
def masked (s : State) (m : List Nat) (st : List MaskEntry) : Ctx :=
  { s.me with flow := { s.me.flow with votes := [], lift := { s.me.flow.lift with mask := m, stack := st } } }

theorem becomes_setMask {u : State} {c : Ctx} (m : List Nat) (st : List MaskEntry) (h : Becomes u c) :
    Becomes (setMask m st u) { c with flow := { c.flow with lift := { c.flow.lift with mask := m, stack := st } } } :=
  becomes_modMe h fun _ _ _ => rfl

/-- The members of the mask that take a branch (R343): all or none, when the slot has no tag. -/
def taken (u : BitVec 3) (s : State) (ws : List (Bool × W64)) : List Nat :=
  if u = 0 then (if ws.any (·.1) then s.me.flow.lift.mask else []) else takenMask s.me.flow.lift s.issue.tag ws

theorem taken_noted (i : Instr) (vote : State → Bool × W64) (s : State) (u : BitVec 3) (ws : List (Bool × W64)) :
    taken u (noted i vote s) ws = taken u s ws := by
  simp only [taken, lift_noted, issue_noted]

/-- The split of the mask, by the members that take the branch (R343). -/
theorem splitMask_eq (ws : List (Bool × W64)) (goal : W64) (u : BitVec 3) (s : State) : splitMask ws goal u s =
    if taken u s ws = s.me.flow.lift.mask then .ok (transfer (true, goal) s)
    else if (taken u s ws).isEmpty then .ok (transfer (false, goal) s)
    else if 8 ≤ s.me.flow.lift.stack.length then .trap (s.cause 0x11)
    else .ok (transfer (false, goal) (setMask (s.me.flow.lift.mask.filter fun f => !(taken u s ws).contains f)
      (s.me.flow.lift.stack ++ [⟨s.me.flow.lift.levels.length, s.me.flow.lift.mask, taken u s ws, goal, false⟩]) s)) := rfl

/-! BRB. -/

section brb
variable {i : Instr} {cond : State → Bool} {o : BitVec 16} {s : State}

/-- The outcome of a BRB in an issue. -/
def brbVote (cond : State → Bool) (o : BitVec 16) : State → Bool × W64 := fun t => (cond t, relTarget t.issue.here o)

theorem brb_eq_runSlot (i : Instr) (cond : State → Bool) (o : BitVec 16) (s : State) : brb i cond o s =
    runSlot i 0 0 (fun t =>
      let n := voteHere (slotTag i t) (brbVote cond o) t
      if !n.issue.last then .ok n
      else splitMask n.me.flow.votes (relTarget n.issue.here o) (slotTag i t) (settle n)) s := rfl

/-- But for its bundle's last issue, BRB notes its outcome. -/
theorem brb_not_last (h : preTrap i s = none) (hl : s.issue.last = false) :
    brb i cond o s = .next (stickyAfter i 0 0 (noted i (brbVote cond o) s)) := by
  rw [brb_eq_runSlot]
  refine runSlot_ok h ?_
  simp [voteHere_eq_noted, hl]

/-- In its bundle's last issue, BRB splits the mask by the outcomes noted. -/
theorem brb_last (h : preTrap i s = none) (hl : s.issue.last = true) (hr : s.me.flow.retag = []) : brb i cond o s =
    finish s ((splitMask (votesWith i s (brbVote cond o (afterReads i s))) (relTarget s.issue.here o) (slotTag i s)
      (noted i (brbVote cond o) s)).bind fun t => .ok (stickyAfter i 0 0 t)) := by
  have hset : settle (noted i (brbVote cond o) s) = noted i (brbVote cond o) s := settle_of_retag_nil ((retag_noted ..).trans hr)
  rw [brb_eq_runSlot, runSlot]
  simp [h, voteHere_eq_noted, hl, hset]

end brb

/-- The split of the mask by a branch of the condition and the target given (R343): what the statement says of each form of BRB. -/
def Splits (i : Instr) (s : State) (cond : Bool) (goal : W64) : Prop :=
  let l := s.me.flow.lift
  let quiet := withVotes s []
  let ws := votesWith i s (cond, goal)
  let t := taken (slotTag i s) s ws
  preTrap i s = none →
    (s.issue.last = false → Makes i s (withVotes s ws)) ∧
    (s.issue.last = true → s.me.flow.retag = [] →
      if t = l.mask then MakesAndSends i s quiet (true, goal)
      else if t = [] then MakesAndSends i s quiet (false, goal)
      else if 8 ≤ l.stack.length then Traps i s (s.cause 0x11)
      else MakesAndSends i s (masked s (l.mask.filter fun f => !t.contains f) (l.stack ++ [⟨l.levels.length, l.mask, t, goal, false⟩]))
        (false, goal))

/-- Each form of BRB splits the mask by its condition. -/
theorem brb_splits {i : Instr} {cond : State → Bool} {o : BitVec 16} {s : State} {c : Bool} (he : exec i s = brb i cond o s)
    (hc : cond (afterReads i s) = c) : Splits i s c (s.issue.here + BitVec.ofInt 64 (4 * o.toInt)) := by
  have hv : brbVote cond o (afterReads i s) = (c, s.issue.here + BitVec.ofInt 64 (4 * o.toInt)) := by
    rw [brbVote, hc, issue_afterReads, relTarget_eq_ofInt]
  have hm := becomes_noted i (brbVote cond o) s
  have hi := issue_noted i (brbVote cond o) s
  have ho := outside_noted i (brbVote cond o) s
  rw [hv] at hm
  unfold Splits
  intro l quiet ws t h
  refine ⟨fun hl => ?_, fun hl hr => ?_⟩
  · exact ⟨_, he.trans (brb_not_last h hl), becomes_stickyAfter hm, outside_trans ho (outside_stickyAfter ..)⟩
  · have hs := he.trans (brb_last h hl hr)
    rw [hv, relTarget_eq_ofInt, splitMask_eq, taken_noted, lift_noted] at hs
    split_ifs with hall hnone hfull
    · rw [if_pos hall] at hs
      exact (makesAndSends_of hs hm hi ho :)
    · rw [if_neg hall, if_pos (List.isEmpty_iff.mpr hnone)] at hs
      exact (makesAndSends_of hs hm hi ho :)
    · rw [if_neg hall, if_neg (mt List.isEmpty_iff.mp hnone), if_pos hfull] at hs
      have hcause : (noted i (brbVote cond o) s).cause 0x11 = s.cause 0x11 := by rw [State.cause, hi, State.cause]
      rw [hcause] at hs
      exact hs
    · rw [if_neg hall, if_neg (mt List.isEmpty_iff.mp hnone), if_neg hfull] at hs
      exact makesAndSends_of hs (becomes_setMask _ _ hm) hi (outside_modMe _ ho)

/-! LJOIN. -/

theorem joinVote_afterReads (i : Instr) (s : State) : joinVote (afterReads i s) = joinVote s := by simp only [joinVote, lift_afterReads]

/-- With no entry of this level on top, LJOIN leaves the mask. -/
theorem joinMask_of_no_entry {s : State}
    (h : ∀ e, s.me.flow.lift.stack.getLast? = some e → e.level ≠ s.me.flow.lift.levels.length) : joinMask s = s := by
  unfold joinMask
  dsimp only
  split
  · next e he => rw [if_pos (h e he)]
  · rfl

section entry
variable {s : State} {e : MaskEntry} (htop : s.me.flow.lift.stack.getLast? = some e) (hlevel : e.level = s.me.flow.lift.levels.length)
include htop hlevel

/-- Reached first, LJOIN runs the members set aside. -/
theorem joinMask_first (hst : e.st = false) :
    joinMask s = setMask e.pend (s.me.flow.lift.stack.dropLast ++ [{ e with st := true }]) s := by
  simp [joinMask, htop, hlevel, hst]

/-- Reached again, LJOIN restores the mask. -/
theorem joinMask_second (hst : e.st = true) : joinMask s = setMask e.saved s.me.flow.lift.stack.dropLast s := by
  simp [joinMask, htop, hlevel, hst]

end entry

theorem issue_joinMask (s : State) : (joinMask s).issue = s.issue := by
  unfold joinMask
  dsimp only
  split
  · split_ifs <;> rfl
  · rfl

theorem outside_joinMask {s t : State} (h : Outside s t) : Outside s (joinMask t) := by
  unfold joinMask
  dsimp only
  split
  · split_ifs
    · exact h
    · exact outside_modMe _ h
    · exact outside_modMe _ h
  · exact h

theorem joinVote_of_top_none {s : State} (h : s.me.flow.lift.stack.getLast? = none) : joinVote s = (false, 0) := by
  rw [joinVote, h]

theorem joinVote_of_top_some {s : State} {e : MaskEntry} (h : s.me.flow.lift.stack.getLast? = some e) :
    joinVote s = (decide (e.level = s.me.flow.lift.levels.length) && !e.st, e.tgt) := by
  rw [joinVote, h]

section ljoin
variable {s : State} (h : preTrap .ljoin s = none) (hr : s.me.flow.retag = []) (ht : Turn .ljoin s (joinVote s))
include h hr ht

/-- In its turn LJOIN changes the mask as the entry on top says, and makes the entry's transfer (R343). -/
theorem ljoin_makesAndSends {m : Ctx} (hm : Becomes (joinMask (noted .ljoin joinVote s)) m) :
    MakesAndSends .ljoin s { m with flow := { m.flow with votes := [] } } (joinVote s) :=
  makesAndSends_of ((exec_ljoin s).trans (control_late_of_turn h hr (joinVote_afterReads ..) ht rfl)) hm
    ((issue_joinMask _).trans (issue_noted ..)) (outside_joinMask (outside_noted ..))

theorem ljoin_of_no_entry (hno : ∀ e, s.me.flow.lift.stack.getLast? = some e → e.level ≠ s.me.flow.lift.levels.length) :
    MakesAndSends .ljoin s (withVotes s []) (joinVote s) := by
  have hj : joinMask (noted .ljoin joinVote s) = noted .ljoin joinVote s := joinMask_of_no_entry (by rwa [lift_noted])
  have hm := becomes_noted .ljoin joinVote s
  rw [← hj] at hm
  exact (ljoin_makesAndSends h hr ht hm :)

/-- LJOIN changes the agent as it changes the mask. -/
theorem ljoin_of_setMask {m : List Nat} {st : List MaskEntry}
    (hj : joinMask (noted .ljoin joinVote s) = setMask m st (noted .ljoin joinVote s)) :
    MakesAndSends .ljoin s (masked s m st) (joinVote s) := by
  have hm := becomes_setMask m st (becomes_noted .ljoin joinVote s)
  rw [← hj] at hm
  exact ljoin_makesAndSends h hr ht hm

variable {e : MaskEntry} (htop : s.me.flow.lift.stack.getLast? = some e) (hlevel : e.level = s.me.flow.lift.levels.length)
include htop hlevel

theorem ljoin_first (hst : e.st = false) :
    MakesAndSends .ljoin s (masked s e.pend (s.me.flow.lift.stack.dropLast ++ [{ e with st := true }])) (joinVote s) := by
  rw [← lift_noted .ljoin joinVote s] at htop hlevel ⊢
  exact ljoin_of_setMask h hr ht (joinMask_first htop hlevel hst)

theorem ljoin_second (hst : e.st = true) :
    MakesAndSends .ljoin s (masked s e.saved s.me.flow.lift.stack.dropLast) (joinVote s) := by
  rw [← lift_noted .ljoin joinVote s] at htop hlevel ⊢
  exact ljoin_of_setMask h hr ht (joinMask_second htop hlevel hst)

end ljoin

/-- Settles O10: BRB by the members of the mask that take the branch, LJOIN by the entry on top of the stack. -/
theorem liftBranches : Obligations.LiftBranches := by
  intro s c a p o l goal quiet lifted splits
  refine ⟨?_, ?_, fun h hr ht => ?_⟩
  · exact brb_splits (exec_brbScalar s) ((congrArg _ (sc_afterReads ..)).trans (brHolds_eq c _))
  · exact brb_splits (exec_brbPred s) ((congrArg _ (pr_afterReads ..)).trans (brpHolds_eq c _))
  · rcases htop : l.stack.getLast? with _ | e
    · have hj := ljoin_of_no_entry h hr ht fun e he => absurd (htop.symm.trans he) nofun
      rwa [joinVote_of_top_none htop] at hj
    · have hvote := joinVote_of_top_some htop
      dsimp only
      split_ifs with hlevel hst
      · have hj := ljoin_of_no_entry h hr ht fun e' he => by rwa [← Option.some.inj (htop.symm.trans he)]
        rwa [hvote, decide_eq_false hlevel] at hj
      · have hj := ljoin_second h hr ht htop (not_not.mp hlevel) hst
        rwa [hvote, hst, Bool.not_true, Bool.and_false] at hj
      · have hj := ljoin_first h hr ht htop (not_not.mp hlevel) (Bool.eq_false_of_not_eq_true hst)
        rwa [hvote, decide_eq_true (not_not.mp hlevel), Bool.eq_false_of_not_eq_true hst] at hj

end Sys2Proof.Spec
end
